-- ==== Sys2Proof/Word.lean ====
section
/-! DEFINITION. The word types of the machine, little-endian byte lists (R2) and the finite maps every table of State is held in. -/

namespace Sys2Proof

abbrev Byte := BitVec 8
abbrev Word := BitVec 32
abbrev Dword := BitVec 64

/-- A finite map from numbers: pairs, keys rising. `put` keeps the keys rising and unrepeated. -/
abbrev FMap (α : Type) := List (Nat × α)

namespace FMap

/-- The value listed for a key. -/
def look {α : Type} : FMap α → Nat → Option α
  | [], _ => none
  | (k, v) :: r, x => if k = x then some v else look r x

/-- The value listed for a key, or a default. -/
def lookD {α : Type} (m : FMap α) (x : Nat) (d : α) : α := (look m x).getD d

/-- The map with one key set. -/
def put {α : Type} : FMap α → Nat → α → FMap α
  | [], x, w => [(x, w)]
  | (k, v) :: r, x, w =>
    if x < k then (x, w) :: (k, v) :: r
    else if x = k then (x, w) :: r
    else (k, v) :: put r x w

/-- The map without one key. -/
def del {α : Type} : FMap α → Nat → FMap α
  | [], _ => []
  | (k, v) :: r, x => if k = x then del r x else (k, v) :: del r x

/-- Keys strictly rising from `lo` upward. -/
def risingFrom {α : Type} : Nat → FMap α → Bool
  | _, [] => true
  | lo, (k, _) :: r => decide (lo ≤ k) && risingFrom (k + 1) r

/-- Keys strictly rising. -/
def rising {α : Type} (m : FMap α) : Bool := risingFrom 0 m

/-- Values only, in key order. -/
def vals {α : Type} (m : FMap α) : List α := m.map (·.2)

/-- Keys only, rising. -/
def keys {α : Type} (m : FMap α) : List Nat := m.map (·.1)

end FMap

/-- The number held by bytes, lowest first (R2). -/
def leNat : List Byte → Nat
  | [] => 0
  | b :: r => b.toNat + 256 * leNat r

/-- The `n` lowest bytes of a number, lowest first (R2). -/
def leBytes : Nat → Nat → List Byte
  | 0, _ => []
  | n + 1, v => BitVec.ofNat 8 v :: leBytes n (v / 256)

/-- Bits `hi:lo` of a number (R1). -/
def bits (v hi lo : Nat) : Nat := v / 2 ^ lo % 2 ^ (hi + 1 - lo)

/-- Two's complement reading of the low `n` bits (R11). -/
def signExtend (v n : Nat) : Int :=
  let m := v % 2 ^ n
  if 2 ^ (n - 1) ≤ m then (m : Int) - 2 ^ n else m

/-- An integer modulo `2^n`, as a number (R11). -/
def trunc (x : Int) (n : Nat) : Nat := (x % (2 ^ n : Int)).toNat

end Sys2Proof
end

