-- ==== Sys2Proof/Config.lean ====
section
/-! DEFINITION. What an implementation fixes and the manual leaves open: constants, and free values no proof can evaluate. -/

namespace Sys2Proof.Config

/-- The boot configuration of step 3 (R346): what the firmware writes to LK_DEVID, LK_ROUTE and PW_BUDGET, by offset; the budget group; the repair map of each die; the contexts with a SYS grant; the context-ID pool. -/
structure BootConfig where
  writes : List (Nat × Nat) := []
  group : Nat := 0
  repairs : List (List Byte) := []
  grants : List Nat := []
  pool : List Nat := []
  deriving DecidableEq, Repr, Inhabited

/-- Compute cores of the package (R12, R15). -/
def cores : Nat := 192
/-- Wave slots of a core (R15). -/
def slots : Nat := 96
/-- Threads of a wave (R25). -/
def lanes : Nat := 128
/-- Hardware queues (R10). -/
def queues : Nat := 64
/-- Lines that a core's L1 holds: 1536 KiB of 128 bytes (R15, R101). -/
def l1Lines : Nat := 12288
/-- Threads of all core wave slots; queue programs are numbered from here. -/
def coreThreads : Nat := cores * slots * lanes
/-- Bytes of HBM on one C-die (R99). -/
def dieBytes : Nat := 0x1800000000
/-- First physical address above HBM (R99). -/
def hbmEnd : Nat := 0x6000000000
/-- Host memory window (R99). -/
def hostBase : Nat := 0x010000000000
def hostEnd : Nat := 0x020000000000
/-- Device register space (R99). -/
def regBase : Nat := 0x020000000000
def regEnd : Nat := 0x020100000000

/-- Bits of a poisoned result (R367: unspecified), applied to State.free. Log 9. -/
opaque freeWord : Nat → Word
/-- Which of the values inside R96's bound a function returns: function number, operand bits. Log 10. -/
opaque approx : Nat → Nat → Nat
/-- Which of the NaN codes of an MX element format packing stores (R75): choice number, operand bits. Log 10. -/
opaque nanChoice : Nat → Nat → Nat
/-- The way an L2 fill evicts (R445: not architected), applied to State.free. Log 11. -/
opaque l2Victim : Nat → Nat
/-- The line that a full L1 evicts (R15: no rule chooses it), applied to State.free. Log 11. -/
opaque l1Victim : Nat → Nat
/-- Whether a cached translation is used where one matches (R117, R118), applied to State.free. Log 8. -/
opaque tlbUse : Nat → Bool
/-- The operation code that a checked crew's digest holds for a write (R299 gives it a byte and no numbers): the write's class or atomic OP. Log 34. -/
opaque digestCode : Nat → Byte
/-- The link taken among equally occupied ones (R341), applied to State.free. Log 26. -/
opaque linkPick : Nat → Nat
/-- Whether a ray hits a triangle whose test leaves the finite numbers, and with what t, u and v: the manual states no result (R320). Log 28. -/
opaque oddTriangle : List Nat → Nat
/-- Byte k of the device's XMSS-SHAKE_20_512 signature of a report at a one-time index (R348): its key is the device's own. Log 20. -/
opaque xmssSign : List Byte → Nat → Nat → Byte
/-- Whether an image's body has not the form that firmware has, which no rule gives (R437 RES 3). Log 20. -/
opaque malformed : List Byte → Bool
/-- The SHAKE256 digest of the root public key, as the ROM holds it (R347). -/
opaque rootKeyDigest : List Byte
/-- Boot configuration that a Lacewing image writes at step 3 of R346, by its body. Log 20. -/
opaque bootPlan : List Byte → BootConfig
/-- The boot configuration as an attestation report holds it (R349). Log 20. -/
opaque bootConfig : BootConfig → List Byte
/-- The budget group of the peer at a pod link (R346 step 5). Log 32. -/
opaque peerGroup : Nat → Nat
/-- Whether a blown index fuse reads back (R348), by cell. Log 20. -/
opaque fuseReads : Nat → Bool
/-- Source devices that Lacewing admits into a new context's import bitmap (R342), applied to State.free. Log 33. -/
opaque importMask : Nat → Nat
/-- A die's power cap as Lacewing divides the package cap (R345): CAP and the die. Log 32. -/
opaque dieCap : Nat → Nat → Nat
/-- By how much Lacewing raises a core's CAD when a die manager asks (R344), applied to State.free. Log 32. -/
opaque cadenceRise : Nat → Nat

/-- Whether a flit that fails CRC is the one that failed last on its link, applied to State.free. Log 41. -/
opaque flitAgain : Nat → Bool
/-- Whether what is saved of a crew lies at a granule of its context's save area, whose layout R297 hides: the crew's start number, the granule from the area's pointer. Log 21. -/
opaque savedThere : Nat → Nat → Bool
/-- Whether some of it lies on a die: the crew's start number, the area's pointer, the die. Log 21. -/
opaque savedOn : Nat → Nat → Nat → Bool

end Sys2Proof.Config
end

