-- ==== Sys2Proof/Machine/Flags.lean ====
section
/-! DEFINITION. Floating-point values and flags: decoding, one rounding with the flags IEEE 754-2019 signals, and every scalar operation (R67 to R73, R96, R186 to R193). -/

namespace Sys2Proof.Machine

/-- The flags of MODE (R67): NV, DZ, OF, UF, NX. -/
structure Flags where
  nv : Bool := false
  dz : Bool := false
  ovf : Bool := false
  unf : Bool := false
  nx : Bool := false
  deriving DecidableEq, Repr

def Flags.bits (f : Flags) : Word :=
  BitVec.ofNat 32 (f.nv.toNat * 4096 + f.dz.toNat * 2048 + f.ovf.toNat * 1024 + f.unf.toNat * 512 + f.nx.toNat * 256)
def Flags.or (f g : Flags) : Flags := ⟨f.nv || g.nv, f.dz || g.dz, f.ovf || g.ovf, f.unf || g.unf, f.nx || g.nx⟩

/-- A format of R70: exponent and fraction bits. -/
structure Fmt where
  e : Nat
  m : Nat
  deriving DecidableEq, Repr

def f16 : Fmt := ⟨5, 10⟩
def bf16 : Fmt := ⟨8, 7⟩
def f32 : Fmt := ⟨8, 23⟩
def f64 : Fmt := ⟨11, 52⟩

/-- Rounding modes by MODE.RM (R67, R73). -/
inductive Rm where
  | rne
  | rtz
  | rup
  | rdn
  deriving DecidableEq, Repr

def rmOf (n : Nat) : Rm := if n % 4 = 0 then .rne else if n % 4 = 1 then .rtz else if n % 4 = 2 then .rup else .rdn

/-- A decoded value: NaN, infinity, or a sign and `man × 2^exp`. -/
inductive FVal where
  | nan (signalling : Bool)
  | inf (neg : Bool)
  | fin (neg : Bool) (man : Nat) (exp : Int)
  deriving DecidableEq, Repr

namespace Fmt

def signBit (f : Fmt) : Nat := 2 ^ (f.e + f.m)
def infBits (f : Fmt) : Nat := (2 ^ f.e - 1) * 2 ^ f.m
def quietBit (f : Fmt) : Nat := 2 ^ (f.m - 1)
/-- The default NaN of R72. -/
def defaultNaN (f : Fmt) : Nat := f.infBits + f.quietBit
/-- The least normal exponent, and the exponent of the last bit of a subnormal. -/
def emin (f : Fmt) : Int := 2 - 2 ^ (f.e - 1)
def eulp (f : Fmt) : Int := f.emin - f.m
def neg (f : Fmt) (x : Nat) : Bool := x / f.signBit % 2 = 1
def mag (f : Fmt) (x : Nat) : Nat := x % f.signBit
def withSign (f : Fmt) (n : Bool) (x : Nat) : Nat := (if n then f.signBit else 0) + x

def decode (f : Fmt) (x : Nat) : FVal :=
  let x := x % (2 * f.signBit)
  let n := f.neg x
  let ex := f.mag x / 2 ^ f.m
  let fr := x % 2 ^ f.m
  if ex = 2 ^ f.e - 1 then (if fr = 0 then .inf n else .nan (fr / f.quietBit % 2 = 0))
  else if ex = 0 then .fin n fr f.eulp
  else .fin n (2 ^ f.m + fr) (f.eulp + ex - 1)

def isNaN (f : Fmt) (x : Nat) : Bool := f.infBits < f.mag x
def isSNaN (f : Fmt) (x : Nat) : Bool := f.isNaN x && x / f.quietBit % 2 = 0
def quiet (f : Fmt) (x : Nat) : Nat := if x / f.quietBit % 2 = 0 then x + f.quietBit else x

end Fmt

/-- Whether a truncated magnitude is increased: remainder `r` of `2^sh`, and whether the kept part is odd (R73). -/
def roundsUp (rm : Rm) (neg odd : Bool) (r half : Nat) : Bool :=
  match rm with
  | .rne => half < r || (r = half && r ≠ 0 && odd)
  | .rtz => false
  | .rup => !neg && r ≠ 0
  | .rdn => neg && r ≠ 0

/-- `man × 2^exp` to a multiple of `2^q`: the multiple and whether it is inexact. -/
def roundAt (rm : Rm) (neg : Bool) (man : Nat) (exp q : Int) : Nat × Bool :=
  if q ≤ exp then (man * 2 ^ (exp - q).toNat, false)
  else
    let sh := (q - exp).toNat
    let k := man / 2 ^ sh
    let r := man % 2 ^ sh
    (if roundsUp rm neg (k % 2 = 1) r (2 ^ (sh - 1)) then k + 1 else k, r ≠ 0)

/-- The result of an overflow (R73). -/
def Fmt.overflow (f : Fmt) (rm : Rm) (neg : Bool) : Nat :=
  let inf := f.withSign neg f.infBits
  let big := f.withSign neg (f.infBits - 1)
  match rm with
  | .rne => inf
  | .rtz => big
  | .rup => if neg then big else inf
  | .rdn => if neg then inf else big

/-- RoundFmt of R176: an exact `±man × 2^exp` in the format, with OF, UF and NX. Tininess is detected after rounding (R71). -/
def Fmt.round (f : Fmt) (rm : Rm) (neg : Bool) (man : Nat) (exp : Int) : Nat × Flags :=
  if man = 0 then (f.withSign neg 0, {})
  else
    let top : Int := exp + Nat.log2 man
    let q := max (top - f.m) f.eulp
    let (k, inexact) := roundAt rm neg man exp q
    let b := (q - f.eulp).toNat * 2 ^ f.m + k
    if f.infBits ≤ b then (f.overflow rm neg, { ovf := true, nx := true })
    else
      let carry : Int := if (roundAt rm neg man exp (top - f.m)).1 = 2 ^ (f.m + 1) then 1 else 0
      let tiny := decide (top + carry < f.emin)
      (f.withSign neg b, { unf := tiny && inexact, nx := inexact })

/-- An exact signed value rounded; `zneg` is the sign an exact zero takes. -/
def Fmt.roundInt (f : Fmt) (rm : Rm) (v : Int) (exp : Int) (zneg : Bool) : Nat × Flags :=
  if v = 0 then (f.withSign zneg 0, {}) else f.round rm (v < 0) v.natAbs exp

/-- Two exact values on one exponent. -/
def alignExp (e1 e2 : Int) : Int := min e1 e2
def scaled (neg : Bool) (man : Nat) (exp low : Int) : Int :=
  let v : Int := man * 2 ^ (exp - low).toNat
  if neg then -v else v

/-- The sign of an exact zero sum (R73). -/
def zeroSign (rm : Rm) (n1 n2 : Bool) : Bool := if n1 = n2 then n1 else rm = .rdn

/-- The first NaN operand, quieted, in the order given (R72). -/
def Fmt.firstNaN (f : Fmt) : List Nat → Option Nat
  | [] => none
  | x :: r => if f.isNaN x then some (f.quiet x) else f.firstNaN r
def Fmt.anySNaN (f : Fmt) (l : List Nat) : Bool := l.any f.isSNaN

/-- FADD (R186). -/
def Fmt.add (f : Fmt) (rm : Rm) (a b : Nat) : Nat × Flags :=
  match f.firstNaN [a, b] with
  | some n => (n, { nv := f.anySNaN [a, b] })
  | none =>
    match f.decode a, f.decode b with
    | .inf n1, .inf n2 => if n1 = n2 then (a, {}) else (f.defaultNaN, { nv := true })
    | .inf _, _ => (a, {})
    | _, .inf _ => (b, {})
    | .fin n1 m1 e1, .fin n2 m2 e2 =>
      let e := alignExp e1 e2
      f.roundInt rm (scaled n1 m1 e1 e + scaled n2 m2 e2 e) e (zeroSign rm n1 n2)
    | .nan _, _ => (f.defaultNaN, {})
    | _, .nan _ => (f.defaultNaN, {})

/-- The operand with its sign reversed, for subtraction; a NaN keeps its sign (R72). -/
def Fmt.negate (f : Fmt) (x : Nat) : Nat := if f.isNaN x then x else if f.neg x then x - f.signBit else x + f.signBit

def Fmt.sub (f : Fmt) (rm : Rm) (a b : Nat) : Nat × Flags := f.add rm a (f.negate b)

/-- FMUL (R186). -/
def Fmt.mul (f : Fmt) (rm : Rm) (a b : Nat) : Nat × Flags :=
  match f.firstNaN [a, b] with
  | some n => (n, { nv := f.anySNaN [a, b] })
  | none =>
    let s := f.neg a ≠ f.neg b
    match f.decode a, f.decode b with
    | .fin _ m1 e1, .fin _ m2 e2 => if m1 * m2 = 0 then (f.withSign s 0, {}) else f.round rm s (m1 * m2) (e1 + e2)
    | .inf _, .fin _ m _ => if m = 0 then (f.defaultNaN, { nv := true }) else (f.withSign s f.infBits, {})
    | .fin _ m _, .inf _ => if m = 0 then (f.defaultNaN, { nv := true }) else (f.withSign s f.infBits, {})
    | _, _ => (f.withSign s f.infBits, {})

/-- FMA (R186): one rounding; a product 0 × ∞ is invalid whatever the addend. -/
def Fmt.fma (f : Fmt) (rm : Rm) (a b d : Nat) : Nat × Flags :=
  let inv := match f.decode a, f.decode b with
    | .inf _, .fin _ m _ => m = 0
    | .fin _ m _, .inf _ => m = 0
    | _, _ => false
  match f.firstNaN [a, b, d] with
  | some n => (n, { nv := inv || f.anySNaN [a, b, d] })
  | none =>
    if inv then (f.defaultNaN, { nv := true })
    else
      let s := f.neg a ≠ f.neg b
      match f.decode a, f.decode b, f.decode d with
      | .fin _ m1 e1, .fin _ m2 e2, .fin n3 m3 e3 =>
        let e := alignExp (e1 + e2) e3
        f.roundInt rm (scaled s (m1 * m2) (e1 + e2) e + scaled n3 m3 e3 e) e (zeroSign rm s n3)
      | .fin _ _ _, .fin _ _ _, _ => (d, {})
      | _, _, .inf n3 => if n3 = s then (d, {}) else (f.defaultNaN, { nv := true })
      | _, _, _ => (f.withSign s f.infBits, {})

/-- An order on bit patterns: −0 below +0 (R187). -/
def Fmt.key (f : Fmt) (x : Nat) : Int := if f.neg x then -(f.mag x : Int) - 1 else f.mag x

/-- FMIN and FMAX (R187). -/
def Fmt.minMax (f : Fmt) (isMax : Bool) (a b : Nat) : Nat × Flags :=
  let nv := f.anySNaN [a, b]
  if f.isNaN a && f.isNaN b then (f.quiet a, { nv := nv })
  else if f.isNaN a then (b, { nv := nv })
  else if f.isNaN b then (a, { nv := nv })
  else if f.key a ≤ f.key b then (if isMax then b else a, {})
  else (if isMax then a else b, {})

/-- The relations of FSET (R188). -/
inductive FRel where
  | eq
  | ne
  | lt
  | le
  | gt
  | ge
  | un
  | or
  deriving DecidableEq, Repr

/-- FSET (R188): −0 equals +0; NV by the relation. -/
def Fmt.rel (f : Fmt) (r : FRel) (a b : Nat) : Nat × Flags :=
  let nan := f.isNaN a || f.isNaN b
  let ka := if f.mag a = 0 then 0 else f.key a
  let kb := if f.mag b = 0 then 0 else f.key b
  let holds : Bool := match r with
    | .eq => !nan && ka = kb
    | .ne => nan || ka ≠ kb
    | .lt => !nan && ka < kb
    | .le => !nan && ka ≤ kb
    | .gt => !nan && kb < ka
    | .ge => !nan && kb ≤ ka
    | .un => nan
    | .or => !nan
  let nv : Bool := match r with
    | .lt | .le | .gt | .ge => nan
    | .eq | .ne | .un | .or => f.anySNaN [a, b]
  (holds.toNat, { nv := nv })

/-! ### Square roots, reciprocals and the approximated functions (R96) -/

/-- The integer square root, bit by bit from bit `k`. -/
def isqrtBits (n : Nat) : Nat → Nat → Nat
  | 0, r => r
  | k + 1, r => isqrtBits n k (if (r + 2 ^ k) * (r + 2 ^ k) ≤ n then r + 2 ^ k else r)
def isqrt (n : Nat) : Nat := isqrtBits n (Nat.log2 n / 2 + 1) 0

/-- SQRT (R96): correctly rounded in the mode. -/
def Fmt.sqrt (f : Fmt) (rm : Rm) (a : Nat) : Nat × Flags :=
  match f.decode a with
  | .nan sg => (f.quiet a, { nv := sg })
  | .inf n => if n then (f.defaultNaN, { nv := true }) else (a, {})
  | .fin n m e =>
    if m = 0 then (a, {})
    else if n then (f.defaultNaN, { nv := true })
    else
      let odd := e % 2 ≠ 0
      let m := if odd then 2 * m else m
      let e := if odd then e - 1 else e
      let big := m * 2 ^ 140
      let r := isqrt big
      f.round rm false (2 * r + (if r * r = big then 0 else 1)) (e / 2 - 71)

/-- A positive real known to 2^-`prec`: `num × 2^exp` with `num` of many bits, and whether it is exact. -/
structure Real where
  num : Nat
  exp : Int
  exact : Bool
  deriving DecidableEq, Repr

/-- The pattern (sign 0) of the largest number of the format not above a positive value. -/
def Fmt.floorBits (f : Fmt) (x : Real) : Nat := (f.round .rtz false x.num x.exp).1

/-- Whether a positive pattern lies within `k` ulp of a value, an ulp being the format's spacing at the value. -/
def Fmt.within (f : Fmt) (x : Real) (k b : Nat) : Bool :=
  match f.decode b with
  | .fin _ m e =>
    let ulp := max (x.exp + Nat.log2 x.num - f.m) f.eulp
    let z := min (min e x.exp) ulp
    let d := scaled false m e z - scaled false x.num x.exp z
    d.natAbs ≤ k * 2 ^ (ulp - z).toNat
  | _ => false

/-- A result within `k` ulp of a positive value and of the sign given: which one is the model's free value (log 10). Beyond the largest magnitude it is the overflow of R73. -/
def Fmt.near (f : Fmt) (fn arg : Nat) (neg : Bool) (x : Real) (k : Nat) : Nat × Flags :=
  let beyond := (Nat.log2 x.num : Int) + x.exp > (2 ^ (f.e - 1) - 1 : Int)
  if beyond then (f.withSign neg f.infBits, { ovf := true, nx := true })
  else
    let lo := f.floorBits x
    let cands := ((List.range (4 * k + 2)).filterMap fun i =>
      if lo + i < 2 * k then none
      else
        let b := lo + i - 2 * k
        if b < f.infBits && f.within x k b then some b else none)
    let b := cands.getD (Config.approx fn arg % max 1 cands.length) lo
    let inexact := !(x.exact && (match f.decode b with
      | .fin _ m e => let z := min e x.exp; scaled false m e z = scaled false x.num x.exp z
      | _ => false))
    (f.withSign neg b, { nx := inexact, unf := inexact && b < 2 ^ f.m })

/-- RCP (R96). -/
def Fmt.rcp (f : Fmt) (fn a : Nat) : Nat × Flags :=
  match f.decode a with
  | .nan sg => (f.quiet a, { nv := sg })
  | .inf n => (f.withSign n 0, {})
  | .fin n m e =>
    if m = 0 then (f.withSign n f.infBits, { dz := true })
    else
      let big := 2 ^ 300
      f.near fn a n ⟨big / m, -e - 300, big % m = 0⟩ 1

/-- RSQ (R96). -/
def Fmt.rsq (f : Fmt) (fn a : Nat) : Nat × Flags :=
  match f.decode a with
  | .nan sg => (f.quiet a, { nv := sg })
  | .inf n => if n then (f.defaultNaN, { nv := true }) else (0, {})
  | .fin n m e =>
    if m = 0 then (f.withSign n f.infBits, { dz := true })
    else if n then (f.defaultNaN, { nv := true })
    else
      let odd := e % 2 ≠ 0
      let m := if odd then 2 * m else m
      let e := if odd then e - 1 else e
      let big := 2 ^ 600 / m
      let r := isqrt big
      f.near fn a false ⟨r, -(e / 2) - 300, 2 ^ 600 % m = 0 && r * r = big⟩ 2

/-! Fixed point with 256 fraction bits. -/

def fxOne : Nat := 2 ^ 256

/-- The product of 2^(2^-i) over the bits of a fraction, highest bit first: `c` is 2^(2^-i) in fixed point. -/
def exp2Frac (frac : Nat) : Nat → Nat → Nat → Nat
  | 0, _, acc => acc
  | k + 1, c, acc =>
    let c := isqrt (c * fxOne)
    exp2Frac frac k c (if frac / 2 ^ k % 2 = 1 then acc * c / fxOne else acc)

/-- EXP2 in binary32 (R96): exact for an integer whose result is representable. -/
def exp2F32 (a : Nat) : Nat × Flags :=
  match f32.decode a with
  | .nan sg => (f32.quiet a, { nv := sg })
  | .inf n => (if n then 0 else f32.infBits, {})
  | .fin n m e =>
    -- the argument in fixed point with 160 fraction bits
    let x : Int := if 0 ≤ e + 160 then scaled n m (e + 160) 0 else (if n then -((m / 2 ^ (-(e + 160)).toNat : Nat) : Int) else (m / 2 ^ (-(e + 160)).toNat : Nat))
    let i : Int := x / 2 ^ 160
    let frac := (x % 2 ^ 160).toNat
    let isInt := frac = 0 && 0 ≤ e + 160
    if i < -400 then f32.near 3 a false ⟨1, -400, false⟩ 2
    else if 200 < i then (f32.infBits, { ovf := true, nx := true })
    else if isInt then
      if -149 ≤ i && i ≤ 127 then f32.round .rne false 1 i else f32.near 3 a false ⟨1, i, true⟩ 2
    else f32.near 3 a false ⟨exp2Frac frac 160 (2 * fxOne) fxOne, i - 256, false⟩ 2

/-- Bits of log2 of a fixed-point number in [1, 2), highest first. -/
def log2Bits : Nat → Nat → Nat → Nat
  | 0, _, acc => acc
  | k + 1, m, acc =>
    let s := m * m / fxOne
    if 2 * fxOne ≤ s then log2Bits k (s / 2) (2 * acc + 1) else log2Bits k s (2 * acc)

/-- LOG2 in binary32 (R96): exact for powers of 2. -/
def log2F32 (a : Nat) : Nat × Flags :=
  match f32.decode a with
  | .nan sg => (f32.quiet a, { nv := sg })
  | .inf n => if n then (f32.defaultNaN, { nv := true }) else (f32.infBits, {})
  | .fin n m e =>
    if m = 0 then (f32.withSign true f32.infBits, { dz := true })
    else if n then (f32.defaultNaN, { nv := true })
    else
      let k := Nat.log2 m
      let i : Int := e + k
      if m = 2 ^ k then f32.roundInt .rne i 0 false
      else
        let fr := log2Bits 160 (m * 2 ^ (256 - k)) 0
        let v : Int := i * 2 ^ 160 + fr
        f32.near 4 a (v < 0) ⟨v.natAbs, -160, false⟩ 2

/-- atan(1/q) in fixed point by its series: `n` terms. -/
def atanInv (q : Nat) : Nat → Nat → Nat → Int → Int
  | 0, _, _, acc => acc
  | n + 1, k, p, acc =>
    let t : Int := (p / (2 * k + 1) : Nat)
    atanInv q n (k + 1) (p / (q * q)) (if k % 2 = 0 then acc + t else acc - t)

/-- π in fixed point with 512 fraction bits (Machin). -/
def piFixed : Nat :=
  (16 * atanInv 5 120 0 (2 ^ 512 / 5) 0 - 4 * atanInv 239 40 0 (2 ^ 512 / 239) 0).toNat

/-- The series of sine (`j` = 1) and cosine (`j` = 0) in fixed point with 256 fraction bits, over an argument in [0, 2). -/
def sinCosSeries (x : Nat) : Nat → Nat → Nat → Bool → Int → Int
  | 0, _, _, _, acc => acc
  | n + 1, j, t, pos, acc =>
    let acc := if pos then acc + t else acc - t
    sinCosSeries x n (j + 2) (t * x / fxOne * x / fxOne / ((j + 1) * (j + 2))) (!pos) acc

/-- SIN and COS in binary32 (R96), in radians with full range reduction. -/
def trigF32 (isCos : Bool) (a : Nat) : Nat × Flags :=
  match f32.decode a with
  | .nan sg => (f32.quiet a, { nv := sg })
  | .inf _ => (f32.defaultNaN, { nv := true })
  | .fin n m e =>
    if m = 0 then (if isCos then (0x3f800000, {}) else (a, {}))
    else if !isCos && e + Nat.log2 m < -64 then -- x − x³/6, less than a unit below x
      f32.near 5 a n ⟨m * 2 ^ 100 - 1, e - 100, false⟩ 2
    else if e < -120 then -- 1 − x²/2
      f32.near 6 a false ⟨2 ^ 150 - 1, -150, false⟩ 2
    else
      let x := m * 2 ^ (e + 512).toNat
      let half := piFixed / 2
      let q := x / half
      let r := (x % half) / 2 ^ 256
      let k := if isCos then q + 1 else q
      let v := if k % 2 = 0 then sinCosSeries r 60 1 r true 0 else sinCosSeries r 60 0 fxOne true 0
      let neg := (k / 2 % 2 = 1) ≠ (n && !isCos) -- cosine is even
      f32.near (if isCos then 6 else 5) a ((v < 0) ≠ neg) ⟨max 1 v.natAbs, -256, false⟩ 2

end Sys2Proof.Machine
end

