-- ==== Sys2Proof/Syntax.lean ====
section
/-! DEFINITION. Every row of the opcode table as a constructor: the 238 instruction words with their fields (R152), then the 88 steps without a word, each with what its agent chooses. -/

namespace Sys2Proof

/-- A firmware image (R347): its body, the root public key that it names, and its XMSS signature. -/
structure FirmwareImage where
  body : List Byte
  key : List Byte
  sig : List Byte
  deriving DecidableEq, Repr

/-- The images that start-up takes (R346): Lacewing's and the queue cores'. -/
structure BootImages where
  firmware : FirmwareImage
  queue : FirmwareImage
  deriving DecidableEq, Repr

/-- A configuration access of the host (R337): its offset and, of a write to the MSI-X table, the vector with its new mask. -/
structure ConfigAccess where
  off : Nat
  mask : Option (Nat × Bool) := none
  deriving DecidableEq, Repr

/-- A place in a storage, by the CODE that R375 gives the storage. -/
structure StoragePlace where
  store : Nat
  at' : Nat
  deriving DecidableEq, Repr

/-- One row of the opcode table. A field of an instruction is the word's field of R152; a Bool is a one-bit field. -/
inductive Instr where
  /-- Adds two 32-bit values modulo 2^32 (R178). -/
  | add (u : Bool) (d a b : BitVec 7)
  /-- Subtracts two 32-bit values modulo 2^32 (R178). -/
  | sub (u : Bool) (d a b : BitVec 7)
  /-- Signed 32-bit minimum (R178). -/
  | minI32 (u : Bool) (d a b : BitVec 7)
  /-- Unsigned 32-bit minimum (R178). -/
  | minN32 (u : Bool) (d a b : BitVec 7)
  /-- Signed 32-bit maximum (R178). -/
  | maxI32 (u : Bool) (d a b : BitVec 7)
  /-- Unsigned 32-bit maximum (R178). -/
  | maxN32 (u : Bool) (d a b : BitVec 7)
  /-- 32-bit absolute value, the most negative value unchanged (R178). -/
  | abs (u : Bool) (d a : BitVec 7)
  /-- 32-bit negation modulo 2^32 (R178). -/
  | neg (u : Bool) (d a : BitVec 7)
  /-- 32-bit bitwise AND (R178). -/
  | and (u : Bool) (d a b : BitVec 7)
  /-- 32-bit bitwise OR (R178). -/
  | or (u : Bool) (d a b : BitVec 7)
  /-- 32-bit bitwise XOR (R178). -/
  | xor (u : Bool) (d a b : BitVec 7)
  /-- 32-bit a AND NOT b (R178). -/
  | andn (u : Bool) (d a b : BitVec 7)
  /-- 32-bit shift left by a register count (R178). -/
  | shl (u : Bool) (d a b : BitVec 7)
  /-- 32-bit logical shift right (R178). -/
  | shr (u : Bool) (d a b : BitVec 7)
  /-- 32-bit arithmetic shift right (R178). -/
  | sar (u : Bool) (d a b : BitVec 7)
  /-- Adds two 64-bit pairs modulo 2^64 (R178). -/
  | addI64 (u : Bool) (d a b : BitVec 7)
  /-- Subtracts two 64-bit pairs (R178). -/
  | subI64 (u : Bool) (d a b : BitVec 7)
  /-- Signed 64-bit minimum (R178). -/
  | minI64 (u : Bool) (d a b : BitVec 7)
  /-- Unsigned 64-bit minimum (R178). -/
  | minN64 (u : Bool) (d a b : BitVec 7)
  /-- Signed 64-bit maximum (R178). -/
  | maxI64 (u : Bool) (d a b : BitVec 7)
  /-- Unsigned 64-bit maximum (R178). -/
  | maxN64 (u : Bool) (d a b : BitVec 7)
  /-- 64-bit absolute value (R178). -/
  | absI64 (u : Bool) (d a : BitVec 7)
  /-- 64-bit negation (R178). -/
  | negI64 (u : Bool) (d a : BitVec 7)
  /-- 64-bit bitwise AND (R178). -/
  | andI64 (u : Bool) (d a b : BitVec 7)
  /-- 64-bit bitwise OR (R178). -/
  | orI64 (u : Bool) (d a b : BitVec 7)
  /-- 64-bit bitwise XOR (R178). -/
  | xorI64 (u : Bool) (d a b : BitVec 7)
  /-- 64-bit a AND NOT b (R178). -/
  | andnI64 (u : Bool) (d a b : BitVec 7)
  /-- 64-bit shift left by a 32-bit count (R178). -/
  | shlI64 (u : Bool) (d a b : BitVec 7)
  /-- 64-bit logical shift right (R178). -/
  | shrI64 (u : Bool) (d a b : BitVec 7)
  /-- 64-bit arithmetic shift right (R178). -/
  | sarI64 (u : Bool) (d a b : BitVec 7)
  /-- 64-bit multiply modulo 2^64 (R178). -/
  | mulI64 (u : Bool) (d a b : BitVec 7)
  /-- Funnel shift left of a:d_old (R179). -/
  | fshl (u : Bool) (d a b : BitVec 7)
  /-- Funnel shift right of a:d_old (R179). -/
  | fshr (u : Bool) (d a b : BitVec 7)
  /-- Counts 1 bits (R179). -/
  | popc (u : Bool) (d a : BitVec 7)
  /-- Counts leading zero bits (R179). -/
  | clz (u : Bool) (d a : BitVec 7)
  /-- Counts trailing zero bits (R179). -/
  | ctz (u : Bool) (d a : BitVec 7)
  /-- Reverses the 32 bits (R179). -/
  | brev (u : Bool) (d a : BitVec 7)
  /-- Permutes bytes of a by selectors in b (R179). -/
  | prmb (u : Bool) (d a b : BitVec 7)
  /-- 32-bit multiply, low half (R179). -/
  | mul (u : Bool) (d a b : BitVec 7)
  /-- Signed 32-bit multiply, high half (R179). -/
  | mulhI32 (u : Bool) (d a b : BitVec 7)
  /-- Unsigned 32-bit multiply, high half (R179). -/
  | mulhN32 (u : Bool) (d a b : BitVec 7)
  /-- 32-bit multiply-add into d_old (R179). -/
  | mad (u : Bool) (d a b : BitVec 7)
  /-- Selects a or b by d_old being nonzero (R179). -/
  | sel (u : Bool) (d a b : BitVec 7)
  /-- Sets 1 when two 32-bit values are equal (R180). -/
  | seteq (u : Bool) (d a b : BitVec 7)
  /-- Sets 1 when two 32-bit values differ (R180). -/
  | setne (u : Bool) (d a b : BitVec 7)
  /-- Signed 32-bit less-than (R180). -/
  | setltI (u : Bool) (d a b : BitVec 7)
  /-- Signed 32-bit less-or-equal (R180). -/
  | setleI (u : Bool) (d a b : BitVec 7)
  /-- Signed 32-bit greater-than (R180). -/
  | setgtI (u : Bool) (d a b : BitVec 7)
  /-- Signed 32-bit greater-or-equal (R180). -/
  | setgeI (u : Bool) (d a b : BitVec 7)
  /-- Unsigned 32-bit less-than (R180). -/
  | setltN (u : Bool) (d a b : BitVec 7)
  /-- Unsigned 32-bit less-or-equal (R180). -/
  | setleN (u : Bool) (d a b : BitVec 7)
  /-- Unsigned 32-bit greater-than (R180). -/
  | setgtN (u : Bool) (d a b : BitVec 7)
  /-- Unsigned 32-bit greater-or-equal (R180). -/
  | setgeN (u : Bool) (d a b : BitVec 7)
  /-- Sets 1 when two 64-bit values are equal (R180). -/
  | seteq64 (u : Bool) (d a b : BitVec 7)
  /-- Sets 1 when two 64-bit values differ (R180). -/
  | setne64 (u : Bool) (d a b : BitVec 7)
  /-- Signed 64-bit less-than (R180). -/
  | setltI64 (u : Bool) (d a b : BitVec 7)
  /-- Signed 64-bit less-or-equal (R180). -/
  | setleI64 (u : Bool) (d a b : BitVec 7)
  /-- Signed 64-bit greater-than (R180). -/
  | setgtI64 (u : Bool) (d a b : BitVec 7)
  /-- Signed 64-bit greater-or-equal (R180). -/
  | setgeI64 (u : Bool) (d a b : BitVec 7)
  /-- Unsigned 64-bit less-than (R180). -/
  | setltN64 (u : Bool) (d a b : BitVec 7)
  /-- Unsigned 64-bit less-or-equal (R180). -/
  | setleN64 (u : Bool) (d a b : BitVec 7)
  /-- Unsigned 64-bit greater-than (R180). -/
  | setgtN64 (u : Bool) (d a b : BitVec 7)
  /-- Unsigned 64-bit greater-or-equal (R180). -/
  | setgeN64 (u : Bool) (d a b : BitVec 7)
  /-- Adds a signed 11-bit immediate (R181). -/
  | addi (u : Bool) (d a : BitVec 7) (i : BitVec 11)
  /-- ANDs an unsigned 11-bit immediate (R181). -/
  | andi (u : Bool) (d a : BitVec 7) (i : BitVec 11)
  /-- ORs an unsigned 11-bit immediate (R181). -/
  | ori (u : Bool) (d a : BitVec 7) (i : BitVec 11)
  /-- XORs an unsigned 11-bit immediate (R181). -/
  | xori (u : Bool) (d a : BitVec 7) (i : BitVec 11)
  /-- Shift left by an immediate count (R181). -/
  | shli (u : Bool) (d a : BitVec 7) (n : BitVec 5)
  /-- Logical shift right by an immediate count (R181). -/
  | shri (u : Bool) (d a : BitVec 7) (n : BitVec 5)
  /-- Arithmetic shift right by an immediate count (R181). -/
  | sari (u : Bool) (d a : BitVec 7) (n : BitVec 5)
  /-- Extracts a signed or unsigned bit field (R182). -/
  | bfx (u : Bool) (d a : BitVec 7) (s : BitVec 1) (w p : BitVec 5)
  /-- Inserts a bit field into d (R182). -/
  | bfi (u : Bool) (d a : BitVec 7) (w p : BitVec 5)
  /-- Loads a sign-extended 18-bit immediate (R183). -/
  | limm (u : Bool) (d : BitVec 7) (i : BitVec 18)
  /-- Sets d[31:14] from an 18-bit immediate, keeping d[13:0] (R183). -/
  | lhi (u : Bool) (d : BitVec 7) (i : BitVec 18)
  /-- Adds a shifted 32-bit offset to a pointer's VA, keeping the region (R184). -/
  | lea (u : Bool) (s : BitVec 4) (d a b : BitVec 7)
  /-- Adds a signed immediate to a pointer's VA (R184). -/
  | leai (u : Bool) (d a : BitVec 7) (i : BitVec 11)
  /-- Sets address register a_k to a plus an immediate (R185). -/
  | mova (k : BitVec 3) (a : BitVec 7) (i : BitVec 11)
  /-- binary32 addition, rounded by MODE.RM (R186). -/
  | fadd (u : Bool) (d a b : BitVec 7)
  /-- binary32 subtraction (R186). -/
  | fsub (u : Bool) (d a b : BitVec 7)
  /-- binary32 multiplication (R186). -/
  | fmul (u : Bool) (d a b : BitVec 7)
  /-- binary32 fused multiply-add with one rounding (R186). -/
  | fma (u : Bool) (d a b : BitVec 7)
  /-- binary32 minimum, −0 below +0 (R187). -/
  | fmin (u : Bool) (d a b : BitVec 7)
  /-- binary32 maximum (R187). -/
  | fmax (u : Bool) (d a b : BitVec 7)
  /-- binary32 addition in an explicit rounding mode (R186). -/
  | faddRm (u : Bool) (m : BitVec 2) (d a b : BitVec 7)
  /-- binary32 subtraction in an explicit rounding mode (R186). -/
  | fsubRm (u : Bool) (m : BitVec 2) (d a b : BitVec 7)
  /-- binary32 multiplication in an explicit rounding mode (R186). -/
  | fmulRm (u : Bool) (m : BitVec 2) (d a b : BitVec 7)
  /-- binary32 FMA in an explicit rounding mode (R186). -/
  | fmaRm (u : Bool) (m : BitVec 2) (d a b : BitVec 7)
  /-- binary32 compare equal (R188). -/
  | fseteq (u : Bool) (d a b : BitVec 7)
  /-- binary32 compare not equal (R188). -/
  | fsetne (u : Bool) (d a b : BitVec 7)
  /-- binary32 compare less-than (R188). -/
  | fsetlt (u : Bool) (d a b : BitVec 7)
  /-- binary32 compare less-or-equal (R188). -/
  | fsetle (u : Bool) (d a b : BitVec 7)
  /-- binary32 compare greater-than (R188). -/
  | fsetgt (u : Bool) (d a b : BitVec 7)
  /-- binary32 compare greater-or-equal (R188). -/
  | fsetge (u : Bool) (d a b : BitVec 7)
  /-- binary32 unordered test (R188). -/
  | fsetun (u : Bool) (d a b : BitVec 7)
  /-- binary32 ordered test (R188). -/
  | fsetor (u : Bool) (d a b : BitVec 7)
  /-- Packed binary16 addition (R189). -/
  | hadd2F16 (u : Bool) (d a b : BitVec 7)
  /-- Packed binary16 multiplication (R189). -/
  | hmul2F16 (u : Bool) (d a b : BitVec 7)
  /-- Packed binary16 fused multiply-add (R189). -/
  | hfma2F16 (u : Bool) (d a b : BitVec 7)
  /-- Packed bfloat16 addition (R189). -/
  | hadd2Bf16 (u : Bool) (d a b : BitVec 7)
  /-- Packed bfloat16 multiplication (R189). -/
  | hmul2Bf16 (u : Bool) (d a b : BitVec 7)
  /-- Packed bfloat16 fused multiply-add (R189). -/
  | hfma2Bf16 (u : Bool) (d a b : BitVec 7)
  /-- binary64 addition (R186). -/
  | dadd (u : Bool) (d a b : BitVec 7)
  /-- binary64 subtraction (R186). -/
  | dsub (u : Bool) (d a b : BitVec 7)
  /-- binary64 multiplication (R186). -/
  | dmul (u : Bool) (d a b : BitVec 7)
  /-- binary64 fused multiply-add (R186). -/
  | dfma (u : Bool) (d a b : BitVec 7)
  /-- binary64 minimum (R187). -/
  | dmin (u : Bool) (d a b : BitVec 7)
  /-- binary64 maximum (R187). -/
  | dmax (u : Bool) (d a b : BitVec 7)
  /-- binary64 addition in an explicit rounding mode (R186). -/
  | daddRm (u : Bool) (m : BitVec 2) (d a b : BitVec 7)
  /-- binary64 subtraction in an explicit rounding mode (R186). -/
  | dsubRm (u : Bool) (m : BitVec 2) (d a b : BitVec 7)
  /-- binary64 multiplication in an explicit rounding mode (R186). -/
  | dmulRm (u : Bool) (m : BitVec 2) (d a b : BitVec 7)
  /-- binary64 FMA in an explicit rounding mode (R186). -/
  | dfmaRm (u : Bool) (m : BitVec 2) (d a b : BitVec 7)
  /-- binary64 compare equal (R188). -/
  | dseteq (u : Bool) (d a b : BitVec 7)
  /-- binary64 compare not equal (R188). -/
  | dsetne (u : Bool) (d a b : BitVec 7)
  /-- binary64 compare less-than (R188). -/
  | dsetlt (u : Bool) (d a b : BitVec 7)
  /-- binary64 compare less-or-equal (R188). -/
  | dsetle (u : Bool) (d a b : BitVec 7)
  /-- binary64 compare greater-than (R188). -/
  | dsetgt (u : Bool) (d a b : BitVec 7)
  /-- binary64 compare greater-or-equal (R188). -/
  | dsetge (u : Bool) (d a b : BitVec 7)
  /-- binary64 unordered test (R188). -/
  | dsetun (u : Bool) (d a b : BitVec 7)
  /-- binary64 ordered test (R188). -/
  | dsetor (u : Bool) (d a b : BitVec 7)
  /-- binary32 reciprocal within 1 ulp (R190). -/
  | rcpF32 (u : Bool) (d a : BitVec 7)
  /-- binary32 reciprocal square root (R190). -/
  | rsqF32 (u : Bool) (d a : BitVec 7)
  /-- Correctly rounded binary32 square root (R190). -/
  | sqrtF32 (u : Bool) (d a : BitVec 7)
  /-- binary32 base-2 exponential (R190). -/
  | exp2 (u : Bool) (d a : BitVec 7)
  /-- binary32 base-2 logarithm (R190). -/
  | log2 (u : Bool) (d a : BitVec 7)
  /-- binary32 sine in radians (R190). -/
  | sin (u : Bool) (d a : BitVec 7)
  /-- binary32 cosine in radians (R190). -/
  | cos (u : Bool) (d a : BitVec 7)
  /-- binary64 reciprocal (R190). -/
  | rcpF64 (u : Bool) (d a : BitVec 7)
  /-- binary64 reciprocal square root (R190). -/
  | rsqF64 (u : Bool) (d a : BitVec 7)
  /-- Correctly rounded binary64 square root (R190). -/
  | sqrtF64 (u : Bool) (d a : BitVec 7)
  /-- Signed 32-bit division truncated toward zero (R191). -/
  | idivI32 (u : Bool) (d a b : BitVec 7)
  /-- Unsigned 32-bit division (R191). -/
  | idivN32 (u : Bool) (d a b : BitVec 7)
  /-- Signed 32-bit remainder (R191). -/
  | iremI32 (u : Bool) (d a b : BitVec 7)
  /-- Unsigned 32-bit remainder (R191). -/
  | iremN32 (u : Bool) (d a b : BitVec 7)
  /-- Converts between non-FP64 types (R193). -/
  | cvt (u : Bool) (d a : BitVec 7) (t s : BitVec 4) (r : BitVec 3)
  /-- Converts where at least one type is .f64 (R193). -/
  | cvtd (u : Bool) (d a : BitVec 7) (t s : BitVec 4) (r : BitVec 3)
  /-- Packs 16 binary32 values into a bx2 block (R195). -/
  | pkbxBx2 (u : Bool) (d a : BitVec 7)
  /-- Packs 16 binary32 values into a bx4 block (R195). -/
  | pkbxBx4 (u : Bool) (d a : BitVec 7)
  /-- Packs 16 binary32 values into a bx7 block (R195). -/
  | pkbxBx7 (u : Bool) (d a : BitVec 7)
  /-- Unpacks a bx2 block to binary32 (R195). -/
  | upbxBx2 (u : Bool) (d a : BitVec 7)
  /-- Unpacks a bx4 block to binary32 (R195). -/
  | upbxBx4 (u : Bool) (d a : BitVec 7)
  /-- Unpacks a bx7 block to binary32 (R195). -/
  | upbxBx7 (u : Bool) (d a : BitVec 7)
  /-- Packs 32 binary32 values into an MXINT8 block (R195). -/
  | pkmxMxi8 (u : Bool) (d a : BitVec 7)
  /-- Packs 32 values into an MXFP8 E4M3 block (R195). -/
  | pkmxMxf8e4 (u : Bool) (d a : BitVec 7)
  /-- Packs 32 values into an MXFP8 E5M2 block (R195). -/
  | pkmxMxf8e5 (u : Bool) (d a : BitVec 7)
  /-- Unpacks an MXINT8 block to binary32 (R195). -/
  | upmxMxi8 (u : Bool) (d a : BitVec 7)
  /-- Unpacks an E4M3 block to binary32 (R195). -/
  | upmxMxf8e4 (u : Bool) (d a : BitVec 7)
  /-- Unpacks an E5M2 block to binary32 (R195). -/
  | upmxMxf8e5 (u : Bool) (d a : BitVec 7)
  /-- Computes two counter-based random values for counters a and a+1 (R196). -/
  | rngk (u : Bool) (d a b : BitVec 7)
  /-- Receives d_old from the thread indexed by b (R198). -/
  | shflIdx (u : Bool) (d a b : BitVec 7)
  /-- Receives d_old from thread t − b (R198). -/
  | shflUp (u : Bool) (d a b : BitVec 7)
  /-- Receives d_old from thread t + b (R198). -/
  | shflDown (u : Bool) (d a b : BitVec 7)
  /-- Receives d_old from thread t XOR b (R198). -/
  | shflXor (u : Bool) (d a b : BitVec 7)
  /-- 1 if b is nonzero in every thread of the group (R199). -/
  | voteAll (u : Bool) (d a b : BitVec 7)
  /-- 1 if b is nonzero in some thread of the group (R199). -/
  | voteAny (u : Bool) (d a b : BitVec 7)
  /-- 1 if b is equal in every thread of the group (R199). -/
  | voteEq (u : Bool) (d a b : BitVec 7)
  /-- Collects a 128-bit mask of threads with nonzero b (R199). -/
  | ballot (u : Bool) (d a b : BitVec 7)
  /-- Integer sum over the group (R200). -/
  | wredAddI32 (u : Bool) (d a b : BitVec 7)
  /-- Signed minimum over the group (R200). -/
  | wredMinI32 (u : Bool) (d a b : BitVec 7)
  /-- Signed maximum over the group (R200). -/
  | wredMaxI32 (u : Bool) (d a b : BitVec 7)
  /-- binary32 sum over the group with one RNE rounding (R200). -/
  | wredAddF32 (u : Bool) (d a b : BitVec 7)
  /-- Bitwise AND over the group (R200). -/
  | wredAnd (u : Bool) (d a b : BitVec 7)
  /-- Bitwise OR over the group (R200). -/
  | wredOr (u : Bool) (d a b : BitVec 7)
  /-- Bitwise XOR over the group (R200). -/
  | wredXor (u : Bool) (d a b : BitVec 7)
  /-- Loads 8 to 256 bits from a memory space into a register group (R210). -/
  | ld (u : Bool) (d a : BitVec 7) (w : BitVec 3) (p : BitVec 2) (o : BitVec 6)
  /-- Sign-extending 8- or 16-bit load (R210). -/
  | lds (u : Bool) (d a : BitVec 7) (w : BitVec 1) (p : BitVec 2) (o : BitVec 6)
  /-- Stores 8 to 256 bits to a memory space (R210). -/
  | st (u : Bool) (d a : BitVec 7) (w : BitVec 3) (p : BitVec 2) (o : BitVec 6)
  /-- Prefetches a line into the L1 without faulting (R213). -/
  | pref (a : BitVec 7)
  /-- Drops clean bytes of one line from the L1 (R214). -/
  | cinvCore (a : BitVec 7)
  /-- Drops clean bytes of one line, cluster scope (R214). -/
  | cinvClu (a : BitVec 7)
  /-- Writes back then drops one line, die scope (R214). -/
  | cinvDie (a : BitVec 7)
  /-- Writes back then drops one line, device scope (R214). -/
  | cinvDev (a : BitVec 7)
  /-- Writes back then drops one line, system scope (R214). -/
  | cinvSys (a : BitVec 7)
  /-- Returning 32-bit atomic read-modify-write (R216). -/
  | atom32 (d a : BitVec 7) (s : BitVec 3) (p : BitVec 2) (o : BitVec 4) (r : BitVec 2)
  /-- Returning 64-bit atomic read-modify-write (R216). -/
  | atom64 (d a : BitVec 7) (s : BitVec 3) (p : BitVec 2) (o : BitVec 4) (r : BitVec 2)
  /-- Non-returning 32-bit atomic reduction (R218). -/
  | red32 (d a : BitVec 7) (s : BitVec 3) (p : BitVec 2) (o : BitVec 4) (r : BitVec 2)
  /-- Non-returning 64-bit atomic reduction (R218). -/
  | red64 (d a : BitVec 7) (s : BitVec 3) (p : BitVec 2) (o : BitVec 4) (r : BitVec 2)
  /-- Adds a binary32 contribution into a bin record at its home (R219). -/
  | bredF32 (a b : BitVec 7)
  /-- Adds a binary64 contribution into a bin record (R219). -/
  | bredF64 (a b : BitVec 7)
  /-- Converts a bin record to binary64 read at its home (R220). -/
  | binfin (d a : BitVec 7)
  /-- Appends 4 bytes to an APPEND page at its home and returns the offset (R221). -/
  | appendB32 (d a b : BitVec 7)
  /-- Appends 8 bytes to an APPEND page (R221). -/
  | appendB64 (d a b : BitVec 7)
  /-- Appends 16 bytes to an APPEND page (R221). -/
  | appendB128 (d a b : BitVec 7)
  /-- Appends 32 bytes to an APPEND page (R221). -/
  | appendB256 (d a b : BitVec 7)
  /-- Releases at device scope then seals an APPEND page (R222). -/
  | sealPage (a : BitVec 7)
  /-- Parks at the home until a word differs from b, or returns its value (R227). -/
  | waita (d a b : BitVec 7)
  /-- Wakes up to b threads registered on a word, oldest first (R228). -/
  | wake (d a b : BitVec 7)
  /-- Parks until any masked tag is done (R226). -/
  | twany (d a : BitVec 7)
  /-- Parks until all masked tags are done (R226). -/
  | twall (a : BitVec 7)
  /-- Parks until a masked tag is done, takes the lowest and clears its bit (R226). -/
  | tffr (d a : BitVec 7)
  /-- Acquire at the given scope (R235). -/
  | fenceAcq (s : BitVec 7)
  /-- Release at the given scope (R235). -/
  | fenceRel (s : BitVec 7)
  /-- Release then acquire at the given scope (R235). -/
  | fenceAr (s : BitVec 7)
  /-- Registers the thread on a core phaser in a mode (R231). -/
  | phreg (d a b : BitVec 7)
  /-- Ends membership of a core phaser (R233). -/
  | phdrop (a : BitVec 7)
  /-- Signals a core phaser, advancing it when all signallers arrived (R232). -/
  | phsig (a : BitVec 7)
  /-- Waits for the next phase of a core phaser (R232). -/
  | phwt (d a : BitVec 7)
  /-- Signals then waits on a core phaser (R232). -/
  | pharv (d a : BitVec 7)
  /-- Registers on a device phaser record (R231). -/
  | phregDev (d a b : BitVec 7)
  /-- Ends membership of a device phaser (R233). -/
  | phdropDev (a : BitVec 7)
  /-- Signals a device phaser (R232). -/
  | phsigDev (a : BitVec 7)
  /-- Waits on a device phaser (R232). -/
  | phwtDev (d a : BitVec 7)
  /-- Signals then waits on a device phaser (R232). -/
  | pharvDev (d a : BitVec 7)
  /-- Parks until outstanding-operation counters fall to the given counts (R224). -/
  | waitc (l s : BitVec 5) (c t : BitVec 4)
  /-- Opens a scratchpad window slot to the cluster (R236). -/
  | wopen (d a b : BitVec 7)
  /-- Closes a window slot (R237). -/
  | wshut (a : BitVec 7)
  /-- Maps global lines into scratchpad rows and parks until every home records it (R238). -/
  | spmap (d a b : BitVec 7)
  /-- Writes mapped rows back and removes the mapping (R239). -/
  | spunmap (a : BitVec 7)
  /-- Reserves tile-store rows, failing or parking when no room (R249). -/
  | tres (d : BitVec 6) (a : BitVec 7) (f : Bool)
  /-- Frees a tile-store reservation after its operations complete (R250). -/
  | trel (a : BitVec 7)
  /-- Pushes a matrix operation into mxc (R255). -/
  | mxop (a : BitVec 7) (t : BitVec 6) (f : Bool)
  /-- Pushes a bank swap into mxc (R257). -/
  | mxswap
  /-- Pushes a copy into the B banks, taking them on first use (R259). -/
  | bload (d a : BitVec 7) (t : BitVec 6)
  /-- Pushes a strided copy with optional conversion (R260). -/
  | copy (d a : BitVec 7) (t : BitVec 6)
  /-- Pushes an indexed gather of table rows (R267). -/
  | gath (d a : BitVec 7) (t : BitVec 6)
  /-- Pushes an indexed scatter into table rows (R268). -/
  | scat (d a : BitVec 7) (t : BitVec 6)
  /-- Pushes a ray into the traversal unit (R273). -/
  | trace (a : BitVec 7) (t : BitVec 6) (f : Bool)
  /-- Rejects a ray candidate and resumes traversal (R274). -/
  | tdecCont (a : BitVec 7)
  /-- Accepts a ray candidate (R274). -/
  | tdecAcc (a : BitVec 7)
  /-- Accepts a candidate and terminates the ray (R274). -/
  | tdecTerm (a : BitVec 7)
  /-- Pushes a Slalom marching command (R275). -/
  | march (a : BitVec 7) (t : BitVec 6)
  /-- Pushes a 16-byte emit record to the Carve rasteriser, optionally closing the stream (R277). -/
  | emit (a : BitVec 7) (f : Bool)
  /-- Queue core releases, validates a launch record and pushes it to lch (R280). -/
  | launch (d : BitVec 6) (a : BitVec 7)
  /-- Parks until a grid finishes, then acquires (R282). -/
  | gwait (a : BitVec 7)
  /-- System release then updates QC_SIG and raises the queue's MSI-X vector (R283). -/
  | qsig (a : BitVec 7)
  /-- Conditional or unconditional PC-relative branch with join bit (R203). -/
  | br (j : Bool) (c : BitVec 4) (a : BitVec 7) (o : BitVec 14)
  /-- PC-relative jump (R204). -/
  | jmp (o : BitVec 21)
  /-- PC-relative call moving the window and writing the link (R205). -/
  | call (h : BitVec 4) (o : BitVec 21)
  /-- Branches to a pointer in a register pair (R204). -/
  | brx (u : Bool) (a : BitVec 7)
  /-- Calls through a pointer with a window shift (R205). -/
  | callx (u : Bool) (a : BitVec 7) (h : BitVec 4)
  /-- Returns through v62:v63 and undoes the call's window shift (R206). -/
  | ret
  /-- Moves the window base by 8 × n (R207). -/
  | wbase (n : BitVec 7)
  /-- Yields the pipeline, or the running wave in an ordered grid (R208). -/
  | yield
  /-- Drops phaser memberships, releases at device scope and ends the thread (R209). -/
  | exit
  /-- Advances the PC only (R208). -/
  | nop
  /-- Writes a software-trap record and enters the trap handler (R241). -/
  | trap (c : BitVec 7)
  /-- Restores MODE and WB and resumes at TPC (R374). -/
  | eret
  /-- Reads a counter, MODE or trap-state register (R240). -/
  | mfs (u : Bool) (d : BitVec 7) (s : BitVec 11)
  /-- Writes MODE or a writable trap-state register (R240). -/
  | mts (a : BitVec 7) (s : BitVec 11)
  /-- Load data arrives and is written to the destination group (R212). -/
  | loadDataReturn (op : Nat) (err : Bool)
  /-- A store is performed and its counter decrements (R223). -/
  | storePerformed (op : Nat)
  /-- A dirty L1 byte is written back and performed at its home (R137). -/
  | l1WriteBack (core ctx addr : Nat)
  /-- A clean byte or line is dropped from an L1 view, on eviction or otherwise (R137). -/
  | l1Drop (core ctx addr : Nat)
  /-- Each core cycle every pipeline picks its packet and the cycle length is set (R291). -/
  | issueCycle (core : Nat)
  /-- Join-hold clears after 4096 cycles (R35). -/
  | joinHoldTimeout (core slot : Nat) (pc : Dword)
  /-- An entry's age count reaches 4096 and its saturation order is recorded (R33). -/
  | ageSaturation (core slot : Nat) (pc : Dword)
  /-- A core with no waves or engine work gates its clock; HTIME runs (R44). -/
  | clockGate (core ps : Nat)
  /-- The dispatcher takes a launch record from lch (R280). -/
  | launchDispatch (qcore : Nat)
  /-- A distributor places a waiting crew on a core that has room and starts it (R289). -/
  | crewPlace (cluster : Nat)
  /-- An idle distributor takes the upper half of a sibling's remaining range (R290). -/
  | crewSteal (cluster : Nat)
  /-- A crew ends once its waves exited and its engine operations completed (R28). -/
  | crewEnd (crew : Nat)
  /-- A crew unplaced for 20 µs pre-empts lower-priority crews (R296). -/
  | preemptDispatcher (cluster : Nat)
  /-- Lacewing firmware pre-empts a crew (R296). -/
  | preemptLacewing (crew : Nat)
  /-- After the drain the crew's state is saved and its resources released (R297). -/
  | preemptSave (crew : Nat)
  /-- A pre-empted crew is restored, reservations and banks first (R297). -/
  | crewResume (crew : Nat)
  /-- A save not done within 1 ms aborts the crew (R426). -/
  | preemptSaveTimeout (crew : Nat)
  /-- A parked TRES retries when rows or a record become available (R249). -/
  | tresRetry (core : Nat)
  /-- A parked TREL frees its record once its operations complete (R250). -/
  | trelRelease (tid : Nat)
  /-- Every home has recorded the mapping and the thread wakes (R108). -/
  | spmapComplete (core num : Nat)
  /-- Every home has removed the mapping and the thread wakes (R239). -/
  | spunmapComplete (core num : Nat)
  /-- The array starts the eligible MXOP with least budget units (R312). -/
  | matrixStart (core : Nat)
  /-- The other bank becomes current after prior A rows leave (R310). -/
  | mxswapEffect (core : Nat)
  /-- A matrix operation completes: release, tag, status (R308). -/
  | mxopComplete (op : Nat)
  /-- Suspended banks are saved once their operations complete (R110). -/
  | bankSave (core : Nat)
  /-- A copy-engine command completes: release and tag (R244). -/
  | copyComplete (op : Nat)
  /-- A ray suspends on a candidate and pushes its hit record (R273). -/
  | rayCandidate (op : Nat)
  /-- A ray ends, writes its result fields and completes (R273). -/
  | rayComplete (op : Nat)
  /-- The sampler finishes a batch and pushes its status (R276). -/
  | marchBatch (op : Nat)
  /-- A stream closes after its contributions are performed and counts are added (R279). -/
  | streamClose (tid : Nat)
  /-- A held engine result is pushed once the thread's view has space (R62). -/
  | popEntryPush (held : Nat)
  /-- Homes perform held contributions in key order after every core drained (R301). -/
  | reductionDrain (grid : Nat)
  /-- Every 64 ns the next group of up to 16 clusters is woken (R302). -/
  | slewGroupRelease
  /-- A line quiet for 2 µs regains core ownership placement (R303). -/
  | atomicQuietExpiry (line : Nat)
  /-- The DUAL comparator matches a pair and performs it once (R298). -/
  | comparatorMatch (prim shad : Nat)
  /-- An operation unmatched for 1 ms aborts both copies (R429). -/
  | dualUnmatchedTimeout (op : Nat)
  /-- Both copies ended; crew digests are compared (R299). -/
  | sampledDigestCompare (crew : Nat)
  /-- A Converging group waited CONV µs and its threads trap (R427). -/
  | convWatchdog (core slot : Nat) (pc : Dword)
  /-- A crew ran CREW µs and is aborted (R427). -/
  | crewWatchdog (crew : Nat)
  /-- No host acknowledgement within 100 ms fails the migration (R411). -/
  | migrationTimeout (seq : Nat)
  /-- A write to a device register without behaviour of its own (R338). -/
  | registerWrite (agent addr : Nat) (value : Dword)
  /-- QC_QPC GO starts a queue program or sets REJ (R285). -/
  | queueGo (q : Nat) (value : Dword)
  /-- MG_INVCMD scope 0 invalidates one page of a context (R120). -/
  | invalidatePage (ctx : Nat) (rcl bnd : Bool)
  /-- MG_INVCMD scope 1 invalidates every page of a context (R120). -/
  | invalidateContext (ctx : Nat) (rcl bnd : Bool)
  /-- MG_INVCMD scope 2 invalidates every page of every context (R120). -/
  | invalidateAll (ctx : Nat) (rcl bnd : Bool)
  /-- Also drops replicas and L1 lines of the frame (R128). -/
  | reclaim (scope ctx : Nat)
  /-- Also drops cached bounds entries of the context (R120). -/
  | dropBounds (scope ctx : Nat)
  /-- No access by a removed entry remains and BUSY clears (R119). -/
  | invalidationComplete
  /-- Host acknowledges a HOSTSHARE ring entry, releasing or refusing (R340). -/
  | hsAcknowledge (seq : Nat) (refuse : Bool)
  /-- Host requests a device-owned page; the device releases it (R340). -/
  | hsRequestPage (vapg ctx : Nat)
  /-- Starts signing the nonce in the host buffer (R349). -/
  | attestationGo (value : Dword)
  /-- Report written, ST set, vector 65 raised (R349). -/
  | attestationDone
  /-- Locks the boot configuration until reset (R338). -/
  | scLockWrite (value : Dword)
  /-- Lacewing sets a core's matrix entry cadence (R309). -/
  | mxCadenceWrite (core : Nat) (value : Dword)
  /-- A BAR2 or HDM host write to HBM, discarded on marked APPEND frames (R337). -/
  | hostWrite (pa : Nat) (data : List Byte) (psn : Bool)
  /-- A BAR2 or HDM host read of HBM (R337). -/
  | hostRead (pa size : Nat)
  /-- A CXL.cache host snoop resolved at the home slice (R337). -/
  | hostSnoop (pa : Nat)
  /-- A PCIe configuration request, retried until step 6 (R346); `mask` is one that sets or clears the mask of an MSI-X vector (R337). -/
  | configRequest (access : ConfigAccess)
  /-- A pod-link request is checked against the import bitmap and performed (R342). -/
  | remoteRequest (src seq ctx : Nat) (va : Dword) (kind sub : Nat) (data : List Byte)
  /-- A remote acknowledgement, data or error returns to the requester (R149). -/
  | remoteResponse (req err : Nat) (aux : Dword) (psn : Bool) (data : List Byte)
  /-- A remote request unanswered for 1 ms ends with an error (R413). -/
  | remoteTimeout (req : Nat)
  /-- A flit fails CRC and is replayed; eight failures start a retrain (R432). -/
  | flitCrcFailure (link : Nat)
  /-- A link loses training and starts a retrain (R432). -/
  | linkTrainingLoss (link : Nat)
  /-- A retrain ends; on failure the link is fenced (R432). -/
  | linkRetrainEnd (link : Nat) (ok : Bool)
  /-- Every 100 µs a device may grant surplus tokens (R345). -/
  | tokenExchangeTick (draw peer tokens : Nat)
  /-- A neighbour's demand announcement arrives (R345). -/
  | demandAnnounce (peer watts : Nat)
  /-- A grant arrives and the receiver raises CAP (R345). -/
  | tokenGrant (peer tokens age : Nat)
  /-- 10 ms after receipt the receiver lowers CAP and returns tokens (R345). -/
  | leaseEnd (lease : Nat)
  /-- Returned tokens arrive and the granter raises CAP (R345). -/
  | tokenReturn (grant : Nat)
  /-- 11 ms after granting, the granter raises CAP (R345). -/
  | grantReturnTimeout (grant : Nat)
  /-- Every 10 µs the die manager raises cadence or applies holds (R344). -/
  | powerAverage (die watts : Nat)
  /-- A power-management hold ends and the core clock runs (R344). -/
  | holdEnd (core ps : Nat)
  /-- A rail sensor crosses 880 A and every core is held for 200 ns (R344). -/
  | railCurrentAlert (die : Nat)
  /-- Current still above 880 A after three holds fences the die (R436). -/
  | railHoldFailure (die : Nat)
  /-- A C-die reaches 100 °C; cadence goes to 16 (R436). -/
  | junction100c (die : Nat)
  /-- A C-die held at 110 °C for 1 ms is fenced (R436). -/
  | junction110cTimeout (die : Nat)
  /-- A C-die reaches 120 °C and is fenced (R436). -/
  | junction120c (die : Nat)
  /-- The H-die reaches 110 °C; queue programs stop and the device is lost (R436). -/
  | hdieOvertemp
  /-- An uncorrectable internal error fences a die (R431). -/
  | dieInternalError (die : Nat)
  /-- A periodic core self-test; failure fences the core (R435). -/
  | coreSelfTest (core : Nat) (pass : Bool)
  /-- Lacewing scrubs HBM and L2, poisoning uncorrectable granules (R375). -/
  | backgroundScrub (place : StoragePlace) (bad : Bool)
  /-- The package starts up in steps to PCIe training (R346). -/
  | powerOnReset (images : BootImages)
  /-- A run-time firmware image is verified or rejected (R437). -/
  | firmwareUpdate (image : FirmwareImage)
  /-- A thread issues a word whose major, cell, reserved bits or reserved field values match no assigned cell, and it takes an illegal-instruction trap of GROUP 0x01 (R379). -/
  | illegalInstruction (w : Word)
  /-- A thread reaches a PC whose fetch fails bounds, translation or X permission, and it traps with no instruction word (R401). -/
  | instructionFetchFault
  /-- Lacewing creates a context, assigning its context ID and writing BTAB, PTROOT, FLBASE, LOGN, THND, the save-area pointer and SYS permission (R112). -/
  | contextCreation (ctx btab ptroot flbase logn : Nat) (thnd : Dword) (save : Nat) (sys : Bool)
  /-- Each 1.00 GHz queue-core cycle picks the next ready queue program in rotating queue order and issues one instruction for it (R286). -/
  | queueCoreCycle (qcore : Nat)
  /-- The package loses power, so all volatile state is lost while blown index fuses persist and any fuse block already blown is wasted (R348). -/
  | powerLoss
  deriving DecidableEq, Repr

end Sys2Proof
end

