-- ==== Sys2Proof/WellFormed.lean ====
section
/-! DEFINITION. What a word must satisfy to be an instruction: operand positions by kind (R57, R173, R201), reserved values and the kind of core, as the word checks of R377 step 2 with the detail words of R376. -/

namespace Sys2Proof

/-- A word check that failed (R376): its CODE, the word mask of the field found at fault, and D1. -/
structure WordFault where
  code : Nat
  mask : Nat
  d1 : Nat
  deriving DecidableEq, Repr

/-- How an operand field is used (R57, R159). -/
inductive Role where
  | src
  | dst
  | both
  deriving DecidableEq, Repr

/-- The kind of an operand position (R173, R201, R162). -/
inductive Kind where
  /-- 32-bit integer or untyped value. -/
  | i32
  /-- 64-bit integer or untyped value. -/
  | i64
  /-- binary32 value: constants by R64's floating column. -/
  | f32
  /-- binary64 value. -/
  | f64
  /-- Two binary16 values. -/
  | pkf16
  /-- Two bfloat16 values. -/
  | pkbf16
  /-- One binary16 value in bits 15:0 of a 32-bit position. -/
  | h16
  /-- One bfloat16 value in bits 15:0 of a 32-bit position. -/
  | b16
  /-- A group of `n` registers, the first a multiple of `al`. -/
  | grp (n al : Nat)
  /-- A thread mask. -/
  | mask
  | ptr
  | off
  | cond
  /-- A push queue in an E-format D field. -/
  | queue (lo hi : Nat)
  deriving DecidableEq, Repr

/-- Whether a position is 64 bits wide (R58). -/
def Kind.wide : Kind → Bool
  | .i64 | .f64 | .ptr => true
  | .i32 | .f32 | .pkf16 | .pkbf16 | .h16 | .b16 | .grp _ _ | .mask | .off | .cond | .queue _ _ => false

/-- One operand field of a word: the position number of R393 (0 A, 1 B, 2 D), its code, the place of its field. -/
structure Pos where
  field : Nat
  code : Nat
  shift : Nat
  kind : Kind
  role : Role
  deriving DecidableEq, Repr

/-- The word mask of an operand field. -/
def Pos.mask (p : Pos) : Nat := 0x7f * 2 ^ p.shift

def srcA (k : Kind) (a : BitVec 7) : Pos := ⟨0, a.toNat, 7, k, .src⟩
def srcB (k : Kind) (b : BitVec 7) : Pos := ⟨1, b.toNat, 0, k, .src⟩
def posD (k : Kind) (r : Role) (d : BitVec 7) : Pos := ⟨2, d.toNat, 14, k, r⟩
def srcAI (k : Kind) (a : BitVec 7) : Pos := ⟨0, a.toNat, 11, k, .src⟩
def posDI (k : Kind) (r : Role) (d : BitVec 7) : Pos := ⟨2, d.toNat, 18, k, r⟩
/-- The base of a memory instruction: a pointer in spaces 00 and 11, an offset in 01 and 10 (R154). -/
def baseA (sp : Nat) (a : BitVec 7) : Pos := srcAI (if sp = 0 || sp = 3 then .ptr else .off) a
/-- The data group of LD and ST by W (R154). -/
def dataGroup (w : Nat) : Kind :=
  if w = 3 then .grp 2 2 else if w = 4 then .grp 4 4 else if w = 5 then .grp 8 8 else .grp 1 1
/-- The data group of an atomic: doubled for CAS (R155). -/
def atomGroup (n op : Nat) : Kind := if op = 9 then .grp (2 * n) (2 * n) else .grp n n
/-- The position of a conversion type code (R160, R192). -/
def cvtKind (t : Nat) : Kind :=
  if t = 3 || t = 7 then .i64
  else if t = 8 then .h16
  else if t = 9 then .b16
  else if t = 10 then .f32
  else if t = 11 then .f64
  else .i32
/-- Whether a special selector is assigned, and whether it is 64 bits wide (R161, R373). -/
def selWide (s : Nat) : Bool := s ≤ 12 || s = 32 || s = 34 || s = 36 || s = 38 || s = 44
def selAssigned (s : Nat) : Bool := selWide s || s = 16 || s = 40 || s = 41 || s = 42 || s = 43
/-- The width of a special selector (R161, R373). -/
def selKind (s : Nat) : Kind := if selWide s then .i64 else .i32

/-- The operand positions of an instruction in the order A, B, D (R59). The kind of each is its entry's. -/
def Instr.positions : Instr → List Pos
  | .add _ d a b | .sub _ d a b | .minI32 _ d a b | .minN32 _ d a b | .maxI32 _ d a b | .maxN32 _ d a b | .and _ d a b
    | .or _ d a b | .xor _ d a b | .andn _ d a b | .shl _ d a b | .shr _ d a b | .sar _ d a b | .prmb _ d a b | .mul _ d a b
    | .mulhI32 _ d a b | .mulhN32 _ d a b | .seteq _ d a b | .setne _ d a b | .setltI _ d a b | .setleI _ d a b
    | .setgtI _ d a b | .setgeI _ d a b | .setltN _ d a b | .setleN _ d a b | .setgtN _ d a b | .setgeN _ d a b
    | .idivI32 _ d a b | .idivN32 _ d a b | .iremI32 _ d a b | .iremN32 _ d a b => [srcA .i32 a, srcB .i32 b, posD .i32 .dst d]
  | .abs _ d a | .neg _ d a | .popc _ d a | .clz _ d a | .ctz _ d a | .brev _ d a => [srcA .i32 a, posD .i32 .dst d]
  | .addI64 _ d a b | .subI64 _ d a b | .minI64 _ d a b | .minN64 _ d a b | .maxI64 _ d a b | .maxN64 _ d a b | .andI64 _ d a b
    | .orI64 _ d a b | .xorI64 _ d a b | .andnI64 _ d a b | .mulI64 _ d a b
    | .rngk _ d a b => [srcA .i64 a, srcB .i64 b, posD .i64 .dst d]
  | .absI64 _ d a | .negI64 _ d a | .twany d a => [srcA .i64 a, posD .i64 .dst d]
  | .shlI64 _ d a b | .shrI64 _ d a b | .sarI64 _ d a b | .lea _ _ d a b => [srcA .i64 a, srcB .i32 b, posD .i64 .dst d]
  | .fshl _ d a b | .fshr _ d a b | .mad _ d a b | .sel _ d a b => [srcA .i32 a, srcB .i32 b, posD .i32 .both d]
  | .seteq64 _ d a b | .setne64 _ d a b | .setltI64 _ d a b | .setleI64 _ d a b | .setgtI64 _ d a b | .setgeI64 _ d a b
    | .setltN64 _ d a b | .setleN64 _ d a b | .setgtN64 _ d a b
    | .setgeN64 _ d a b => [srcA .i64 a, srcB .i64 b, posD .i32 .dst d]
  | .addi _ d a _ | .andi _ d a _ | .ori _ d a _ | .xori _ d a _ | .shli _ d a _ | .shri _ d a _ | .sari _ d a _
    | .bfx _ d a _ _ _ => [srcAI .i32 a, posDI .i32 .dst d]
  | .bfi _ d a _ _ => [srcAI .i32 a, posDI .i32 .both d]
  | .limm _ d _ => [posDI .i32 .dst d]
  | .lhi _ d _ => [posDI .i32 .both d]
  | .leai _ d a _ => [srcAI .i64 a, posDI .i64 .dst d]
  | .mova _ a _ => [srcAI .i32 a]
  | .fadd _ d a b | .fsub _ d a b | .fmul _ d a b | .fmin _ d a b | .fmax _ d a b | .faddRm _ _ d a b | .fsubRm _ _ d a b
    | .fmulRm _ _ d a b => [srcA .f32 a, srcB .f32 b, posD .f32 .dst d]
  | .fma _ d a b | .fmaRm _ _ d a b => [srcA .f32 a, srcB .f32 b, posD .f32 .both d]
  | .fseteq _ d a b | .fsetne _ d a b | .fsetlt _ d a b | .fsetle _ d a b | .fsetgt _ d a b | .fsetge _ d a b | .fsetun _ d a b
    | .fsetor _ d a b => [srcA .f32 a, srcB .f32 b, posD .i32 .dst d]
  | .hadd2F16 _ d a b | .hmul2F16 _ d a b => [srcA .pkf16 a, srcB .pkf16 b, posD .pkf16 .dst d]
  | .hfma2F16 _ d a b => [srcA .pkf16 a, srcB .pkf16 b, posD .pkf16 .both d]
  | .hadd2Bf16 _ d a b | .hmul2Bf16 _ d a b => [srcA .pkbf16 a, srcB .pkbf16 b, posD .pkbf16 .dst d]
  | .hfma2Bf16 _ d a b => [srcA .pkbf16 a, srcB .pkbf16 b, posD .pkbf16 .both d]
  | .dadd _ d a b | .dsub _ d a b | .dmul _ d a b | .dmin _ d a b | .dmax _ d a b | .daddRm _ _ d a b | .dsubRm _ _ d a b
    | .dmulRm _ _ d a b => [srcA .f64 a, srcB .f64 b, posD .f64 .dst d]
  | .dfma _ d a b | .dfmaRm _ _ d a b => [srcA .f64 a, srcB .f64 b, posD .f64 .both d]
  | .dseteq _ d a b | .dsetne _ d a b | .dsetlt _ d a b | .dsetle _ d a b | .dsetgt _ d a b | .dsetge _ d a b | .dsetun _ d a b
    | .dsetor _ d a b => [srcA .f64 a, srcB .f64 b, posD .i32 .dst d]
  | .rcpF32 _ d a | .rsqF32 _ d a | .sqrtF32 _ d a | .exp2 _ d a | .log2 _ d a | .sin _ d a
    | .cos _ d a => [srcA .f32 a, posD .f32 .dst d]
  | .rcpF64 _ d a | .rsqF64 _ d a | .sqrtF64 _ d a => [srcA .f64 a, posD .f64 .dst d]
  | .cvt _ d a t s _ | .cvtd _ d a t s _ => [srcAI (cvtKind s.toNat) a, posDI (cvtKind t.toNat) .dst d]
  | .pkbxBx2 _ d a => [srcA (.grp 16 16) a, posD (.grp 2 4) .dst d]
  | .pkbxBx4 _ d a => [srcA (.grp 16 16) a, posD (.grp 3 4) .dst d]
  | .pkbxBx7 _ d a => [srcA (.grp 16 16) a, posD (.grp 5 4) .dst d]
  | .upbxBx2 _ d a => [srcA (.grp 2 4) a, posD (.grp 16 16) .dst d]
  | .upbxBx4 _ d a => [srcA (.grp 3 4) a, posD (.grp 16 16) .dst d]
  | .upbxBx7 _ d a => [srcA (.grp 5 4) a, posD (.grp 16 16) .dst d]
  | .pkmxMxi8 _ d a | .pkmxMxf8e4 _ d a | .pkmxMxf8e5 _ d a => [srcA (.grp 32 32) a, posD (.grp 9 8) .dst d]
  | .upmxMxi8 _ d a | .upmxMxf8e4 _ d a | .upmxMxf8e5 _ d a => [srcA (.grp 9 8) a, posD (.grp 32 32) .dst d]
  | .shflIdx _ d a b | .shflUp _ d a b | .shflDown _ d a b | .shflXor _ d a b => [srcA .mask a, srcB .i32 b, posD .i32 .both d]
  | .voteAll _ d a b | .voteAny _ d a b | .voteEq _ d a b | .wredAddI32 _ d a b | .wredMinI32 _ d a b | .wredMaxI32 _ d a b
    | .wredAnd _ d a b | .wredOr _ d a b | .wredXor _ d a b => [srcA .mask a, srcB .i32 b, posD .i32 .dst d]
  | .ballot _ d a b => [srcA .mask a, srcB .i32 b, posD (.grp 4 4) .dst d]
  | .wredAddF32 _ d a b => [srcA .mask a, srcB .f32 b, posD .f32 .dst d]
  | .ld _ d a w p _ | .lds _ d a w p _ => [baseA p.toNat a, posDI (dataGroup w.toNat) .dst d]
  | .st _ d a w p _ => [baseA p.toNat a, posDI (dataGroup w.toNat) .src d]
  | .pref a | .cinvCore a | .cinvClu a | .cinvDie a | .cinvDev a | .cinvSys a | .sealPage a | .phdropDev a | .phsigDev a
    | .mxop a _ _ | .trace a _ _ | .tdecCont a | .tdecAcc a | .tdecTerm a | .march a _ | .brx _ a
    | .callx _ a _ => [srcA .ptr a]
  | .atom32 d a _ p o _ => [baseA p.toNat a, posDI (atomGroup 1 o.toNat) .both d]
  | .atom64 d a _ p o _ => [baseA p.toNat a, posDI (atomGroup 2 o.toNat) .both d]
  | .red32 d a _ p o _ => [baseA p.toNat a, posDI (atomGroup 1 o.toNat) .src d]
  | .red64 d a _ p o _ => [baseA p.toNat a, posDI (atomGroup 2 o.toNat) .src d]
  | .bredF32 a b => [srcA .ptr a, srcB .f32 b]
  | .bredF64 a b => [srcA .ptr a, srcB .f64 b]
  | .binfin d a => [srcA .ptr a, posD .f64 .dst d]
  | .appendB32 d a b | .waita d a b | .wake d a b | .phregDev d a b
    | .spmap d a b => [srcA .ptr a, srcB .i32 b, posD .i32 .dst d]
  | .appendB64 d a b => [srcA .ptr a, srcB .i64 b, posD .i32 .dst d]
  | .appendB128 d a b => [srcA .ptr a, srcB (.grp 4 4) b, posD .i32 .dst d]
  | .appendB256 d a b => [srcA .ptr a, srcB (.grp 8 8) b, posD .i32 .dst d]
  | .twall a => [srcA .i64 a]
  | .tffr d a => [srcA .i64 a, posD .i32 .dst d]
  | .fenceAcq _ | .fenceRel _ | .fenceAr _ | .waitc _ _ _ _ | .mxswap | .jmp _ | .call _ _ | .ret | .wbase _ | .yield | .exit
    | .nop | .trap _ | .eret | .loadDataReturn _ _ | .storePerformed _ | .l1WriteBack _ _ _ | .l1Drop _ _ _ | .issueCycle _
    | .joinHoldTimeout _ _ _ | .ageSaturation _ _ _ | .clockGate _ _ | .launchDispatch _ | .crewPlace _ | .crewSteal _
    | .crewEnd _ | .preemptDispatcher _ | .preemptLacewing _ | .preemptSave _ | .crewResume _ | .preemptSaveTimeout _
    | .tresRetry _ | .trelRelease _ | .spmapComplete _ _ | .spunmapComplete _ _ | .matrixStart _ | .mxswapEffect _
    | .mxopComplete _ | .bankSave _ | .copyComplete _ | .rayCandidate _ | .rayComplete _ | .marchBatch _ | .streamClose _
    | .popEntryPush _ | .reductionDrain _ | .slewGroupRelease | .atomicQuietExpiry _ | .comparatorMatch _ _
    | .dualUnmatchedTimeout _ | .sampledDigestCompare _ | .convWatchdog _ _ _ | .crewWatchdog _ | .migrationTimeout _
    | .registerWrite _ _ _ | .queueGo _ _ | .invalidatePage _ _ _ | .invalidateContext _ _ _ | .invalidateAll _ _ _
    | .reclaim _ _ | .dropBounds _ _ | .invalidationComplete | .hsAcknowledge _ _ | .hsRequestPage _ _ | .attestationGo _
    | .attestationDone | .scLockWrite _ | .mxCadenceWrite _ _ | .hostWrite _ _ _ | .hostRead _ _ | .hostSnoop _
    | .configRequest _ | .remoteRequest _ _ _ _ _ _ _ | .remoteResponse _ _ _ _ _ | .remoteTimeout _ | .flitCrcFailure _
    | .linkTrainingLoss _ | .linkRetrainEnd _ _ | .tokenExchangeTick _ _ _ | .demandAnnounce _ _ | .tokenGrant _ _ _
    | .leaseEnd _ | .tokenReturn _ | .grantReturnTimeout _ | .powerAverage _ _ | .holdEnd _ _ | .railCurrentAlert _
    | .railHoldFailure _ | .junction100c _ | .junction110cTimeout _ | .junction120c _ | .hdieOvertemp | .dieInternalError _
    | .coreSelfTest _ _ | .backgroundScrub _ _ | .powerOnReset _ | .firmwareUpdate _ | .illegalInstruction _
    | .instructionFetchFault | .contextCreation _ _ _ _ _ _ _ _ | .queueCoreCycle _ | .powerLoss => []
  | .phreg d a b | .wopen d a b => [srcA .off a, srcB .i32 b, posD .i32 .dst d]
  | .phdrop a | .phsig a | .wshut a => [srcA .off a]
  | .phwt d a | .pharv d a => [srcA .off a, posD .i32 .dst d]
  | .phwtDev d a | .pharvDev d a => [srcA .ptr a, posD .i32 .dst d]
  | .spunmap a | .trel a | .gwait a | .qsig a => [srcA .i32 a]
  | .tres d a _ | .launch d a => [srcA .ptr a, posD (.grp 1 1) .dst (d.zeroExtend 7)]
  | .bload d a _ | .copy d a _ | .gath d a _ | .scat d a _ => [srcA .ptr a, posD (.queue 82 85) .dst d]
  | .emit a _ => [srcA (.grp 4 4) a]
  | .br _ c a _ => if c.toNat = 8 then [] else [⟨0, a.toNat, 14, .cond, .src⟩]
  | .mfs _ d s => [posDI (selKind s.toNat) .dst d]
  | .mts a s => [srcAI (selKind s.toNat) a]

/-- What one operand field's code breaks (R381, R382), on a queue core or on a core thread. -/
def Pos.fault (q : Bool) (p : Pos) : Option WordFault :=
  let bad5 : Option WordFault := some ⟨5, p.mask, p.code⟩
  let bad6 : Option WordFault := some ⟨6, p.mask, p.code⟩
  let c := p.code
  match p.kind with
  | .grp n al => if 64 ≤ c then bad5 else if c % al ≠ 0 || 64 < c + n then bad6 else none
  | .mask => if 64 ≤ c && c < 112 then bad5 else if c < 64 && c % 4 ≠ 0 then bad6 else none
  | .ptr => if 64 ≤ c && c < 96 then bad5 else if c < 64 && c % 2 ≠ 0 then bad6 else none
  | .off => if 64 ≤ c && c < 96 then bad5 else none
  | .cond => if 80 ≤ c && c < 96 then bad5 else none
  | .queue lo hi => if lo ≤ c && c ≤ hi then none else bad5
  | .i32 | .i64 | .f32 | .f64 | .pkf16 | .pkbf16 | .h16 | .b16 =>
    if c < 64 then (if p.kind.wide && c % 2 ≠ 0 then bad6 else none)
    else if c < 80 then none
    else if p.role ≠ .src then bad5
    else if 96 ≤ c then none
    else if q then (if c = 92 then none else bad5)
    else if c = 81 || c = 89 || (c = 87 && p.kind.wide) then none
    else bad5

def whenBad (b : Bool) (code mask : Nat) : List WordFault := if b then [⟨code, mask, 0⟩] else []

/-- Values that a field reserves, CODE 0x0003 and 0x0004 of R380, the highest field first. -/
def Instr.reserved : Instr → List WordFault
  | .add _ _ _ _ | .sub _ _ _ _ | .minI32 _ _ _ _ | .minN32 _ _ _ _ | .maxI32 _ _ _ _ | .maxN32 _ _ _ _ | .abs _ _ _
    | .neg _ _ _ | .and _ _ _ _ | .or _ _ _ _ | .xor _ _ _ _ | .andn _ _ _ _ | .shl _ _ _ _ | .shr _ _ _ _ | .sar _ _ _ _
    | .addI64 _ _ _ _ | .subI64 _ _ _ _ | .minI64 _ _ _ _ | .minN64 _ _ _ _ | .maxI64 _ _ _ _ | .maxN64 _ _ _ _ | .absI64 _ _ _
    | .negI64 _ _ _ | .andI64 _ _ _ _ | .orI64 _ _ _ _ | .xorI64 _ _ _ _ | .andnI64 _ _ _ _ | .shlI64 _ _ _ _ | .shrI64 _ _ _ _
    | .sarI64 _ _ _ _ | .mulI64 _ _ _ _ | .fshl _ _ _ _ | .fshr _ _ _ _ | .popc _ _ _ | .clz _ _ _ | .ctz _ _ _ | .brev _ _ _
    | .prmb _ _ _ _ | .mul _ _ _ _ | .mulhI32 _ _ _ _ | .mulhN32 _ _ _ _ | .mad _ _ _ _ | .sel _ _ _ _ | .seteq _ _ _ _
    | .setne _ _ _ _ | .setltI _ _ _ _ | .setleI _ _ _ _ | .setgtI _ _ _ _ | .setgeI _ _ _ _ | .setltN _ _ _ _ | .setleN _ _ _ _
    | .setgtN _ _ _ _ | .setgeN _ _ _ _ | .seteq64 _ _ _ _ | .setne64 _ _ _ _ | .setltI64 _ _ _ _ | .setleI64 _ _ _ _
    | .setgtI64 _ _ _ _ | .setgeI64 _ _ _ _ | .setltN64 _ _ _ _ | .setleN64 _ _ _ _ | .setgtN64 _ _ _ _ | .setgeN64 _ _ _ _
    | .addi _ _ _ _ | .andi _ _ _ _ | .ori _ _ _ _ | .xori _ _ _ _ | .shli _ _ _ _ | .shri _ _ _ _ | .sari _ _ _ _
    | .bfx _ _ _ _ _ _ | .bfi _ _ _ _ _ | .limm _ _ _ | .lhi _ _ _ | .lea _ _ _ _ _ | .leai _ _ _ _ | .mova _ _ _
    | .fadd _ _ _ _ | .fsub _ _ _ _ | .fmul _ _ _ _ | .fma _ _ _ _ | .fmin _ _ _ _ | .fmax _ _ _ _ | .faddRm _ _ _ _ _
    | .fsubRm _ _ _ _ _ | .fmulRm _ _ _ _ _ | .fmaRm _ _ _ _ _ | .fseteq _ _ _ _ | .fsetne _ _ _ _ | .fsetlt _ _ _ _
    | .fsetle _ _ _ _ | .fsetgt _ _ _ _ | .fsetge _ _ _ _ | .fsetun _ _ _ _ | .fsetor _ _ _ _ | .hadd2F16 _ _ _ _
    | .hmul2F16 _ _ _ _ | .hfma2F16 _ _ _ _ | .hadd2Bf16 _ _ _ _ | .hmul2Bf16 _ _ _ _ | .hfma2Bf16 _ _ _ _ | .dadd _ _ _ _
    | .dsub _ _ _ _ | .dmul _ _ _ _ | .dfma _ _ _ _ | .dmin _ _ _ _ | .dmax _ _ _ _ | .daddRm _ _ _ _ _ | .dsubRm _ _ _ _ _
    | .dmulRm _ _ _ _ _ | .dfmaRm _ _ _ _ _ | .dseteq _ _ _ _ | .dsetne _ _ _ _ | .dsetlt _ _ _ _ | .dsetle _ _ _ _
    | .dsetgt _ _ _ _ | .dsetge _ _ _ _ | .dsetun _ _ _ _ | .dsetor _ _ _ _ | .rcpF32 _ _ _ | .rsqF32 _ _ _ | .sqrtF32 _ _ _
    | .exp2 _ _ _ | .log2 _ _ _ | .sin _ _ _ | .cos _ _ _ | .rcpF64 _ _ _ | .rsqF64 _ _ _ | .sqrtF64 _ _ _ | .idivI32 _ _ _ _
    | .idivN32 _ _ _ _ | .iremI32 _ _ _ _ | .iremN32 _ _ _ _ | .pkbxBx2 _ _ _ | .pkbxBx4 _ _ _ | .pkbxBx7 _ _ _ | .upbxBx2 _ _ _
    | .upbxBx4 _ _ _ | .upbxBx7 _ _ _ | .pkmxMxi8 _ _ _ | .pkmxMxf8e4 _ _ _ | .pkmxMxf8e5 _ _ _ | .upmxMxi8 _ _ _
    | .upmxMxf8e4 _ _ _ | .upmxMxf8e5 _ _ _ | .rngk _ _ _ _ | .shflIdx _ _ _ _ | .shflUp _ _ _ _ | .shflDown _ _ _ _
    | .shflXor _ _ _ _ | .voteAll _ _ _ _ | .voteAny _ _ _ _ | .voteEq _ _ _ _ | .ballot _ _ _ _ | .wredAddI32 _ _ _ _
    | .wredMinI32 _ _ _ _ | .wredMaxI32 _ _ _ _ | .wredAddF32 _ _ _ _ | .wredAnd _ _ _ _ | .wredOr _ _ _ _ | .wredXor _ _ _ _
    | .lds _ _ _ _ _ _ | .pref _ | .cinvCore _ | .cinvClu _ | .cinvDie _ | .cinvDev _ | .cinvSys _ | .bredF32 _ _ | .bredF64 _ _
    | .binfin _ _ | .appendB32 _ _ _ | .appendB64 _ _ _ | .appendB128 _ _ _ | .appendB256 _ _ _ | .sealPage _ | .waita _ _ _
    | .wake _ _ _ | .twany _ _ | .twall _ | .tffr _ _ | .phreg _ _ _ | .phdrop _ | .phsig _ | .phwt _ _ | .pharv _ _
    | .phregDev _ _ _ | .phdropDev _ | .phsigDev _ | .phwtDev _ _ | .pharvDev _ _ | .waitc _ _ _ _ | .wopen _ _ _ | .wshut _
    | .spmap _ _ _ | .spunmap _ | .tres _ _ _ | .trel _ | .mxop _ _ _ | .mxswap | .bload _ _ _ | .copy _ _ _ | .gath _ _ _
    | .scat _ _ _ | .trace _ _ _ | .tdecCont _ | .tdecAcc _ | .tdecTerm _ | .march _ _ | .emit _ _ | .launch _ _ | .gwait _
    | .qsig _ | .jmp _ | .call _ _ | .brx _ _ | .callx _ _ _ | .ret | .wbase _ | .yield | .exit | .nop | .trap _ | .eret
    | .loadDataReturn _ _ | .storePerformed _ | .l1WriteBack _ _ _ | .l1Drop _ _ _ | .issueCycle _ | .joinHoldTimeout _ _ _
    | .ageSaturation _ _ _ | .clockGate _ _ | .launchDispatch _ | .crewPlace _ | .crewSteal _ | .crewEnd _
    | .preemptDispatcher _ | .preemptLacewing _ | .preemptSave _ | .crewResume _ | .preemptSaveTimeout _ | .tresRetry _
    | .trelRelease _ | .spmapComplete _ _ | .spunmapComplete _ _ | .matrixStart _ | .mxswapEffect _ | .mxopComplete _
    | .bankSave _ | .copyComplete _ | .rayCandidate _ | .rayComplete _ | .marchBatch _ | .streamClose _ | .popEntryPush _
    | .reductionDrain _ | .slewGroupRelease | .atomicQuietExpiry _ | .comparatorMatch _ _ | .dualUnmatchedTimeout _
    | .sampledDigestCompare _ | .convWatchdog _ _ _ | .crewWatchdog _ | .migrationTimeout _ | .registerWrite _ _ _
    | .queueGo _ _ | .invalidatePage _ _ _ | .invalidateContext _ _ _ | .invalidateAll _ _ _ | .reclaim _ _ | .dropBounds _ _
    | .invalidationComplete | .hsAcknowledge _ _ | .hsRequestPage _ _ | .attestationGo _ | .attestationDone | .scLockWrite _
    | .mxCadenceWrite _ _ | .hostWrite _ _ _ | .hostRead _ _ | .hostSnoop _ | .configRequest _ | .remoteRequest _ _ _ _ _ _ _
    | .remoteResponse _ _ _ _ _ | .remoteTimeout _ | .flitCrcFailure _ | .linkTrainingLoss _ | .linkRetrainEnd _ _
    | .tokenExchangeTick _ _ _ | .demandAnnounce _ _ | .tokenGrant _ _ _ | .leaseEnd _ | .tokenReturn _ | .grantReturnTimeout _
    | .powerAverage _ _ | .holdEnd _ _ | .railCurrentAlert _ | .railHoldFailure _ | .junction100c _ | .junction110cTimeout _
    | .junction120c _ | .hdieOvertemp | .dieInternalError _ | .coreSelfTest _ _ | .backgroundScrub _ _ | .powerOnReset _
    | .firmwareUpdate _ | .illegalInstruction _ | .instructionFetchFault | .contextCreation _ _ _ _ _ _ _ _ | .queueCoreCycle _
    | .powerLoss => []
  | .cvt _ _ _ t s r => whenBad (11 ≤ t.toNat) 4 0x780 ++ whenBad (11 ≤ s.toNat) 4 0x78 ++ whenBad (1 ≤ r.toNat && r.toNat ≤ 3) 4 0x7
  | .cvtd _ _ _ t s r => whenBad (12 ≤ t.toNat) 4 0x780 ++ whenBad (12 ≤ s.toNat) 4 0x78 ++ whenBad (t.toNat < 11 && s.toNat < 11) 4 0x7f8 ++ whenBad (1 ≤ r.toNat && r.toNat ≤ 3) 4 0x7
  | .ld _ _ _ w _ _ | .st _ _ _ w _ _ => whenBad (6 ≤ w.toNat) 4 0x700
  | .atom32 _ _ s _ o _ | .atom64 _ _ s _ o _ => whenBad (5 ≤ s.toNat) 4 0x700 ++ whenBad (11 ≤ o.toNat) 4 0x3c
  | .red32 _ _ s _ o r
    | .red64 _ _ s _ o r => whenBad (5 ≤ s.toNat) 4 0x700 ++ whenBad (8 ≤ o.toNat && o.toNat ≠ 10) 4 0x3c ++ whenBad (r.toNat % 2 = 1) 4 0x3
  | .fenceAcq s | .fenceRel s | .fenceAr s => whenBad (5 ≤ s.toNat) 4 0x3f80
  | .br _ c a _ => whenBad (c.toNat = 8 && a.toNat ≠ 0) 3 0x1fc000 ++ whenBad (9 ≤ c.toNat) 4 0x1e00000
  | .mfs _ _ s | .mts _ s => whenBad (!selAssigned s.toNat) 4 0x7ff

/-- The field by which a kind of core does not execute an instruction (R163, R383). -/
def Instr.notHere (q : Bool) : Instr → Option Nat
  | .add _ _ _ _ | .sub _ _ _ _ | .minI32 _ _ _ _ | .minN32 _ _ _ _ | .maxI32 _ _ _ _ | .maxN32 _ _ _ _ | .abs _ _ _
    | .neg _ _ _ | .and _ _ _ _ | .or _ _ _ _ | .xor _ _ _ _ | .andn _ _ _ _ | .shl _ _ _ _ | .shr _ _ _ _ | .sar _ _ _ _
    | .addI64 _ _ _ _ | .subI64 _ _ _ _ | .minI64 _ _ _ _ | .minN64 _ _ _ _ | .maxI64 _ _ _ _ | .maxN64 _ _ _ _ | .absI64 _ _ _
    | .negI64 _ _ _ | .andI64 _ _ _ _ | .orI64 _ _ _ _ | .xorI64 _ _ _ _ | .andnI64 _ _ _ _ | .shlI64 _ _ _ _ | .shrI64 _ _ _ _
    | .sarI64 _ _ _ _ | .mulI64 _ _ _ _ | .fshl _ _ _ _ | .fshr _ _ _ _ | .popc _ _ _ | .clz _ _ _ | .ctz _ _ _ | .brev _ _ _
    | .prmb _ _ _ _ | .mul _ _ _ _ | .mulhI32 _ _ _ _ | .mulhN32 _ _ _ _ | .mad _ _ _ _ | .sel _ _ _ _ | .seteq _ _ _ _
    | .setne _ _ _ _ | .setltI _ _ _ _ | .setleI _ _ _ _ | .setgtI _ _ _ _ | .setgeI _ _ _ _ | .setltN _ _ _ _ | .setleN _ _ _ _
    | .setgtN _ _ _ _ | .setgeN _ _ _ _ | .seteq64 _ _ _ _ | .setne64 _ _ _ _ | .setltI64 _ _ _ _ | .setleI64 _ _ _ _
    | .setgtI64 _ _ _ _ | .setgeI64 _ _ _ _ | .setltN64 _ _ _ _ | .setleN64 _ _ _ _ | .setgtN64 _ _ _ _ | .setgeN64 _ _ _ _
    | .addi _ _ _ _ | .andi _ _ _ _ | .ori _ _ _ _ | .xori _ _ _ _ | .shli _ _ _ _ | .shri _ _ _ _ | .sari _ _ _ _
    | .bfx _ _ _ _ _ _ | .bfi _ _ _ _ _ | .limm _ _ _ | .lhi _ _ _ | .lea _ _ _ _ _ | .leai _ _ _ _ | .mova _ _ _ | .waita _ _ _
    | .wake _ _ _ | .fenceAcq _ | .fenceRel _ | .fenceAr _ | .br _ _ _ _ | .jmp _ | .call _ _ | .brx _ _ | .callx _ _ _ | .ret
    | .wbase _ | .exit | .nop | .trap _ | .eret | .mfs _ _ _ | .mts _ _ | .loadDataReturn _ _ | .storePerformed _
    | .l1WriteBack _ _ _ | .l1Drop _ _ _ | .issueCycle _ | .joinHoldTimeout _ _ _ | .ageSaturation _ _ _ | .clockGate _ _
    | .launchDispatch _ | .crewPlace _ | .crewSteal _ | .crewEnd _ | .preemptDispatcher _ | .preemptLacewing _ | .preemptSave _
    | .crewResume _ | .preemptSaveTimeout _ | .tresRetry _ | .trelRelease _ | .spmapComplete _ _ | .spunmapComplete _ _
    | .matrixStart _ | .mxswapEffect _ | .mxopComplete _ | .bankSave _ | .copyComplete _ | .rayCandidate _ | .rayComplete _
    | .marchBatch _ | .streamClose _ | .popEntryPush _ | .reductionDrain _ | .slewGroupRelease | .atomicQuietExpiry _
    | .comparatorMatch _ _ | .dualUnmatchedTimeout _ | .sampledDigestCompare _ | .convWatchdog _ _ _ | .crewWatchdog _
    | .migrationTimeout _ | .registerWrite _ _ _ | .queueGo _ _ | .invalidatePage _ _ _ | .invalidateContext _ _ _
    | .invalidateAll _ _ _ | .reclaim _ _ | .dropBounds _ _ | .invalidationComplete | .hsAcknowledge _ _ | .hsRequestPage _ _
    | .attestationGo _ | .attestationDone | .scLockWrite _ | .mxCadenceWrite _ _ | .hostWrite _ _ _ | .hostRead _ _
    | .hostSnoop _ | .configRequest _ | .remoteRequest _ _ _ _ _ _ _ | .remoteResponse _ _ _ _ _ | .remoteTimeout _
    | .flitCrcFailure _ | .linkTrainingLoss _ | .linkRetrainEnd _ _ | .tokenExchangeTick _ _ _ | .demandAnnounce _ _
    | .tokenGrant _ _ _ | .leaseEnd _ | .tokenReturn _ | .grantReturnTimeout _ | .powerAverage _ _ | .holdEnd _ _
    | .railCurrentAlert _ | .railHoldFailure _ | .junction100c _ | .junction110cTimeout _ | .junction120c _ | .hdieOvertemp
    | .dieInternalError _ | .coreSelfTest _ _ | .backgroundScrub _ _ | .powerOnReset _ | .firmwareUpdate _
    | .illegalInstruction _ | .instructionFetchFault | .contextCreation _ _ _ _ _ _ _ _ | .queueCoreCycle _ | .powerLoss => none
  | .fadd _ _ _ _ | .fsub _ _ _ _ | .fmul _ _ _ _ | .fma _ _ _ _ | .fmin _ _ _ _ | .fmax _ _ _ _ | .faddRm _ _ _ _ _
    | .fsubRm _ _ _ _ _ | .fmulRm _ _ _ _ _ | .fmaRm _ _ _ _ _ | .fseteq _ _ _ _ | .fsetne _ _ _ _ | .fsetlt _ _ _ _
    | .fsetle _ _ _ _ | .fsetgt _ _ _ _ | .fsetge _ _ _ _ | .fsetun _ _ _ _ | .fsetor _ _ _ _ | .hadd2F16 _ _ _ _
    | .hmul2F16 _ _ _ _ | .hfma2F16 _ _ _ _ | .hadd2Bf16 _ _ _ _ | .hmul2Bf16 _ _ _ _ | .hfma2Bf16 _ _ _ _ | .dadd _ _ _ _
    | .dsub _ _ _ _ | .dmul _ _ _ _ | .dfma _ _ _ _ | .dmin _ _ _ _ | .dmax _ _ _ _ | .daddRm _ _ _ _ _ | .dsubRm _ _ _ _ _
    | .dmulRm _ _ _ _ _ | .dfmaRm _ _ _ _ _ | .dseteq _ _ _ _ | .dsetne _ _ _ _ | .dsetlt _ _ _ _ | .dsetle _ _ _ _
    | .dsetgt _ _ _ _ | .dsetge _ _ _ _ | .dsetun _ _ _ _ | .dsetor _ _ _ _ | .rcpF32 _ _ _ | .rsqF32 _ _ _ | .sqrtF32 _ _ _
    | .exp2 _ _ _ | .log2 _ _ _ | .sin _ _ _ | .cos _ _ _ | .rcpF64 _ _ _ | .rsqF64 _ _ _ | .sqrtF64 _ _ _ | .idivI32 _ _ _ _
    | .idivN32 _ _ _ _ | .iremI32 _ _ _ _ | .iremN32 _ _ _ _ | .cvt _ _ _ _ _ _ | .cvtd _ _ _ _ _ _ | .pkbxBx2 _ _ _
    | .pkbxBx4 _ _ _ | .pkbxBx7 _ _ _ | .upbxBx2 _ _ _ | .upbxBx4 _ _ _ | .upbxBx7 _ _ _ | .pkmxMxi8 _ _ _ | .pkmxMxf8e4 _ _ _
    | .pkmxMxf8e5 _ _ _ | .upmxMxi8 _ _ _ | .upmxMxf8e4 _ _ _ | .upmxMxf8e5 _ _ _ | .rngk _ _ _ _ | .shflIdx _ _ _ _
    | .shflUp _ _ _ _ | .shflDown _ _ _ _ | .shflXor _ _ _ _ | .voteAll _ _ _ _ | .voteAny _ _ _ _ | .voteEq _ _ _ _
    | .ballot _ _ _ _ | .wredAddI32 _ _ _ _ | .wredMinI32 _ _ _ _ | .wredMaxI32 _ _ _ _ | .wredAddF32 _ _ _ _ | .wredAnd _ _ _ _
    | .wredOr _ _ _ _ | .wredXor _ _ _ _ | .pref _ | .cinvCore _ | .cinvClu _ | .cinvDie _ | .cinvDev _ | .cinvSys _
    | .bredF32 _ _ | .bredF64 _ _ | .binfin _ _ | .appendB32 _ _ _ | .appendB64 _ _ _ | .appendB128 _ _ _ | .appendB256 _ _ _
    | .sealPage _ | .phreg _ _ _ | .phdrop _ | .phsig _ | .phwt _ _ | .pharv _ _ | .phregDev _ _ _ | .phdropDev _ | .phsigDev _
    | .phwtDev _ _ | .pharvDev _ _ | .waitc _ _ _ _ | .wopen _ _ _ | .wshut _ | .spmap _ _ _ | .spunmap _ | .tres _ _ _
    | .trel _ | .mxop _ _ _ | .mxswap | .bload _ _ _ | .copy _ _ _ | .gath _ _ _ | .scat _ _ _ | .trace _ _ _ | .tdecCont _
    | .tdecAcc _ | .tdecTerm _ | .march _ _ | .emit _ _ => if q then some 0x7e000000 else none
  | .ld _ _ _ _ p _ | .lds _ _ _ _ p _ | .st _ _ _ _ p _ | .atom32 _ _ _ p _ _ | .atom64 _ _ _ p _ _ | .red32 _ _ _ p _ _
    | .red64 _ _ _ p _ _ => if q && p.toNat ≠ 0 then some 0xc0 else none
  | .twany _ _ | .twall _ | .tffr _ _ | .yield => if q then some 0x1e00000 else none
  | .launch _ _ | .gwait _ | .qsig _ => if q then none else some 0x7e000000

/-- MTS to a selector that is never written, CODE 0x0008 (R384). The uses that depend on TSTAT.INH are checked thread by thread. -/
def Instr.readOnlySel : Instr → List WordFault
  | .add _ _ _ _ | .sub _ _ _ _ | .minI32 _ _ _ _ | .minN32 _ _ _ _ | .maxI32 _ _ _ _ | .maxN32 _ _ _ _ | .abs _ _ _
    | .neg _ _ _ | .and _ _ _ _ | .or _ _ _ _ | .xor _ _ _ _ | .andn _ _ _ _ | .shl _ _ _ _ | .shr _ _ _ _ | .sar _ _ _ _
    | .addI64 _ _ _ _ | .subI64 _ _ _ _ | .minI64 _ _ _ _ | .minN64 _ _ _ _ | .maxI64 _ _ _ _ | .maxN64 _ _ _ _ | .absI64 _ _ _
    | .negI64 _ _ _ | .andI64 _ _ _ _ | .orI64 _ _ _ _ | .xorI64 _ _ _ _ | .andnI64 _ _ _ _ | .shlI64 _ _ _ _ | .shrI64 _ _ _ _
    | .sarI64 _ _ _ _ | .mulI64 _ _ _ _ | .fshl _ _ _ _ | .fshr _ _ _ _ | .popc _ _ _ | .clz _ _ _ | .ctz _ _ _ | .brev _ _ _
    | .prmb _ _ _ _ | .mul _ _ _ _ | .mulhI32 _ _ _ _ | .mulhN32 _ _ _ _ | .mad _ _ _ _ | .sel _ _ _ _ | .seteq _ _ _ _
    | .setne _ _ _ _ | .setltI _ _ _ _ | .setleI _ _ _ _ | .setgtI _ _ _ _ | .setgeI _ _ _ _ | .setltN _ _ _ _ | .setleN _ _ _ _
    | .setgtN _ _ _ _ | .setgeN _ _ _ _ | .seteq64 _ _ _ _ | .setne64 _ _ _ _ | .setltI64 _ _ _ _ | .setleI64 _ _ _ _
    | .setgtI64 _ _ _ _ | .setgeI64 _ _ _ _ | .setltN64 _ _ _ _ | .setleN64 _ _ _ _ | .setgtN64 _ _ _ _ | .setgeN64 _ _ _ _
    | .addi _ _ _ _ | .andi _ _ _ _ | .ori _ _ _ _ | .xori _ _ _ _ | .shli _ _ _ _ | .shri _ _ _ _ | .sari _ _ _ _
    | .bfx _ _ _ _ _ _ | .bfi _ _ _ _ _ | .limm _ _ _ | .lhi _ _ _ | .lea _ _ _ _ _ | .leai _ _ _ _ | .mova _ _ _
    | .fadd _ _ _ _ | .fsub _ _ _ _ | .fmul _ _ _ _ | .fma _ _ _ _ | .fmin _ _ _ _ | .fmax _ _ _ _ | .faddRm _ _ _ _ _
    | .fsubRm _ _ _ _ _ | .fmulRm _ _ _ _ _ | .fmaRm _ _ _ _ _ | .fseteq _ _ _ _ | .fsetne _ _ _ _ | .fsetlt _ _ _ _
    | .fsetle _ _ _ _ | .fsetgt _ _ _ _ | .fsetge _ _ _ _ | .fsetun _ _ _ _ | .fsetor _ _ _ _ | .hadd2F16 _ _ _ _
    | .hmul2F16 _ _ _ _ | .hfma2F16 _ _ _ _ | .hadd2Bf16 _ _ _ _ | .hmul2Bf16 _ _ _ _ | .hfma2Bf16 _ _ _ _ | .dadd _ _ _ _
    | .dsub _ _ _ _ | .dmul _ _ _ _ | .dfma _ _ _ _ | .dmin _ _ _ _ | .dmax _ _ _ _ | .daddRm _ _ _ _ _ | .dsubRm _ _ _ _ _
    | .dmulRm _ _ _ _ _ | .dfmaRm _ _ _ _ _ | .dseteq _ _ _ _ | .dsetne _ _ _ _ | .dsetlt _ _ _ _ | .dsetle _ _ _ _
    | .dsetgt _ _ _ _ | .dsetge _ _ _ _ | .dsetun _ _ _ _ | .dsetor _ _ _ _ | .rcpF32 _ _ _ | .rsqF32 _ _ _ | .sqrtF32 _ _ _
    | .exp2 _ _ _ | .log2 _ _ _ | .sin _ _ _ | .cos _ _ _ | .rcpF64 _ _ _ | .rsqF64 _ _ _ | .sqrtF64 _ _ _ | .idivI32 _ _ _ _
    | .idivN32 _ _ _ _ | .iremI32 _ _ _ _ | .iremN32 _ _ _ _ | .cvt _ _ _ _ _ _ | .cvtd _ _ _ _ _ _ | .pkbxBx2 _ _ _
    | .pkbxBx4 _ _ _ | .pkbxBx7 _ _ _ | .upbxBx2 _ _ _ | .upbxBx4 _ _ _ | .upbxBx7 _ _ _ | .pkmxMxi8 _ _ _ | .pkmxMxf8e4 _ _ _
    | .pkmxMxf8e5 _ _ _ | .upmxMxi8 _ _ _ | .upmxMxf8e4 _ _ _ | .upmxMxf8e5 _ _ _ | .rngk _ _ _ _ | .shflIdx _ _ _ _
    | .shflUp _ _ _ _ | .shflDown _ _ _ _ | .shflXor _ _ _ _ | .voteAll _ _ _ _ | .voteAny _ _ _ _ | .voteEq _ _ _ _
    | .ballot _ _ _ _ | .wredAddI32 _ _ _ _ | .wredMinI32 _ _ _ _ | .wredMaxI32 _ _ _ _ | .wredAddF32 _ _ _ _ | .wredAnd _ _ _ _
    | .wredOr _ _ _ _ | .wredXor _ _ _ _ | .ld _ _ _ _ _ _ | .lds _ _ _ _ _ _ | .st _ _ _ _ _ _ | .pref _ | .cinvCore _
    | .cinvClu _ | .cinvDie _ | .cinvDev _ | .cinvSys _ | .atom32 _ _ _ _ _ _ | .atom64 _ _ _ _ _ _ | .red32 _ _ _ _ _ _
    | .red64 _ _ _ _ _ _ | .bredF32 _ _ | .bredF64 _ _ | .binfin _ _ | .appendB32 _ _ _ | .appendB64 _ _ _ | .appendB128 _ _ _
    | .appendB256 _ _ _ | .sealPage _ | .waita _ _ _ | .wake _ _ _ | .twany _ _ | .twall _ | .tffr _ _ | .fenceAcq _
    | .fenceRel _ | .fenceAr _ | .phreg _ _ _ | .phdrop _ | .phsig _ | .phwt _ _ | .pharv _ _ | .phregDev _ _ _ | .phdropDev _
    | .phsigDev _ | .phwtDev _ _ | .pharvDev _ _ | .waitc _ _ _ _ | .wopen _ _ _ | .wshut _ | .spmap _ _ _ | .spunmap _
    | .tres _ _ _ | .trel _ | .mxop _ _ _ | .mxswap | .bload _ _ _ | .copy _ _ _ | .gath _ _ _ | .scat _ _ _ | .trace _ _ _
    | .tdecCont _ | .tdecAcc _ | .tdecTerm _ | .march _ _ | .emit _ _ | .launch _ _ | .gwait _ | .qsig _ | .br _ _ _ _ | .jmp _
    | .call _ _ | .brx _ _ | .callx _ _ _ | .ret | .wbase _ | .yield | .exit | .nop | .trap _ | .eret | .mfs _ _ _
    | .loadDataReturn _ _ | .storePerformed _ | .l1WriteBack _ _ _ | .l1Drop _ _ _ | .issueCycle _ | .joinHoldTimeout _ _ _
    | .ageSaturation _ _ _ | .clockGate _ _ | .launchDispatch _ | .crewPlace _ | .crewSteal _ | .crewEnd _
    | .preemptDispatcher _ | .preemptLacewing _ | .preemptSave _ | .crewResume _ | .preemptSaveTimeout _ | .tresRetry _
    | .trelRelease _ | .spmapComplete _ _ | .spunmapComplete _ _ | .matrixStart _ | .mxswapEffect _ | .mxopComplete _
    | .bankSave _ | .copyComplete _ | .rayCandidate _ | .rayComplete _ | .marchBatch _ | .streamClose _ | .popEntryPush _
    | .reductionDrain _ | .slewGroupRelease | .atomicQuietExpiry _ | .comparatorMatch _ _ | .dualUnmatchedTimeout _
    | .sampledDigestCompare _ | .convWatchdog _ _ _ | .crewWatchdog _ | .migrationTimeout _ | .registerWrite _ _ _
    | .queueGo _ _ | .invalidatePage _ _ _ | .invalidateContext _ _ _ | .invalidateAll _ _ _ | .reclaim _ _ | .dropBounds _ _
    | .invalidationComplete | .hsAcknowledge _ _ | .hsRequestPage _ _ | .attestationGo _ | .attestationDone | .scLockWrite _
    | .mxCadenceWrite _ _ | .hostWrite _ _ _ | .hostRead _ _ | .hostSnoop _ | .configRequest _ | .remoteRequest _ _ _ _ _ _ _
    | .remoteResponse _ _ _ _ _ | .remoteTimeout _ | .flitCrcFailure _ | .linkTrainingLoss _ | .linkRetrainEnd _ _
    | .tokenExchangeTick _ _ _ | .demandAnnounce _ _ | .tokenGrant _ _ _ | .leaseEnd _ | .tokenReturn _ | .grantReturnTimeout _
    | .powerAverage _ _ | .holdEnd _ _ | .railCurrentAlert _ | .railHoldFailure _ | .junction100c _ | .junction110cTimeout _
    | .junction120c _ | .hdieOvertemp | .dieInternalError _ | .coreSelfTest _ _ | .backgroundScrub _ _ | .powerOnReset _
    | .firmwareUpdate _ | .illegalInstruction _ | .instructionFetchFault | .contextCreation _ _ _ _ _ _ _ _ | .queueCoreCycle _
    | .powerLoss => []
  | .mts _ s => if selAssigned s.toNat && s.toNat ≠ 16 && s.toNat ≠ 32 && s.toNat ≠ 43 then [⟨8, 0x7ff, s.toNat⟩] else []

/-- The operand fields with a scratchpad code, which a queue core does not execute whatever the position admits (R163, R377, R383). -/
def Instr.scratchFields (i : Instr) : List WordFault :=
  i.positions.filterMap fun p =>
    match p.kind with
    | .queue _ _ => none
    | .grp _ _ | .mask | .ptr | .off | .i32 | .i64 | .f32 | .f64 | .pkf16 | .pkbf16 | .h16 | .b16 | .cond =>
      if 64 ≤ p.code && p.code < 80 then some ⟨7, p.mask, 0⟩ else none

/-- The shifts of LEA that no cell has (R184): CODE 0x0002, before every other check of its fields. -/
def Instr.unassigned (i : Instr) : List WordFault :=
  match i with
  | .lea _ s _ _ _ => whenBad (8 < s.toNat) 2 0x1e00000
  | _ => []

/-- The word checks of an instruction that its fields can express, CODE 0x0002, then 0x0007, and then rising (R377). -/
def Instr.faults (q : Bool) (i : Instr) : List WordFault :=
  i.unassigned
    ++ (match i.notHere q with | some m => [⟨7, m, 0⟩] | none => [])
    ++ (if q then i.scratchFields else [])
    ++ i.reserved.filter (·.code = 3) ++ i.reserved.filter (·.code = 4)
    ++ (i.positions.filterMap (Pos.fault q)).filter (·.code = 5)
    ++ (i.positions.filterMap (Pos.fault q)).filter (·.code = 6)
    ++ i.readOnlySel

/-- The word check an instruction fails first (R377 step 2). -/
def Instr.check (q : Bool) (i : Instr) : Option WordFault := (i.faults q).head?

/-- An instruction that some kind of core executes. -/
def Instr.wellFormed (i : Instr) : Bool := i.check false = none || i.check true = none

end Sys2Proof
end

