-- ==== Sys2Proof/Decode.lean ====
section
/-! DEFINITION. From words to instructions and back: the cell that a word selects (R152, R158 to R163), the word checks of R377 in their order, the decoder, and the encoder. -/

namespace Sys2Proof

/-- A cell of the opcode map and the checks its word fails that the instruction's own fields cannot express. -/
structure Cell where
  instr : Instr
  extra : List WordFault
  deriving DecidableEq, Repr

/-- A field of `w` bits at bit `lo` of a word. -/
def fld (n lo w : Nat) : BitVec w := BitVec.ofNat w (n / 2 ^ lo)
def fbit (n lo : Nat) : Bool := n / 2 ^ lo % 2 = 1

/-- A field that must be 0 (R380): CODE 0x0003 with the field's mask. -/
def zeroField (n hi lo : Nat) : List WordFault :=
  if bits n hi lo = 0 then [] else [⟨3, (2 ^ (hi + 1 - lo) - 1) * 2 ^ lo, 0⟩]
/-- A field whose upper bits hold a reserved value: CODE 0x0004 with the whole field's mask. -/
def smallField (n hi lo mask : Nat) : List WordFault := if bits n hi lo = 0 then [] else [⟨4, mask, 0⟩]
/-- An E-format D field with one admitted code (R162): CODE 0x0005. -/
def fixedD (n code : Nat) : List WordFault := if bits n 20 14 = code then [] else [⟨5, 0x1fc000, bits n 20 14⟩]
/-- An E-format D field that takes codes 0 to 63 (R162): CODE 0x0005. -/
def regD (n : Nat) : List WordFault := if bits n 20 14 < 64 then [] else [⟨5, 0x1fc000, bits n 20 14⟩]

/-- Cells of major 0x01. -/
def cell01 (n : Nat) : Option Cell :=
  match bits n 24 21 with
  | 0 => some ⟨.add (fbit n 31) (fld n 14 7) (fld n 7 7) (fld n 0 7), []⟩
  | 1 => some ⟨.sub (fbit n 31) (fld n 14 7) (fld n 7 7) (fld n 0 7), []⟩
  | 2 => some ⟨.minI32 (fbit n 31) (fld n 14 7) (fld n 7 7) (fld n 0 7), []⟩
  | 3 => some ⟨.minN32 (fbit n 31) (fld n 14 7) (fld n 7 7) (fld n 0 7), []⟩
  | 4 => some ⟨.maxI32 (fbit n 31) (fld n 14 7) (fld n 7 7) (fld n 0 7), []⟩
  | 5 => some ⟨.maxN32 (fbit n 31) (fld n 14 7) (fld n 7 7) (fld n 0 7), []⟩
  | 6 => some ⟨.abs (fbit n 31) (fld n 14 7) (fld n 7 7), zeroField n 6 0⟩
  | 7 => some ⟨.neg (fbit n 31) (fld n 14 7) (fld n 7 7), zeroField n 6 0⟩
  | 8 => some ⟨.and (fbit n 31) (fld n 14 7) (fld n 7 7) (fld n 0 7), []⟩
  | 9 => some ⟨.or (fbit n 31) (fld n 14 7) (fld n 7 7) (fld n 0 7), []⟩
  | 10 => some ⟨.xor (fbit n 31) (fld n 14 7) (fld n 7 7) (fld n 0 7), []⟩
  | 11 => some ⟨.andn (fbit n 31) (fld n 14 7) (fld n 7 7) (fld n 0 7), []⟩
  | 12 => some ⟨.shl (fbit n 31) (fld n 14 7) (fld n 7 7) (fld n 0 7), []⟩
  | 13 => some ⟨.shr (fbit n 31) (fld n 14 7) (fld n 7 7) (fld n 0 7), []⟩
  | 14 => some ⟨.sar (fbit n 31) (fld n 14 7) (fld n 7 7) (fld n 0 7), []⟩
  | _ => none

/-- Cells of major 0x04. -/
def cell04 (n : Nat) : Option Cell :=
  match bits n 24 21 with
  | 0 => some ⟨.addI64 (fbit n 31) (fld n 14 7) (fld n 7 7) (fld n 0 7), []⟩
  | 1 => some ⟨.subI64 (fbit n 31) (fld n 14 7) (fld n 7 7) (fld n 0 7), []⟩
  | 2 => some ⟨.minI64 (fbit n 31) (fld n 14 7) (fld n 7 7) (fld n 0 7), []⟩
  | 3 => some ⟨.minN64 (fbit n 31) (fld n 14 7) (fld n 7 7) (fld n 0 7), []⟩
  | 4 => some ⟨.maxI64 (fbit n 31) (fld n 14 7) (fld n 7 7) (fld n 0 7), []⟩
  | 5 => some ⟨.maxN64 (fbit n 31) (fld n 14 7) (fld n 7 7) (fld n 0 7), []⟩
  | 6 => some ⟨.absI64 (fbit n 31) (fld n 14 7) (fld n 7 7), zeroField n 6 0⟩
  | 7 => some ⟨.negI64 (fbit n 31) (fld n 14 7) (fld n 7 7), zeroField n 6 0⟩
  | 8 => some ⟨.andI64 (fbit n 31) (fld n 14 7) (fld n 7 7) (fld n 0 7), []⟩
  | 9 => some ⟨.orI64 (fbit n 31) (fld n 14 7) (fld n 7 7) (fld n 0 7), []⟩
  | 10 => some ⟨.xorI64 (fbit n 31) (fld n 14 7) (fld n 7 7) (fld n 0 7), []⟩
  | 11 => some ⟨.andnI64 (fbit n 31) (fld n 14 7) (fld n 7 7) (fld n 0 7), []⟩
  | 12 => some ⟨.shlI64 (fbit n 31) (fld n 14 7) (fld n 7 7) (fld n 0 7), []⟩
  | 13 => some ⟨.shrI64 (fbit n 31) (fld n 14 7) (fld n 7 7) (fld n 0 7), []⟩
  | 14 => some ⟨.sarI64 (fbit n 31) (fld n 14 7) (fld n 7 7) (fld n 0 7), []⟩
  | _ => some ⟨.mulI64 (fbit n 31) (fld n 14 7) (fld n 7 7) (fld n 0 7), []⟩

/-- Cells of major 0x02. -/
def cell02 (n : Nat) : Option Cell :=
  match bits n 24 21 with
  | 0 => some ⟨.fshl (fbit n 31) (fld n 14 7) (fld n 7 7) (fld n 0 7), []⟩
  | 1 => some ⟨.fshr (fbit n 31) (fld n 14 7) (fld n 7 7) (fld n 0 7), []⟩
  | 2 => some ⟨.popc (fbit n 31) (fld n 14 7) (fld n 7 7), zeroField n 6 0⟩
  | 3 => some ⟨.clz (fbit n 31) (fld n 14 7) (fld n 7 7), zeroField n 6 0⟩
  | 4 => some ⟨.ctz (fbit n 31) (fld n 14 7) (fld n 7 7), zeroField n 6 0⟩
  | 5 => some ⟨.brev (fbit n 31) (fld n 14 7) (fld n 7 7), zeroField n 6 0⟩
  | 6 => some ⟨.prmb (fbit n 31) (fld n 14 7) (fld n 7 7) (fld n 0 7), []⟩
  | 7 => some ⟨.mul (fbit n 31) (fld n 14 7) (fld n 7 7) (fld n 0 7), []⟩
  | 8 => some ⟨.mulhI32 (fbit n 31) (fld n 14 7) (fld n 7 7) (fld n 0 7), []⟩
  | 9 => some ⟨.mulhN32 (fbit n 31) (fld n 14 7) (fld n 7 7) (fld n 0 7), []⟩
  | 10 => some ⟨.mad (fbit n 31) (fld n 14 7) (fld n 7 7) (fld n 0 7), []⟩
  | 11 => some ⟨.sel (fbit n 31) (fld n 14 7) (fld n 7 7) (fld n 0 7), []⟩
  | _ => none

/-- Cells of major 0x03. -/
def cell03 (n : Nat) : Option Cell :=
  match bits n 24 21 with
  | 0 => some ⟨.seteq (fbit n 31) (fld n 14 7) (fld n 7 7) (fld n 0 7), []⟩
  | 1 => some ⟨.setne (fbit n 31) (fld n 14 7) (fld n 7 7) (fld n 0 7), []⟩
  | 2 => some ⟨.setltI (fbit n 31) (fld n 14 7) (fld n 7 7) (fld n 0 7), []⟩
  | 3 => some ⟨.setleI (fbit n 31) (fld n 14 7) (fld n 7 7) (fld n 0 7), []⟩
  | 4 => some ⟨.setgtI (fbit n 31) (fld n 14 7) (fld n 7 7) (fld n 0 7), []⟩
  | 5 => some ⟨.setgeI (fbit n 31) (fld n 14 7) (fld n 7 7) (fld n 0 7), []⟩
  | 6 => some ⟨.setltN (fbit n 31) (fld n 14 7) (fld n 7 7) (fld n 0 7), []⟩
  | 7 => some ⟨.setleN (fbit n 31) (fld n 14 7) (fld n 7 7) (fld n 0 7), []⟩
  | 8 => some ⟨.setgtN (fbit n 31) (fld n 14 7) (fld n 7 7) (fld n 0 7), []⟩
  | 9 => some ⟨.setgeN (fbit n 31) (fld n 14 7) (fld n 7 7) (fld n 0 7), []⟩
  | _ => none

/-- Cells of major 0x05. -/
def cell05 (n : Nat) : Option Cell :=
  match bits n 24 21 with
  | 0 => some ⟨.seteq64 (fbit n 31) (fld n 14 7) (fld n 7 7) (fld n 0 7), []⟩
  | 1 => some ⟨.setne64 (fbit n 31) (fld n 14 7) (fld n 7 7) (fld n 0 7), []⟩
  | 2 => some ⟨.setltI64 (fbit n 31) (fld n 14 7) (fld n 7 7) (fld n 0 7), []⟩
  | 3 => some ⟨.setleI64 (fbit n 31) (fld n 14 7) (fld n 7 7) (fld n 0 7), []⟩
  | 4 => some ⟨.setgtI64 (fbit n 31) (fld n 14 7) (fld n 7 7) (fld n 0 7), []⟩
  | 5 => some ⟨.setgeI64 (fbit n 31) (fld n 14 7) (fld n 7 7) (fld n 0 7), []⟩
  | 6 => some ⟨.setltN64 (fbit n 31) (fld n 14 7) (fld n 7 7) (fld n 0 7), []⟩
  | 7 => some ⟨.setleN64 (fbit n 31) (fld n 14 7) (fld n 7 7) (fld n 0 7), []⟩
  | 8 => some ⟨.setgtN64 (fbit n 31) (fld n 14 7) (fld n 7 7) (fld n 0 7), []⟩
  | 9 => some ⟨.setgeN64 (fbit n 31) (fld n 14 7) (fld n 7 7) (fld n 0 7), []⟩
  | _ => none

/-- Cells of major 0x06. -/
def cell06 (n : Nat) : Option Cell :=
  some ⟨.addi (fbit n 31) (fld n 18 7) (fld n 11 7) (fld n 0 11), []⟩

/-- Cells of major 0x07. -/
def cell07 (n : Nat) : Option Cell :=
  some ⟨.andi (fbit n 31) (fld n 18 7) (fld n 11 7) (fld n 0 11), []⟩

/-- Cells of major 0x08. -/
def cell08 (n : Nat) : Option Cell :=
  some ⟨.ori (fbit n 31) (fld n 18 7) (fld n 11 7) (fld n 0 11), []⟩

/-- Cells of major 0x09. -/
def cell09 (n : Nat) : Option Cell :=
  some ⟨.xori (fbit n 31) (fld n 18 7) (fld n 11 7) (fld n 0 11), []⟩

/-- Cells of major 0x0a. -/
def cell0a (n : Nat) : Option Cell :=
  match bits n 6 5 with
  | 0 => some ⟨.shli (fbit n 31) (fld n 18 7) (fld n 11 7) (fld n 0 5), zeroField n 10 7⟩
  | 1 => some ⟨.shri (fbit n 31) (fld n 18 7) (fld n 11 7) (fld n 0 5), zeroField n 10 7⟩
  | 2 => some ⟨.sari (fbit n 31) (fld n 18 7) (fld n 11 7) (fld n 0 5), zeroField n 10 7⟩
  | _ => none

/-- Cells of major 0x0b. -/
def cell0b (n : Nat) : Option Cell :=
  some ⟨.bfx (fbit n 31) (fld n 18 7) (fld n 11 7) (fld n 10 1) (fld n 5 5) (fld n 0 5), []⟩

/-- Cells of major 0x0c. -/
def cell0c (n : Nat) : Option Cell :=
  some ⟨.bfi (fbit n 31) (fld n 18 7) (fld n 11 7) (fld n 5 5) (fld n 0 5), zeroField n 10 10⟩

/-- Cells of major 0x0d. -/
def cell0d (n : Nat) : Option Cell :=
  some ⟨.limm (fbit n 31) (fld n 18 7) (fld n 0 18), []⟩

/-- Cells of major 0x0e. -/
def cell0e (n : Nat) : Option Cell :=
  some ⟨.lhi (fbit n 31) (fld n 18 7) (fld n 0 18), []⟩

/-- Cells of major 0x0f. -/
def cell0f (n : Nat) : Option Cell :=
  if bits n 24 21 ≤ 8 then some ⟨.lea (fbit n 31) (fld n 21 4) (fld n 14 7) (fld n 7 7) (fld n 0 7), []⟩ else none

/-- Cells of major 0x10. -/
def cell10 (n : Nat) : Option Cell :=
  some ⟨.leai (fbit n 31) (fld n 18 7) (fld n 11 7) (fld n 0 11), []⟩

/-- Cells of major 0x11. -/
def cell11 (n : Nat) : Option Cell :=
  some ⟨.mova (fld n 18 3) (fld n 11 7) (fld n 0 11), zeroField n 31 31 ++ smallField n 24 21 0x1fc0000⟩

/-- Cells of major 0x18. -/
def cell18 (n : Nat) : Option Cell :=
  match bits n 24 21 with
  | 0 => some ⟨.fadd (fbit n 31) (fld n 14 7) (fld n 7 7) (fld n 0 7), []⟩
  | 1 => some ⟨.fsub (fbit n 31) (fld n 14 7) (fld n 7 7) (fld n 0 7), []⟩
  | 2 => some ⟨.fmul (fbit n 31) (fld n 14 7) (fld n 7 7) (fld n 0 7), []⟩
  | 3 => some ⟨.fma (fbit n 31) (fld n 14 7) (fld n 7 7) (fld n 0 7), []⟩
  | 4 => some ⟨.fmin (fbit n 31) (fld n 14 7) (fld n 7 7) (fld n 0 7), []⟩
  | 5 => some ⟨.fmax (fbit n 31) (fld n 14 7) (fld n 7 7) (fld n 0 7), []⟩
  | _ => none

/-- Cells of major 0x19. -/
def cell19 (n : Nat) : Option Cell :=
  match bits n 24 23 with
  | 0 => some ⟨.faddRm (fbit n 31) (fld n 21 2) (fld n 14 7) (fld n 7 7) (fld n 0 7), []⟩
  | 1 => some ⟨.fsubRm (fbit n 31) (fld n 21 2) (fld n 14 7) (fld n 7 7) (fld n 0 7), []⟩
  | 2 => some ⟨.fmulRm (fbit n 31) (fld n 21 2) (fld n 14 7) (fld n 7 7) (fld n 0 7), []⟩
  | _ => some ⟨.fmaRm (fbit n 31) (fld n 21 2) (fld n 14 7) (fld n 7 7) (fld n 0 7), []⟩

/-- Cells of major 0x1a. -/
def cell1a (n : Nat) : Option Cell :=
  match bits n 24 21 with
  | 0 => some ⟨.fseteq (fbit n 31) (fld n 14 7) (fld n 7 7) (fld n 0 7), []⟩
  | 1 => some ⟨.fsetne (fbit n 31) (fld n 14 7) (fld n 7 7) (fld n 0 7), []⟩
  | 2 => some ⟨.fsetlt (fbit n 31) (fld n 14 7) (fld n 7 7) (fld n 0 7), []⟩
  | 3 => some ⟨.fsetle (fbit n 31) (fld n 14 7) (fld n 7 7) (fld n 0 7), []⟩
  | 4 => some ⟨.fsetgt (fbit n 31) (fld n 14 7) (fld n 7 7) (fld n 0 7), []⟩
  | 5 => some ⟨.fsetge (fbit n 31) (fld n 14 7) (fld n 7 7) (fld n 0 7), []⟩
  | 6 => some ⟨.fsetun (fbit n 31) (fld n 14 7) (fld n 7 7) (fld n 0 7), []⟩
  | 7 => some ⟨.fsetor (fbit n 31) (fld n 14 7) (fld n 7 7) (fld n 0 7), []⟩
  | _ => none

/-- Cells of major 0x1b. -/
def cell1b (n : Nat) : Option Cell :=
  match bits n 24 21 with
  | 0 => some ⟨.hadd2F16 (fbit n 31) (fld n 14 7) (fld n 7 7) (fld n 0 7), []⟩
  | 1 => some ⟨.hmul2F16 (fbit n 31) (fld n 14 7) (fld n 7 7) (fld n 0 7), []⟩
  | 2 => some ⟨.hfma2F16 (fbit n 31) (fld n 14 7) (fld n 7 7) (fld n 0 7), []⟩
  | 4 => some ⟨.hadd2Bf16 (fbit n 31) (fld n 14 7) (fld n 7 7) (fld n 0 7), []⟩
  | 5 => some ⟨.hmul2Bf16 (fbit n 31) (fld n 14 7) (fld n 7 7) (fld n 0 7), []⟩
  | 6 => some ⟨.hfma2Bf16 (fbit n 31) (fld n 14 7) (fld n 7 7) (fld n 0 7), []⟩
  | _ => none

/-- Cells of major 0x1c. -/
def cell1c (n : Nat) : Option Cell :=
  match bits n 24 21 with
  | 0 => some ⟨.dadd (fbit n 31) (fld n 14 7) (fld n 7 7) (fld n 0 7), []⟩
  | 1 => some ⟨.dsub (fbit n 31) (fld n 14 7) (fld n 7 7) (fld n 0 7), []⟩
  | 2 => some ⟨.dmul (fbit n 31) (fld n 14 7) (fld n 7 7) (fld n 0 7), []⟩
  | 3 => some ⟨.dfma (fbit n 31) (fld n 14 7) (fld n 7 7) (fld n 0 7), []⟩
  | 4 => some ⟨.dmin (fbit n 31) (fld n 14 7) (fld n 7 7) (fld n 0 7), []⟩
  | 5 => some ⟨.dmax (fbit n 31) (fld n 14 7) (fld n 7 7) (fld n 0 7), []⟩
  | _ => none

/-- Cells of major 0x1d. -/
def cell1d (n : Nat) : Option Cell :=
  match bits n 24 23 with
  | 0 => some ⟨.daddRm (fbit n 31) (fld n 21 2) (fld n 14 7) (fld n 7 7) (fld n 0 7), []⟩
  | 1 => some ⟨.dsubRm (fbit n 31) (fld n 21 2) (fld n 14 7) (fld n 7 7) (fld n 0 7), []⟩
  | 2 => some ⟨.dmulRm (fbit n 31) (fld n 21 2) (fld n 14 7) (fld n 7 7) (fld n 0 7), []⟩
  | _ => some ⟨.dfmaRm (fbit n 31) (fld n 21 2) (fld n 14 7) (fld n 7 7) (fld n 0 7), []⟩

/-- Cells of major 0x1e. -/
def cell1e (n : Nat) : Option Cell :=
  match bits n 24 21 with
  | 0 => some ⟨.dseteq (fbit n 31) (fld n 14 7) (fld n 7 7) (fld n 0 7), []⟩
  | 1 => some ⟨.dsetne (fbit n 31) (fld n 14 7) (fld n 7 7) (fld n 0 7), []⟩
  | 2 => some ⟨.dsetlt (fbit n 31) (fld n 14 7) (fld n 7 7) (fld n 0 7), []⟩
  | 3 => some ⟨.dsetle (fbit n 31) (fld n 14 7) (fld n 7 7) (fld n 0 7), []⟩
  | 4 => some ⟨.dsetgt (fbit n 31) (fld n 14 7) (fld n 7 7) (fld n 0 7), []⟩
  | 5 => some ⟨.dsetge (fbit n 31) (fld n 14 7) (fld n 7 7) (fld n 0 7), []⟩
  | 6 => some ⟨.dsetun (fbit n 31) (fld n 14 7) (fld n 7 7) (fld n 0 7), []⟩
  | 7 => some ⟨.dsetor (fbit n 31) (fld n 14 7) (fld n 7 7) (fld n 0 7), []⟩
  | _ => none

/-- Cells of major 0x1f. -/
def cell1f (n : Nat) : Option Cell :=
  match bits n 24 21 with
  | 0 => some ⟨.rcpF32 (fbit n 31) (fld n 14 7) (fld n 7 7), zeroField n 6 0⟩
  | 1 => some ⟨.rsqF32 (fbit n 31) (fld n 14 7) (fld n 7 7), zeroField n 6 0⟩
  | 2 => some ⟨.sqrtF32 (fbit n 31) (fld n 14 7) (fld n 7 7), zeroField n 6 0⟩
  | 3 => some ⟨.exp2 (fbit n 31) (fld n 14 7) (fld n 7 7), zeroField n 6 0⟩
  | 4 => some ⟨.log2 (fbit n 31) (fld n 14 7) (fld n 7 7), zeroField n 6 0⟩
  | 5 => some ⟨.sin (fbit n 31) (fld n 14 7) (fld n 7 7), zeroField n 6 0⟩
  | 6 => some ⟨.cos (fbit n 31) (fld n 14 7) (fld n 7 7), zeroField n 6 0⟩
  | 7 => some ⟨.rcpF64 (fbit n 31) (fld n 14 7) (fld n 7 7), zeroField n 6 0⟩
  | 8 => some ⟨.rsqF64 (fbit n 31) (fld n 14 7) (fld n 7 7), zeroField n 6 0⟩
  | 9 => some ⟨.sqrtF64 (fbit n 31) (fld n 14 7) (fld n 7 7), zeroField n 6 0⟩
  | 10 => some ⟨.idivI32 (fbit n 31) (fld n 14 7) (fld n 7 7) (fld n 0 7), []⟩
  | 11 => some ⟨.idivN32 (fbit n 31) (fld n 14 7) (fld n 7 7) (fld n 0 7), []⟩
  | 12 => some ⟨.iremI32 (fbit n 31) (fld n 14 7) (fld n 7 7) (fld n 0 7), []⟩
  | 13 => some ⟨.iremN32 (fbit n 31) (fld n 14 7) (fld n 7 7) (fld n 0 7), []⟩
  | _ => none

/-- Cells of major 0x20. -/
def cell20 (n : Nat) : Option Cell :=
  some ⟨.cvt (fbit n 31) (fld n 18 7) (fld n 11 7) (fld n 7 4) (fld n 3 4) (fld n 0 3), []⟩

/-- Cells of major 0x21. -/
def cell21 (n : Nat) : Option Cell :=
  some ⟨.cvtd (fbit n 31) (fld n 18 7) (fld n 11 7) (fld n 7 4) (fld n 3 4) (fld n 0 3), []⟩

/-- Cells of major 0x22. -/
def cell22 (n : Nat) : Option Cell :=
  match bits n 24 21 with
  | 0 => some ⟨.pkbxBx2 (fbit n 31) (fld n 14 7) (fld n 7 7), zeroField n 6 0⟩
  | 1 => some ⟨.pkbxBx4 (fbit n 31) (fld n 14 7) (fld n 7 7), zeroField n 6 0⟩
  | 2 => some ⟨.pkbxBx7 (fbit n 31) (fld n 14 7) (fld n 7 7), zeroField n 6 0⟩
  | 3 => some ⟨.upbxBx2 (fbit n 31) (fld n 14 7) (fld n 7 7), zeroField n 6 0⟩
  | 4 => some ⟨.upbxBx4 (fbit n 31) (fld n 14 7) (fld n 7 7), zeroField n 6 0⟩
  | 5 => some ⟨.upbxBx7 (fbit n 31) (fld n 14 7) (fld n 7 7), zeroField n 6 0⟩
  | 6 => some ⟨.pkmxMxi8 (fbit n 31) (fld n 14 7) (fld n 7 7), zeroField n 6 0⟩
  | 7 => some ⟨.pkmxMxf8e4 (fbit n 31) (fld n 14 7) (fld n 7 7), zeroField n 6 0⟩
  | 8 => some ⟨.pkmxMxf8e5 (fbit n 31) (fld n 14 7) (fld n 7 7), zeroField n 6 0⟩
  | 9 => some ⟨.upmxMxi8 (fbit n 31) (fld n 14 7) (fld n 7 7), zeroField n 6 0⟩
  | 10 => some ⟨.upmxMxf8e4 (fbit n 31) (fld n 14 7) (fld n 7 7), zeroField n 6 0⟩
  | 11 => some ⟨.upmxMxf8e5 (fbit n 31) (fld n 14 7) (fld n 7 7), zeroField n 6 0⟩
  | _ => none

/-- Cells of major 0x23. -/
def cell23 (n : Nat) : Option Cell :=
  if bits n 24 21 = 0 then some ⟨.rngk (fbit n 31) (fld n 14 7) (fld n 7 7) (fld n 0 7), []⟩ else none

/-- Cells of major 0x24. -/
def cell24 (n : Nat) : Option Cell :=
  match bits n 24 21 with
  | 0 => some ⟨.shflIdx (fbit n 31) (fld n 14 7) (fld n 7 7) (fld n 0 7), []⟩
  | 1 => some ⟨.shflUp (fbit n 31) (fld n 14 7) (fld n 7 7) (fld n 0 7), []⟩
  | 2 => some ⟨.shflDown (fbit n 31) (fld n 14 7) (fld n 7 7) (fld n 0 7), []⟩
  | 3 => some ⟨.shflXor (fbit n 31) (fld n 14 7) (fld n 7 7) (fld n 0 7), []⟩
  | 4 => some ⟨.voteAll (fbit n 31) (fld n 14 7) (fld n 7 7) (fld n 0 7), []⟩
  | 5 => some ⟨.voteAny (fbit n 31) (fld n 14 7) (fld n 7 7) (fld n 0 7), []⟩
  | 6 => some ⟨.voteEq (fbit n 31) (fld n 14 7) (fld n 7 7) (fld n 0 7), []⟩
  | 7 => some ⟨.ballot (fbit n 31) (fld n 14 7) (fld n 7 7) (fld n 0 7), []⟩
  | 8 => some ⟨.wredAddI32 (fbit n 31) (fld n 14 7) (fld n 7 7) (fld n 0 7), []⟩
  | 9 => some ⟨.wredMinI32 (fbit n 31) (fld n 14 7) (fld n 7 7) (fld n 0 7), []⟩
  | 10 => some ⟨.wredMaxI32 (fbit n 31) (fld n 14 7) (fld n 7 7) (fld n 0 7), []⟩
  | 11 => some ⟨.wredAddF32 (fbit n 31) (fld n 14 7) (fld n 7 7) (fld n 0 7), []⟩
  | 12 => some ⟨.wredAnd (fbit n 31) (fld n 14 7) (fld n 7 7) (fld n 0 7), []⟩
  | 13 => some ⟨.wredOr (fbit n 31) (fld n 14 7) (fld n 7 7) (fld n 0 7), []⟩
  | 14 => some ⟨.wredXor (fbit n 31) (fld n 14 7) (fld n 7 7) (fld n 0 7), []⟩
  | _ => none

/-- Cells of major 0x28. -/
def cell28 (n : Nat) : Option Cell :=
  some ⟨.ld (fbit n 31) (fld n 18 7) (fld n 11 7) (fld n 8 3) (fld n 6 2) (fld n 0 6), []⟩

/-- Cells of major 0x29. -/
def cell29 (n : Nat) : Option Cell :=
  some ⟨.lds (fbit n 31) (fld n 18 7) (fld n 11 7) (fld n 8 1) (fld n 6 2) (fld n 0 6), smallField n 10 9 0x700⟩

/-- Cells of major 0x2a. -/
def cell2a (n : Nat) : Option Cell :=
  some ⟨.st (fbit n 31) (fld n 18 7) (fld n 11 7) (fld n 8 3) (fld n 6 2) (fld n 0 6), []⟩

/-- Cells of major 0x2b. -/
def cell2b (n : Nat) : Option Cell :=
  match bits n 24 21 with
  | 0 => some ⟨.pref (fld n 7 7), zeroField n 31 31 ++ zeroField n 20 14 ++ zeroField n 6 0⟩
  | 1 => some ⟨.cinvCore (fld n 7 7), zeroField n 31 31 ++ zeroField n 20 14 ++ zeroField n 6 0⟩
  | 2 => some ⟨.cinvClu (fld n 7 7), zeroField n 31 31 ++ zeroField n 20 14 ++ zeroField n 6 0⟩
  | 3 => some ⟨.cinvDie (fld n 7 7), zeroField n 31 31 ++ zeroField n 20 14 ++ zeroField n 6 0⟩
  | 4 => some ⟨.cinvDev (fld n 7 7), zeroField n 31 31 ++ zeroField n 20 14 ++ zeroField n 6 0⟩
  | 5 => some ⟨.cinvSys (fld n 7 7), zeroField n 31 31 ++ zeroField n 20 14 ++ zeroField n 6 0⟩
  | _ => none

/-- Cells of major 0x2c. -/
def cell2c (n : Nat) : Option Cell :=
  some ⟨.atom32 (fld n 18 7) (fld n 11 7) (fld n 8 3) (fld n 6 2) (fld n 2 4) (fld n 0 2), zeroField n 31 31⟩

/-- Cells of major 0x2d. -/
def cell2d (n : Nat) : Option Cell :=
  some ⟨.atom64 (fld n 18 7) (fld n 11 7) (fld n 8 3) (fld n 6 2) (fld n 2 4) (fld n 0 2), zeroField n 31 31⟩

/-- Cells of major 0x2e. -/
def cell2e (n : Nat) : Option Cell :=
  some ⟨.red32 (fld n 18 7) (fld n 11 7) (fld n 8 3) (fld n 6 2) (fld n 2 4) (fld n 0 2), zeroField n 31 31⟩

/-- Cells of major 0x2f. -/
def cell2f (n : Nat) : Option Cell :=
  some ⟨.red64 (fld n 18 7) (fld n 11 7) (fld n 8 3) (fld n 6 2) (fld n 2 4) (fld n 0 2), zeroField n 31 31⟩

/-- Cells of major 0x30. -/
def cell30 (n : Nat) : Option Cell :=
  match bits n 24 21 with
  | 0 => some ⟨.bredF32 (fld n 7 7) (fld n 0 7), zeroField n 31 31 ++ zeroField n 20 14⟩
  | 1 => some ⟨.bredF64 (fld n 7 7) (fld n 0 7), zeroField n 31 31 ++ zeroField n 20 14⟩
  | 2 => some ⟨.binfin (fld n 14 7) (fld n 7 7), zeroField n 31 31 ++ zeroField n 6 0⟩
  | _ => none

/-- Cells of major 0x31. -/
def cell31 (n : Nat) : Option Cell :=
  match bits n 24 21 with
  | 0 => some ⟨.appendB32 (fld n 14 7) (fld n 7 7) (fld n 0 7), zeroField n 31 31⟩
  | 1 => some ⟨.appendB64 (fld n 14 7) (fld n 7 7) (fld n 0 7), zeroField n 31 31⟩
  | 2 => some ⟨.appendB128 (fld n 14 7) (fld n 7 7) (fld n 0 7), zeroField n 31 31⟩
  | 3 => some ⟨.appendB256 (fld n 14 7) (fld n 7 7) (fld n 0 7), zeroField n 31 31⟩
  | 8 => some ⟨.sealPage (fld n 7 7), zeroField n 31 31 ++ zeroField n 20 14 ++ zeroField n 6 0⟩
  | _ => none

/-- Cells of major 0x32. -/
def cell32 (n : Nat) : Option Cell :=
  match bits n 24 21 with
  | 0 => some ⟨.waita (fld n 14 7) (fld n 7 7) (fld n 0 7), zeroField n 31 31⟩
  | 1 => some ⟨.wake (fld n 14 7) (fld n 7 7) (fld n 0 7), zeroField n 31 31⟩
  | 2 => some ⟨.twany (fld n 14 7) (fld n 7 7), zeroField n 31 31 ++ zeroField n 6 0⟩
  | 3 => some ⟨.twall (fld n 7 7), zeroField n 31 31 ++ zeroField n 20 14 ++ zeroField n 6 0⟩
  | 4 => some ⟨.tffr (fld n 14 7) (fld n 7 7), zeroField n 31 31 ++ zeroField n 6 0⟩
  | 8 => some ⟨.fenceAcq (fld n 7 7), zeroField n 31 31 ++ zeroField n 20 14 ++ zeroField n 6 0⟩
  | 9 => some ⟨.fenceRel (fld n 7 7), zeroField n 31 31 ++ zeroField n 20 14 ++ zeroField n 6 0⟩
  | 10 => some ⟨.fenceAr (fld n 7 7), zeroField n 31 31 ++ zeroField n 20 14 ++ zeroField n 6 0⟩
  | _ => none

/-- Cells of major 0x33. -/
def cell33 (n : Nat) : Option Cell :=
  match bits n 24 21 with
  | 0 => some ⟨.phreg (fld n 14 7) (fld n 7 7) (fld n 0 7), zeroField n 31 31⟩
  | 1 => some ⟨.phdrop (fld n 7 7), zeroField n 31 31 ++ zeroField n 20 14 ++ zeroField n 6 0⟩
  | 2 => some ⟨.phsig (fld n 7 7), zeroField n 31 31 ++ zeroField n 20 14 ++ zeroField n 6 0⟩
  | 3 => some ⟨.phwt (fld n 14 7) (fld n 7 7), zeroField n 31 31 ++ zeroField n 6 0⟩
  | 4 => some ⟨.pharv (fld n 14 7) (fld n 7 7), zeroField n 31 31 ++ zeroField n 6 0⟩
  | 8 => some ⟨.phregDev (fld n 14 7) (fld n 7 7) (fld n 0 7), zeroField n 31 31⟩
  | 9 => some ⟨.phdropDev (fld n 7 7), zeroField n 31 31 ++ zeroField n 20 14 ++ zeroField n 6 0⟩
  | 10 => some ⟨.phsigDev (fld n 7 7), zeroField n 31 31 ++ zeroField n 20 14 ++ zeroField n 6 0⟩
  | 11 => some ⟨.phwtDev (fld n 14 7) (fld n 7 7), zeroField n 31 31 ++ zeroField n 6 0⟩
  | 12 => some ⟨.pharvDev (fld n 14 7) (fld n 7 7), zeroField n 31 31 ++ zeroField n 6 0⟩
  | _ => none

/-- Cells of major 0x34. -/
def cell34 (n : Nat) : Option Cell :=
  some ⟨.waitc (fld n 13 5) (fld n 8 5) (fld n 4 4) (fld n 0 4), zeroField n 31 31 ++ zeroField n 24 18⟩

/-- Cells of major 0x35. -/
def cell35 (n : Nat) : Option Cell :=
  match bits n 24 21 with
  | 0 => some ⟨.wopen (fld n 14 7) (fld n 7 7) (fld n 0 7), zeroField n 31 31⟩
  | 1 => some ⟨.wshut (fld n 7 7), zeroField n 31 31 ++ zeroField n 20 14 ++ zeroField n 6 0⟩
  | 2 => some ⟨.spmap (fld n 14 7) (fld n 7 7) (fld n 0 7), zeroField n 31 31⟩
  | 3 => some ⟨.spunmap (fld n 7 7), zeroField n 31 31 ++ zeroField n 20 14 ++ zeroField n 6 0⟩
  | _ => none

/-- Cells of major 0x36. -/
def cell36 (n : Nat) : Option Cell :=
  match bits n 24 21 with
  | 0 => some ⟨.tres (fld n 14 6) (fld n 7 7) (fbit n 0), zeroField n 31 31 ++ zeroField n 6 1 ++ regD n⟩
  | 1 => some ⟨.trel (fld n 7 7), zeroField n 31 31 ++ zeroField n 20 14 ++ zeroField n 6 1 ++ zeroField n 0 0⟩
  | 2 => some ⟨.mxop (fld n 7 7) (fld n 1 6) (fbit n 0), zeroField n 31 31 ++ fixedD n 80⟩
  | 3 => some ⟨.mxswap, zeroField n 31 31 ++ zeroField n 13 7 ++ zeroField n 6 1 ++ zeroField n 0 0 ++ fixedD n 80⟩
  | 4 => some ⟨.bload (fld n 14 7) (fld n 7 7) (fld n 1 6), zeroField n 31 31 ++ zeroField n 0 0⟩
  | 5 => some ⟨.copy (fld n 14 7) (fld n 7 7) (fld n 1 6), zeroField n 31 31 ++ zeroField n 0 0⟩
  | 6 => some ⟨.gath (fld n 14 7) (fld n 7 7) (fld n 1 6), zeroField n 31 31 ++ zeroField n 0 0⟩
  | 7 => some ⟨.scat (fld n 14 7) (fld n 7 7) (fld n 1 6), zeroField n 31 31 ++ zeroField n 0 0⟩
  | 8 => some ⟨.trace (fld n 7 7) (fld n 1 6) (fbit n 0), zeroField n 31 31 ++ fixedD n 86⟩
  | 9 =>
    match bits n 6 1 with
    | 0 => some ⟨.tdecCont (fld n 7 7), zeroField n 31 31 ++ zeroField n 20 14 ++ zeroField n 0 0⟩
    | 1 => some ⟨.tdecAcc (fld n 7 7), zeroField n 31 31 ++ zeroField n 20 14 ++ zeroField n 0 0⟩
    | 2 => some ⟨.tdecTerm (fld n 7 7), zeroField n 31 31 ++ zeroField n 20 14 ++ zeroField n 0 0⟩
    | _ => none
  | 10 => some ⟨.march (fld n 7 7) (fld n 1 6), zeroField n 31 31 ++ zeroField n 0 0 ++ fixedD n 88⟩
  | 11 => some ⟨.emit (fld n 7 7) (fbit n 0), zeroField n 31 31 ++ zeroField n 6 1 ++ fixedD n 90⟩
  | _ => none

/-- Cells of major 0x37. -/
def cell37 (n : Nat) : Option Cell :=
  match bits n 24 21 with
  | 0 => some ⟨.launch (fld n 14 6) (fld n 7 7), zeroField n 31 31 ++ zeroField n 6 1 ++ zeroField n 0 0 ++ regD n⟩
  | 1 => some ⟨.gwait (fld n 7 7), zeroField n 31 31 ++ zeroField n 20 14 ++ zeroField n 6 1 ++ zeroField n 0 0⟩
  | 2 => some ⟨.qsig (fld n 7 7), zeroField n 31 31 ++ zeroField n 20 14 ++ zeroField n 6 1 ++ zeroField n 0 0⟩
  | _ => none

/-- Cells of major 0x38. -/
def cell38 (n : Nat) : Option Cell :=
  some ⟨.br (fbit n 31) (fld n 21 4) (fld n 14 7) (fld n 0 14), []⟩

/-- Cells of major 0x39. -/
def cell39 (n : Nat) : Option Cell :=
  some ⟨.jmp (fld n 0 21), zeroField n 31 31 ++ zeroField n 24 21⟩

/-- Cells of major 0x3a. -/
def cell3a (n : Nat) : Option Cell :=
  some ⟨.call (fld n 21 4) (fld n 0 21), zeroField n 31 31⟩

/-- Cells of major 0x3b. -/
def cell3b (n : Nat) : Option Cell :=
  match bits n 24 21 with
  | 0 => some ⟨.brx (fbit n 31) (fld n 7 7), zeroField n 20 14 ++ zeroField n 6 0⟩
  | 1 => some ⟨.callx (fbit n 31) (fld n 7 7) (fld n 0 4), zeroField n 20 14 ++ zeroField n 6 4⟩
  | 2 => some ⟨.ret, zeroField n 31 31 ++ zeroField n 20 14 ++ zeroField n 13 7 ++ zeroField n 6 0⟩
  | 3 => some ⟨.wbase (fld n 0 7), zeroField n 31 31 ++ zeroField n 20 14 ++ zeroField n 13 7⟩
  | 4 => some ⟨.yield, zeroField n 31 31 ++ zeroField n 20 14 ++ zeroField n 13 7 ++ zeroField n 6 0⟩
  | 5 => some ⟨.exit, zeroField n 31 31 ++ zeroField n 20 14 ++ zeroField n 13 7 ++ zeroField n 6 0⟩
  | 6 => some ⟨.nop, zeroField n 31 31 ++ zeroField n 20 14 ++ zeroField n 13 7 ++ zeroField n 6 0⟩
  | 7 => some ⟨.trap (fld n 0 7), zeroField n 31 31 ++ zeroField n 20 14 ++ zeroField n 13 7⟩
  | 8 => some ⟨.eret, zeroField n 31 31 ++ zeroField n 20 14 ++ zeroField n 13 7 ++ zeroField n 6 0⟩
  | _ => none

/-- Cells of major 0x3c. -/
def cell3c (n : Nat) : Option Cell :=
  some ⟨.mfs (fbit n 31) (fld n 18 7) (fld n 0 11), zeroField n 17 11⟩

/-- Cells of major 0x3d. -/
def cell3d (n : Nat) : Option Cell :=
  some ⟨.mts (fld n 11 7) (fld n 0 11), zeroField n 31 31 ++ zeroField n 24 18⟩

/-- The cell a word selects, or the CODE 0x0001 or 0x0002 check it fails (R379). -/
def cellOf (n : Nat) : Except WordFault Cell :=
  let cell (c : Option Cell) : Except WordFault Cell :=
    match c with
    | some c => .ok c
    | none =>
      .error ⟨2, if bits n 30 25 = 0x0a then 0x60 else if bits n 30 25 = 0x36 && bits n 24 21 = 9 then 0x7e else 0x1e00000, 0⟩
  match bits n 30 25 with
  | 0x01 => cell (cell01 n)
  | 0x04 => cell (cell04 n)
  | 0x02 => cell (cell02 n)
  | 0x03 => cell (cell03 n)
  | 0x05 => cell (cell05 n)
  | 0x06 => cell (cell06 n)
  | 0x07 => cell (cell07 n)
  | 0x08 => cell (cell08 n)
  | 0x09 => cell (cell09 n)
  | 0x0a => cell (cell0a n)
  | 0x0b => cell (cell0b n)
  | 0x0c => cell (cell0c n)
  | 0x0d => cell (cell0d n)
  | 0x0e => cell (cell0e n)
  | 0x0f => cell (cell0f n)
  | 0x10 => cell (cell10 n)
  | 0x11 => cell (cell11 n)
  | 0x18 => cell (cell18 n)
  | 0x19 => cell (cell19 n)
  | 0x1a => cell (cell1a n)
  | 0x1b => cell (cell1b n)
  | 0x1c => cell (cell1c n)
  | 0x1d => cell (cell1d n)
  | 0x1e => cell (cell1e n)
  | 0x1f => cell (cell1f n)
  | 0x20 => cell (cell20 n)
  | 0x21 => cell (cell21 n)
  | 0x22 => cell (cell22 n)
  | 0x23 => cell (cell23 n)
  | 0x24 => cell (cell24 n)
  | 0x28 => cell (cell28 n)
  | 0x29 => cell (cell29 n)
  | 0x2a => cell (cell2a n)
  | 0x2b => cell (cell2b n)
  | 0x2c => cell (cell2c n)
  | 0x2d => cell (cell2d n)
  | 0x2e => cell (cell2e n)
  | 0x2f => cell (cell2f n)
  | 0x30 => cell (cell30 n)
  | 0x31 => cell (cell31 n)
  | 0x32 => cell (cell32 n)
  | 0x33 => cell (cell33 n)
  | 0x34 => cell (cell34 n)
  | 0x35 => cell (cell35 n)
  | 0x36 => cell (cell36 n)
  | 0x37 => cell (cell37 n)
  | 0x38 => cell (cell38 n)
  | 0x39 => cell (cell39 n)
  | 0x3a => cell (cell3a n)
  | 0x3b => cell (cell3b n)
  | 0x3c => cell (cell3c n)
  | 0x3d => cell (cell3d n)
  | _ => .error ⟨1, 0x7e000000, 0⟩

/-- Checks that fail, in ascending CODE but for 0x0007, which precedes 0x0003 (R377); of one CODE the fields in the order of log 18. A scratchpad code in LAUNCH's D is CODE 0x0007 (R383). -/
def Cell.faults (q : Bool) (c : Cell) : List WordFault :=
  let f := c.instr.faults q
  f.filter (·.code = 7)
    ++ (c.extra.filter fun x => q && x.code = 5 && 64 ≤ x.d1 && x.d1 < 80).map (fun x => ⟨7, x.mask, 0⟩)
    ++ c.extra.filter (·.code = 3) ++ f.filter (·.code = 3)
    ++ c.extra.filter (·.code = 4) ++ f.filter (·.code = 4)
    ++ f.filter (·.code = 5) ++ c.extra.filter (·.code = 5)
    ++ f.filter (·.code = 6) ++ f.filter (·.code = 8)

/-- The word check that a word fails first on a kind of core (R377 step 2); none for a word that executes there. -/
def wordFault (q : Bool) (w : Word) : Option WordFault :=
  match cellOf w.toNat with
  | .error f => some f
  | .ok c => (c.faults q).head?

/-- The instruction of a word: the cell it selects, where every bit the cell fixes is as the cell fixes it. -/
def decode (w : Word) : Option Instr :=
  match cellOf w.toNat with
  | .error _ => none
  | .ok c => if c.extra.isEmpty then some c.instr else none

/-- The first instruction of a byte list and the bytes after it, or why there is none (R151): CODE 0x0000 means too few bytes. -/
def decodeBytes (q : Bool) : List Byte → Except WordFault (Instr × List Byte)
  | b0 :: b1 :: b2 :: b3 :: rest =>
    let w : Word := BitVec.ofNat 32 (leNat [b0, b1, b2, b3])
    match wordFault q w with
    | some f => .error f
    | none => match decode w with
      | some i => .ok (i, rest)
      | none => .error ⟨0, 0, 0⟩
  | _ => .error ⟨0, 0, 0⟩

/-- The decoder asked with a word numbered as the opcode table numbers it: one 32-bit word, low bit first. -/
def decodeTableWord (_nbits w : Nat) : Option Instr := decode (BitVec.ofNat 32 w)

/-- A number with a field's value added at bit `lo`. -/
def withField (acc lo v : Nat) : Nat := acc + v * 2 ^ lo

/-- The word of an instruction (R152, R158 to R163). A step without a word encodes to the all-zero word, which is always illegal (R158). -/
def encode : Instr → Word
  | .add u d a b => BitVec.ofNat 32 (withField (withField (withField (withField 0x02000000 31 u.toNat) 14 d.toNat) 7 a.toNat) 0 b.toNat)
  | .sub u d a b => BitVec.ofNat 32 (withField (withField (withField (withField 0x02200000 31 u.toNat) 14 d.toNat) 7 a.toNat) 0 b.toNat)
  | .minI32 u d a b => BitVec.ofNat 32 (withField (withField (withField (withField 0x02400000 31 u.toNat) 14 d.toNat) 7 a.toNat) 0 b.toNat)
  | .minN32 u d a b => BitVec.ofNat 32 (withField (withField (withField (withField 0x02600000 31 u.toNat) 14 d.toNat) 7 a.toNat) 0 b.toNat)
  | .maxI32 u d a b => BitVec.ofNat 32 (withField (withField (withField (withField 0x02800000 31 u.toNat) 14 d.toNat) 7 a.toNat) 0 b.toNat)
  | .maxN32 u d a b => BitVec.ofNat 32 (withField (withField (withField (withField 0x02a00000 31 u.toNat) 14 d.toNat) 7 a.toNat) 0 b.toNat)
  | .abs u d a => BitVec.ofNat 32 (withField (withField (withField 0x02c00000 31 u.toNat) 14 d.toNat) 7 a.toNat)
  | .neg u d a => BitVec.ofNat 32 (withField (withField (withField 0x02e00000 31 u.toNat) 14 d.toNat) 7 a.toNat)
  | .and u d a b => BitVec.ofNat 32 (withField (withField (withField (withField 0x03000000 31 u.toNat) 14 d.toNat) 7 a.toNat) 0 b.toNat)
  | .or u d a b => BitVec.ofNat 32 (withField (withField (withField (withField 0x03200000 31 u.toNat) 14 d.toNat) 7 a.toNat) 0 b.toNat)
  | .xor u d a b => BitVec.ofNat 32 (withField (withField (withField (withField 0x03400000 31 u.toNat) 14 d.toNat) 7 a.toNat) 0 b.toNat)
  | .andn u d a b => BitVec.ofNat 32 (withField (withField (withField (withField 0x03600000 31 u.toNat) 14 d.toNat) 7 a.toNat) 0 b.toNat)
  | .shl u d a b => BitVec.ofNat 32 (withField (withField (withField (withField 0x03800000 31 u.toNat) 14 d.toNat) 7 a.toNat) 0 b.toNat)
  | .shr u d a b => BitVec.ofNat 32 (withField (withField (withField (withField 0x03a00000 31 u.toNat) 14 d.toNat) 7 a.toNat) 0 b.toNat)
  | .sar u d a b => BitVec.ofNat 32 (withField (withField (withField (withField 0x03c00000 31 u.toNat) 14 d.toNat) 7 a.toNat) 0 b.toNat)
  | .addI64 u d a b => BitVec.ofNat 32 (withField (withField (withField (withField 0x08000000 31 u.toNat) 14 d.toNat) 7 a.toNat) 0 b.toNat)
  | .subI64 u d a b => BitVec.ofNat 32 (withField (withField (withField (withField 0x08200000 31 u.toNat) 14 d.toNat) 7 a.toNat) 0 b.toNat)
  | .minI64 u d a b => BitVec.ofNat 32 (withField (withField (withField (withField 0x08400000 31 u.toNat) 14 d.toNat) 7 a.toNat) 0 b.toNat)
  | .minN64 u d a b => BitVec.ofNat 32 (withField (withField (withField (withField 0x08600000 31 u.toNat) 14 d.toNat) 7 a.toNat) 0 b.toNat)
  | .maxI64 u d a b => BitVec.ofNat 32 (withField (withField (withField (withField 0x08800000 31 u.toNat) 14 d.toNat) 7 a.toNat) 0 b.toNat)
  | .maxN64 u d a b => BitVec.ofNat 32 (withField (withField (withField (withField 0x08a00000 31 u.toNat) 14 d.toNat) 7 a.toNat) 0 b.toNat)
  | .absI64 u d a => BitVec.ofNat 32 (withField (withField (withField 0x08c00000 31 u.toNat) 14 d.toNat) 7 a.toNat)
  | .negI64 u d a => BitVec.ofNat 32 (withField (withField (withField 0x08e00000 31 u.toNat) 14 d.toNat) 7 a.toNat)
  | .andI64 u d a b => BitVec.ofNat 32 (withField (withField (withField (withField 0x09000000 31 u.toNat) 14 d.toNat) 7 a.toNat) 0 b.toNat)
  | .orI64 u d a b => BitVec.ofNat 32 (withField (withField (withField (withField 0x09200000 31 u.toNat) 14 d.toNat) 7 a.toNat) 0 b.toNat)
  | .xorI64 u d a b => BitVec.ofNat 32 (withField (withField (withField (withField 0x09400000 31 u.toNat) 14 d.toNat) 7 a.toNat) 0 b.toNat)
  | .andnI64 u d a b => BitVec.ofNat 32 (withField (withField (withField (withField 0x09600000 31 u.toNat) 14 d.toNat) 7 a.toNat) 0 b.toNat)
  | .shlI64 u d a b => BitVec.ofNat 32 (withField (withField (withField (withField 0x09800000 31 u.toNat) 14 d.toNat) 7 a.toNat) 0 b.toNat)
  | .shrI64 u d a b => BitVec.ofNat 32 (withField (withField (withField (withField 0x09a00000 31 u.toNat) 14 d.toNat) 7 a.toNat) 0 b.toNat)
  | .sarI64 u d a b => BitVec.ofNat 32 (withField (withField (withField (withField 0x09c00000 31 u.toNat) 14 d.toNat) 7 a.toNat) 0 b.toNat)
  | .mulI64 u d a b => BitVec.ofNat 32 (withField (withField (withField (withField 0x09e00000 31 u.toNat) 14 d.toNat) 7 a.toNat) 0 b.toNat)
  | .fshl u d a b => BitVec.ofNat 32 (withField (withField (withField (withField 0x04000000 31 u.toNat) 14 d.toNat) 7 a.toNat) 0 b.toNat)
  | .fshr u d a b => BitVec.ofNat 32 (withField (withField (withField (withField 0x04200000 31 u.toNat) 14 d.toNat) 7 a.toNat) 0 b.toNat)
  | .popc u d a => BitVec.ofNat 32 (withField (withField (withField 0x04400000 31 u.toNat) 14 d.toNat) 7 a.toNat)
  | .clz u d a => BitVec.ofNat 32 (withField (withField (withField 0x04600000 31 u.toNat) 14 d.toNat) 7 a.toNat)
  | .ctz u d a => BitVec.ofNat 32 (withField (withField (withField 0x04800000 31 u.toNat) 14 d.toNat) 7 a.toNat)
  | .brev u d a => BitVec.ofNat 32 (withField (withField (withField 0x04a00000 31 u.toNat) 14 d.toNat) 7 a.toNat)
  | .prmb u d a b => BitVec.ofNat 32 (withField (withField (withField (withField 0x04c00000 31 u.toNat) 14 d.toNat) 7 a.toNat) 0 b.toNat)
  | .mul u d a b => BitVec.ofNat 32 (withField (withField (withField (withField 0x04e00000 31 u.toNat) 14 d.toNat) 7 a.toNat) 0 b.toNat)
  | .mulhI32 u d a b => BitVec.ofNat 32 (withField (withField (withField (withField 0x05000000 31 u.toNat) 14 d.toNat) 7 a.toNat) 0 b.toNat)
  | .mulhN32 u d a b => BitVec.ofNat 32 (withField (withField (withField (withField 0x05200000 31 u.toNat) 14 d.toNat) 7 a.toNat) 0 b.toNat)
  | .mad u d a b => BitVec.ofNat 32 (withField (withField (withField (withField 0x05400000 31 u.toNat) 14 d.toNat) 7 a.toNat) 0 b.toNat)
  | .sel u d a b => BitVec.ofNat 32 (withField (withField (withField (withField 0x05600000 31 u.toNat) 14 d.toNat) 7 a.toNat) 0 b.toNat)
  | .seteq u d a b => BitVec.ofNat 32 (withField (withField (withField (withField 0x06000000 31 u.toNat) 14 d.toNat) 7 a.toNat) 0 b.toNat)
  | .setne u d a b => BitVec.ofNat 32 (withField (withField (withField (withField 0x06200000 31 u.toNat) 14 d.toNat) 7 a.toNat) 0 b.toNat)
  | .setltI u d a b => BitVec.ofNat 32 (withField (withField (withField (withField 0x06400000 31 u.toNat) 14 d.toNat) 7 a.toNat) 0 b.toNat)
  | .setleI u d a b => BitVec.ofNat 32 (withField (withField (withField (withField 0x06600000 31 u.toNat) 14 d.toNat) 7 a.toNat) 0 b.toNat)
  | .setgtI u d a b => BitVec.ofNat 32 (withField (withField (withField (withField 0x06800000 31 u.toNat) 14 d.toNat) 7 a.toNat) 0 b.toNat)
  | .setgeI u d a b => BitVec.ofNat 32 (withField (withField (withField (withField 0x06a00000 31 u.toNat) 14 d.toNat) 7 a.toNat) 0 b.toNat)
  | .setltN u d a b => BitVec.ofNat 32 (withField (withField (withField (withField 0x06c00000 31 u.toNat) 14 d.toNat) 7 a.toNat) 0 b.toNat)
  | .setleN u d a b => BitVec.ofNat 32 (withField (withField (withField (withField 0x06e00000 31 u.toNat) 14 d.toNat) 7 a.toNat) 0 b.toNat)
  | .setgtN u d a b => BitVec.ofNat 32 (withField (withField (withField (withField 0x07000000 31 u.toNat) 14 d.toNat) 7 a.toNat) 0 b.toNat)
  | .setgeN u d a b => BitVec.ofNat 32 (withField (withField (withField (withField 0x07200000 31 u.toNat) 14 d.toNat) 7 a.toNat) 0 b.toNat)
  | .seteq64 u d a b => BitVec.ofNat 32 (withField (withField (withField (withField 0x0a000000 31 u.toNat) 14 d.toNat) 7 a.toNat) 0 b.toNat)
  | .setne64 u d a b => BitVec.ofNat 32 (withField (withField (withField (withField 0x0a200000 31 u.toNat) 14 d.toNat) 7 a.toNat) 0 b.toNat)
  | .setltI64 u d a b => BitVec.ofNat 32 (withField (withField (withField (withField 0x0a400000 31 u.toNat) 14 d.toNat) 7 a.toNat) 0 b.toNat)
  | .setleI64 u d a b => BitVec.ofNat 32 (withField (withField (withField (withField 0x0a600000 31 u.toNat) 14 d.toNat) 7 a.toNat) 0 b.toNat)
  | .setgtI64 u d a b => BitVec.ofNat 32 (withField (withField (withField (withField 0x0a800000 31 u.toNat) 14 d.toNat) 7 a.toNat) 0 b.toNat)
  | .setgeI64 u d a b => BitVec.ofNat 32 (withField (withField (withField (withField 0x0aa00000 31 u.toNat) 14 d.toNat) 7 a.toNat) 0 b.toNat)
  | .setltN64 u d a b => BitVec.ofNat 32 (withField (withField (withField (withField 0x0ac00000 31 u.toNat) 14 d.toNat) 7 a.toNat) 0 b.toNat)
  | .setleN64 u d a b => BitVec.ofNat 32 (withField (withField (withField (withField 0x0ae00000 31 u.toNat) 14 d.toNat) 7 a.toNat) 0 b.toNat)
  | .setgtN64 u d a b => BitVec.ofNat 32 (withField (withField (withField (withField 0x0b000000 31 u.toNat) 14 d.toNat) 7 a.toNat) 0 b.toNat)
  | .setgeN64 u d a b => BitVec.ofNat 32 (withField (withField (withField (withField 0x0b200000 31 u.toNat) 14 d.toNat) 7 a.toNat) 0 b.toNat)
  | .addi u d a i => BitVec.ofNat 32 (withField (withField (withField (withField 0x0c000000 31 u.toNat) 18 d.toNat) 11 a.toNat) 0 i.toNat)
  | .andi u d a i => BitVec.ofNat 32 (withField (withField (withField (withField 0x0e000000 31 u.toNat) 18 d.toNat) 11 a.toNat) 0 i.toNat)
  | .ori u d a i => BitVec.ofNat 32 (withField (withField (withField (withField 0x10000000 31 u.toNat) 18 d.toNat) 11 a.toNat) 0 i.toNat)
  | .xori u d a i => BitVec.ofNat 32 (withField (withField (withField (withField 0x12000000 31 u.toNat) 18 d.toNat) 11 a.toNat) 0 i.toNat)
  | .shli u d a n => BitVec.ofNat 32 (withField (withField (withField (withField 0x14000000 31 u.toNat) 18 d.toNat) 11 a.toNat) 0 n.toNat)
  | .shri u d a n => BitVec.ofNat 32 (withField (withField (withField (withField 0x14000020 31 u.toNat) 18 d.toNat) 11 a.toNat) 0 n.toNat)
  | .sari u d a n => BitVec.ofNat 32 (withField (withField (withField (withField 0x14000040 31 u.toNat) 18 d.toNat) 11 a.toNat) 0 n.toNat)
  | .bfx u d a s w p => BitVec.ofNat 32 (withField (withField (withField (withField (withField (withField 0x16000000 31 u.toNat) 18 d.toNat) 11 a.toNat) 10 s.toNat) 5 w.toNat) 0 p.toNat)
  | .bfi u d a w p => BitVec.ofNat 32 (withField (withField (withField (withField (withField 0x18000000 31 u.toNat) 18 d.toNat) 11 a.toNat) 5 w.toNat) 0 p.toNat)
  | .limm u d i => BitVec.ofNat 32 (withField (withField (withField 0x1a000000 31 u.toNat) 18 d.toNat) 0 i.toNat)
  | .lhi u d i => BitVec.ofNat 32 (withField (withField (withField 0x1c000000 31 u.toNat) 18 d.toNat) 0 i.toNat)
  | .lea u s d a b => BitVec.ofNat 32 (withField (withField (withField (withField (withField 0x1e000000 31 u.toNat) 21 s.toNat) 14 d.toNat) 7 a.toNat) 0 b.toNat)
  | .leai u d a i => BitVec.ofNat 32 (withField (withField (withField (withField 0x20000000 31 u.toNat) 18 d.toNat) 11 a.toNat) 0 i.toNat)
  | .mova k a i => BitVec.ofNat 32 (withField (withField (withField 0x22000000 18 k.toNat) 11 a.toNat) 0 i.toNat)
  | .fadd u d a b => BitVec.ofNat 32 (withField (withField (withField (withField 0x30000000 31 u.toNat) 14 d.toNat) 7 a.toNat) 0 b.toNat)
  | .fsub u d a b => BitVec.ofNat 32 (withField (withField (withField (withField 0x30200000 31 u.toNat) 14 d.toNat) 7 a.toNat) 0 b.toNat)
  | .fmul u d a b => BitVec.ofNat 32 (withField (withField (withField (withField 0x30400000 31 u.toNat) 14 d.toNat) 7 a.toNat) 0 b.toNat)
  | .fma u d a b => BitVec.ofNat 32 (withField (withField (withField (withField 0x30600000 31 u.toNat) 14 d.toNat) 7 a.toNat) 0 b.toNat)
  | .fmin u d a b => BitVec.ofNat 32 (withField (withField (withField (withField 0x30800000 31 u.toNat) 14 d.toNat) 7 a.toNat) 0 b.toNat)
  | .fmax u d a b => BitVec.ofNat 32 (withField (withField (withField (withField 0x30a00000 31 u.toNat) 14 d.toNat) 7 a.toNat) 0 b.toNat)
  | .faddRm u m d a b => BitVec.ofNat 32 (withField (withField (withField (withField (withField 0x32000000 31 u.toNat) 21 m.toNat) 14 d.toNat) 7 a.toNat) 0 b.toNat)
  | .fsubRm u m d a b => BitVec.ofNat 32 (withField (withField (withField (withField (withField 0x32800000 31 u.toNat) 21 m.toNat) 14 d.toNat) 7 a.toNat) 0 b.toNat)
  | .fmulRm u m d a b => BitVec.ofNat 32 (withField (withField (withField (withField (withField 0x33000000 31 u.toNat) 21 m.toNat) 14 d.toNat) 7 a.toNat) 0 b.toNat)
  | .fmaRm u m d a b => BitVec.ofNat 32 (withField (withField (withField (withField (withField 0x33800000 31 u.toNat) 21 m.toNat) 14 d.toNat) 7 a.toNat) 0 b.toNat)
  | .fseteq u d a b => BitVec.ofNat 32 (withField (withField (withField (withField 0x34000000 31 u.toNat) 14 d.toNat) 7 a.toNat) 0 b.toNat)
  | .fsetne u d a b => BitVec.ofNat 32 (withField (withField (withField (withField 0x34200000 31 u.toNat) 14 d.toNat) 7 a.toNat) 0 b.toNat)
  | .fsetlt u d a b => BitVec.ofNat 32 (withField (withField (withField (withField 0x34400000 31 u.toNat) 14 d.toNat) 7 a.toNat) 0 b.toNat)
  | .fsetle u d a b => BitVec.ofNat 32 (withField (withField (withField (withField 0x34600000 31 u.toNat) 14 d.toNat) 7 a.toNat) 0 b.toNat)
  | .fsetgt u d a b => BitVec.ofNat 32 (withField (withField (withField (withField 0x34800000 31 u.toNat) 14 d.toNat) 7 a.toNat) 0 b.toNat)
  | .fsetge u d a b => BitVec.ofNat 32 (withField (withField (withField (withField 0x34a00000 31 u.toNat) 14 d.toNat) 7 a.toNat) 0 b.toNat)
  | .fsetun u d a b => BitVec.ofNat 32 (withField (withField (withField (withField 0x34c00000 31 u.toNat) 14 d.toNat) 7 a.toNat) 0 b.toNat)
  | .fsetor u d a b => BitVec.ofNat 32 (withField (withField (withField (withField 0x34e00000 31 u.toNat) 14 d.toNat) 7 a.toNat) 0 b.toNat)
  | .hadd2F16 u d a b => BitVec.ofNat 32 (withField (withField (withField (withField 0x36000000 31 u.toNat) 14 d.toNat) 7 a.toNat) 0 b.toNat)
  | .hmul2F16 u d a b => BitVec.ofNat 32 (withField (withField (withField (withField 0x36200000 31 u.toNat) 14 d.toNat) 7 a.toNat) 0 b.toNat)
  | .hfma2F16 u d a b => BitVec.ofNat 32 (withField (withField (withField (withField 0x36400000 31 u.toNat) 14 d.toNat) 7 a.toNat) 0 b.toNat)
  | .hadd2Bf16 u d a b => BitVec.ofNat 32 (withField (withField (withField (withField 0x36800000 31 u.toNat) 14 d.toNat) 7 a.toNat) 0 b.toNat)
  | .hmul2Bf16 u d a b => BitVec.ofNat 32 (withField (withField (withField (withField 0x36a00000 31 u.toNat) 14 d.toNat) 7 a.toNat) 0 b.toNat)
  | .hfma2Bf16 u d a b => BitVec.ofNat 32 (withField (withField (withField (withField 0x36c00000 31 u.toNat) 14 d.toNat) 7 a.toNat) 0 b.toNat)
  | .dadd u d a b => BitVec.ofNat 32 (withField (withField (withField (withField 0x38000000 31 u.toNat) 14 d.toNat) 7 a.toNat) 0 b.toNat)
  | .dsub u d a b => BitVec.ofNat 32 (withField (withField (withField (withField 0x38200000 31 u.toNat) 14 d.toNat) 7 a.toNat) 0 b.toNat)
  | .dmul u d a b => BitVec.ofNat 32 (withField (withField (withField (withField 0x38400000 31 u.toNat) 14 d.toNat) 7 a.toNat) 0 b.toNat)
  | .dfma u d a b => BitVec.ofNat 32 (withField (withField (withField (withField 0x38600000 31 u.toNat) 14 d.toNat) 7 a.toNat) 0 b.toNat)
  | .dmin u d a b => BitVec.ofNat 32 (withField (withField (withField (withField 0x38800000 31 u.toNat) 14 d.toNat) 7 a.toNat) 0 b.toNat)
  | .dmax u d a b => BitVec.ofNat 32 (withField (withField (withField (withField 0x38a00000 31 u.toNat) 14 d.toNat) 7 a.toNat) 0 b.toNat)
  | .daddRm u m d a b => BitVec.ofNat 32 (withField (withField (withField (withField (withField 0x3a000000 31 u.toNat) 21 m.toNat) 14 d.toNat) 7 a.toNat) 0 b.toNat)
  | .dsubRm u m d a b => BitVec.ofNat 32 (withField (withField (withField (withField (withField 0x3a800000 31 u.toNat) 21 m.toNat) 14 d.toNat) 7 a.toNat) 0 b.toNat)
  | .dmulRm u m d a b => BitVec.ofNat 32 (withField (withField (withField (withField (withField 0x3b000000 31 u.toNat) 21 m.toNat) 14 d.toNat) 7 a.toNat) 0 b.toNat)
  | .dfmaRm u m d a b => BitVec.ofNat 32 (withField (withField (withField (withField (withField 0x3b800000 31 u.toNat) 21 m.toNat) 14 d.toNat) 7 a.toNat) 0 b.toNat)
  | .dseteq u d a b => BitVec.ofNat 32 (withField (withField (withField (withField 0x3c000000 31 u.toNat) 14 d.toNat) 7 a.toNat) 0 b.toNat)
  | .dsetne u d a b => BitVec.ofNat 32 (withField (withField (withField (withField 0x3c200000 31 u.toNat) 14 d.toNat) 7 a.toNat) 0 b.toNat)
  | .dsetlt u d a b => BitVec.ofNat 32 (withField (withField (withField (withField 0x3c400000 31 u.toNat) 14 d.toNat) 7 a.toNat) 0 b.toNat)
  | .dsetle u d a b => BitVec.ofNat 32 (withField (withField (withField (withField 0x3c600000 31 u.toNat) 14 d.toNat) 7 a.toNat) 0 b.toNat)
  | .dsetgt u d a b => BitVec.ofNat 32 (withField (withField (withField (withField 0x3c800000 31 u.toNat) 14 d.toNat) 7 a.toNat) 0 b.toNat)
  | .dsetge u d a b => BitVec.ofNat 32 (withField (withField (withField (withField 0x3ca00000 31 u.toNat) 14 d.toNat) 7 a.toNat) 0 b.toNat)
  | .dsetun u d a b => BitVec.ofNat 32 (withField (withField (withField (withField 0x3cc00000 31 u.toNat) 14 d.toNat) 7 a.toNat) 0 b.toNat)
  | .dsetor u d a b => BitVec.ofNat 32 (withField (withField (withField (withField 0x3ce00000 31 u.toNat) 14 d.toNat) 7 a.toNat) 0 b.toNat)
  | .rcpF32 u d a => BitVec.ofNat 32 (withField (withField (withField 0x3e000000 31 u.toNat) 14 d.toNat) 7 a.toNat)
  | .rsqF32 u d a => BitVec.ofNat 32 (withField (withField (withField 0x3e200000 31 u.toNat) 14 d.toNat) 7 a.toNat)
  | .sqrtF32 u d a => BitVec.ofNat 32 (withField (withField (withField 0x3e400000 31 u.toNat) 14 d.toNat) 7 a.toNat)
  | .exp2 u d a => BitVec.ofNat 32 (withField (withField (withField 0x3e600000 31 u.toNat) 14 d.toNat) 7 a.toNat)
  | .log2 u d a => BitVec.ofNat 32 (withField (withField (withField 0x3e800000 31 u.toNat) 14 d.toNat) 7 a.toNat)
  | .sin u d a => BitVec.ofNat 32 (withField (withField (withField 0x3ea00000 31 u.toNat) 14 d.toNat) 7 a.toNat)
  | .cos u d a => BitVec.ofNat 32 (withField (withField (withField 0x3ec00000 31 u.toNat) 14 d.toNat) 7 a.toNat)
  | .rcpF64 u d a => BitVec.ofNat 32 (withField (withField (withField 0x3ee00000 31 u.toNat) 14 d.toNat) 7 a.toNat)
  | .rsqF64 u d a => BitVec.ofNat 32 (withField (withField (withField 0x3f000000 31 u.toNat) 14 d.toNat) 7 a.toNat)
  | .sqrtF64 u d a => BitVec.ofNat 32 (withField (withField (withField 0x3f200000 31 u.toNat) 14 d.toNat) 7 a.toNat)
  | .idivI32 u d a b => BitVec.ofNat 32 (withField (withField (withField (withField 0x3f400000 31 u.toNat) 14 d.toNat) 7 a.toNat) 0 b.toNat)
  | .idivN32 u d a b => BitVec.ofNat 32 (withField (withField (withField (withField 0x3f600000 31 u.toNat) 14 d.toNat) 7 a.toNat) 0 b.toNat)
  | .iremI32 u d a b => BitVec.ofNat 32 (withField (withField (withField (withField 0x3f800000 31 u.toNat) 14 d.toNat) 7 a.toNat) 0 b.toNat)
  | .iremN32 u d a b => BitVec.ofNat 32 (withField (withField (withField (withField 0x3fa00000 31 u.toNat) 14 d.toNat) 7 a.toNat) 0 b.toNat)
  | .cvt u d a t s r => BitVec.ofNat 32 (withField (withField (withField (withField (withField (withField 0x40000000 31 u.toNat) 18 d.toNat) 11 a.toNat) 7 t.toNat) 3 s.toNat) 0 r.toNat)
  | .cvtd u d a t s r => BitVec.ofNat 32 (withField (withField (withField (withField (withField (withField 0x42000000 31 u.toNat) 18 d.toNat) 11 a.toNat) 7 t.toNat) 3 s.toNat) 0 r.toNat)
  | .pkbxBx2 u d a => BitVec.ofNat 32 (withField (withField (withField 0x44000000 31 u.toNat) 14 d.toNat) 7 a.toNat)
  | .pkbxBx4 u d a => BitVec.ofNat 32 (withField (withField (withField 0x44200000 31 u.toNat) 14 d.toNat) 7 a.toNat)
  | .pkbxBx7 u d a => BitVec.ofNat 32 (withField (withField (withField 0x44400000 31 u.toNat) 14 d.toNat) 7 a.toNat)
  | .upbxBx2 u d a => BitVec.ofNat 32 (withField (withField (withField 0x44600000 31 u.toNat) 14 d.toNat) 7 a.toNat)
  | .upbxBx4 u d a => BitVec.ofNat 32 (withField (withField (withField 0x44800000 31 u.toNat) 14 d.toNat) 7 a.toNat)
  | .upbxBx7 u d a => BitVec.ofNat 32 (withField (withField (withField 0x44a00000 31 u.toNat) 14 d.toNat) 7 a.toNat)
  | .pkmxMxi8 u d a => BitVec.ofNat 32 (withField (withField (withField 0x44c00000 31 u.toNat) 14 d.toNat) 7 a.toNat)
  | .pkmxMxf8e4 u d a => BitVec.ofNat 32 (withField (withField (withField 0x44e00000 31 u.toNat) 14 d.toNat) 7 a.toNat)
  | .pkmxMxf8e5 u d a => BitVec.ofNat 32 (withField (withField (withField 0x45000000 31 u.toNat) 14 d.toNat) 7 a.toNat)
  | .upmxMxi8 u d a => BitVec.ofNat 32 (withField (withField (withField 0x45200000 31 u.toNat) 14 d.toNat) 7 a.toNat)
  | .upmxMxf8e4 u d a => BitVec.ofNat 32 (withField (withField (withField 0x45400000 31 u.toNat) 14 d.toNat) 7 a.toNat)
  | .upmxMxf8e5 u d a => BitVec.ofNat 32 (withField (withField (withField 0x45600000 31 u.toNat) 14 d.toNat) 7 a.toNat)
  | .rngk u d a b => BitVec.ofNat 32 (withField (withField (withField (withField 0x46000000 31 u.toNat) 14 d.toNat) 7 a.toNat) 0 b.toNat)
  | .shflIdx u d a b => BitVec.ofNat 32 (withField (withField (withField (withField 0x48000000 31 u.toNat) 14 d.toNat) 7 a.toNat) 0 b.toNat)
  | .shflUp u d a b => BitVec.ofNat 32 (withField (withField (withField (withField 0x48200000 31 u.toNat) 14 d.toNat) 7 a.toNat) 0 b.toNat)
  | .shflDown u d a b => BitVec.ofNat 32 (withField (withField (withField (withField 0x48400000 31 u.toNat) 14 d.toNat) 7 a.toNat) 0 b.toNat)
  | .shflXor u d a b => BitVec.ofNat 32 (withField (withField (withField (withField 0x48600000 31 u.toNat) 14 d.toNat) 7 a.toNat) 0 b.toNat)
  | .voteAll u d a b => BitVec.ofNat 32 (withField (withField (withField (withField 0x48800000 31 u.toNat) 14 d.toNat) 7 a.toNat) 0 b.toNat)
  | .voteAny u d a b => BitVec.ofNat 32 (withField (withField (withField (withField 0x48a00000 31 u.toNat) 14 d.toNat) 7 a.toNat) 0 b.toNat)
  | .voteEq u d a b => BitVec.ofNat 32 (withField (withField (withField (withField 0x48c00000 31 u.toNat) 14 d.toNat) 7 a.toNat) 0 b.toNat)
  | .ballot u d a b => BitVec.ofNat 32 (withField (withField (withField (withField 0x48e00000 31 u.toNat) 14 d.toNat) 7 a.toNat) 0 b.toNat)
  | .wredAddI32 u d a b => BitVec.ofNat 32 (withField (withField (withField (withField 0x49000000 31 u.toNat) 14 d.toNat) 7 a.toNat) 0 b.toNat)
  | .wredMinI32 u d a b => BitVec.ofNat 32 (withField (withField (withField (withField 0x49200000 31 u.toNat) 14 d.toNat) 7 a.toNat) 0 b.toNat)
  | .wredMaxI32 u d a b => BitVec.ofNat 32 (withField (withField (withField (withField 0x49400000 31 u.toNat) 14 d.toNat) 7 a.toNat) 0 b.toNat)
  | .wredAddF32 u d a b => BitVec.ofNat 32 (withField (withField (withField (withField 0x49600000 31 u.toNat) 14 d.toNat) 7 a.toNat) 0 b.toNat)
  | .wredAnd u d a b => BitVec.ofNat 32 (withField (withField (withField (withField 0x49800000 31 u.toNat) 14 d.toNat) 7 a.toNat) 0 b.toNat)
  | .wredOr u d a b => BitVec.ofNat 32 (withField (withField (withField (withField 0x49a00000 31 u.toNat) 14 d.toNat) 7 a.toNat) 0 b.toNat)
  | .wredXor u d a b => BitVec.ofNat 32 (withField (withField (withField (withField 0x49c00000 31 u.toNat) 14 d.toNat) 7 a.toNat) 0 b.toNat)
  | .ld u d a w p o => BitVec.ofNat 32 (withField (withField (withField (withField (withField (withField 0x50000000 31 u.toNat) 18 d.toNat) 11 a.toNat) 8 w.toNat) 6 p.toNat) 0 o.toNat)
  | .lds u d a w p o => BitVec.ofNat 32 (withField (withField (withField (withField (withField (withField 0x52000000 31 u.toNat) 18 d.toNat) 11 a.toNat) 8 w.toNat) 6 p.toNat) 0 o.toNat)
  | .st u d a w p o => BitVec.ofNat 32 (withField (withField (withField (withField (withField (withField 0x54000000 31 u.toNat) 18 d.toNat) 11 a.toNat) 8 w.toNat) 6 p.toNat) 0 o.toNat)
  | .pref a => BitVec.ofNat 32 (withField 0x56000000 7 a.toNat)
  | .cinvCore a => BitVec.ofNat 32 (withField 0x56200000 7 a.toNat)
  | .cinvClu a => BitVec.ofNat 32 (withField 0x56400000 7 a.toNat)
  | .cinvDie a => BitVec.ofNat 32 (withField 0x56600000 7 a.toNat)
  | .cinvDev a => BitVec.ofNat 32 (withField 0x56800000 7 a.toNat)
  | .cinvSys a => BitVec.ofNat 32 (withField 0x56a00000 7 a.toNat)
  | .atom32 d a s p o r => BitVec.ofNat 32 (withField (withField (withField (withField (withField (withField 0x58000000 18 d.toNat) 11 a.toNat) 8 s.toNat) 6 p.toNat) 2 o.toNat) 0 r.toNat)
  | .atom64 d a s p o r => BitVec.ofNat 32 (withField (withField (withField (withField (withField (withField 0x5a000000 18 d.toNat) 11 a.toNat) 8 s.toNat) 6 p.toNat) 2 o.toNat) 0 r.toNat)
  | .red32 d a s p o r => BitVec.ofNat 32 (withField (withField (withField (withField (withField (withField 0x5c000000 18 d.toNat) 11 a.toNat) 8 s.toNat) 6 p.toNat) 2 o.toNat) 0 r.toNat)
  | .red64 d a s p o r => BitVec.ofNat 32 (withField (withField (withField (withField (withField (withField 0x5e000000 18 d.toNat) 11 a.toNat) 8 s.toNat) 6 p.toNat) 2 o.toNat) 0 r.toNat)
  | .bredF32 a b => BitVec.ofNat 32 (withField (withField 0x60000000 7 a.toNat) 0 b.toNat)
  | .bredF64 a b => BitVec.ofNat 32 (withField (withField 0x60200000 7 a.toNat) 0 b.toNat)
  | .binfin d a => BitVec.ofNat 32 (withField (withField 0x60400000 14 d.toNat) 7 a.toNat)
  | .appendB32 d a b => BitVec.ofNat 32 (withField (withField (withField 0x62000000 14 d.toNat) 7 a.toNat) 0 b.toNat)
  | .appendB64 d a b => BitVec.ofNat 32 (withField (withField (withField 0x62200000 14 d.toNat) 7 a.toNat) 0 b.toNat)
  | .appendB128 d a b => BitVec.ofNat 32 (withField (withField (withField 0x62400000 14 d.toNat) 7 a.toNat) 0 b.toNat)
  | .appendB256 d a b => BitVec.ofNat 32 (withField (withField (withField 0x62600000 14 d.toNat) 7 a.toNat) 0 b.toNat)
  | .sealPage a => BitVec.ofNat 32 (withField 0x63000000 7 a.toNat)
  | .waita d a b => BitVec.ofNat 32 (withField (withField (withField 0x64000000 14 d.toNat) 7 a.toNat) 0 b.toNat)
  | .wake d a b => BitVec.ofNat 32 (withField (withField (withField 0x64200000 14 d.toNat) 7 a.toNat) 0 b.toNat)
  | .twany d a => BitVec.ofNat 32 (withField (withField 0x64400000 14 d.toNat) 7 a.toNat)
  | .twall a => BitVec.ofNat 32 (withField 0x64600000 7 a.toNat)
  | .tffr d a => BitVec.ofNat 32 (withField (withField 0x64800000 14 d.toNat) 7 a.toNat)
  | .fenceAcq s => BitVec.ofNat 32 (withField 0x65000000 7 s.toNat)
  | .fenceRel s => BitVec.ofNat 32 (withField 0x65200000 7 s.toNat)
  | .fenceAr s => BitVec.ofNat 32 (withField 0x65400000 7 s.toNat)
  | .phreg d a b => BitVec.ofNat 32 (withField (withField (withField 0x66000000 14 d.toNat) 7 a.toNat) 0 b.toNat)
  | .phdrop a => BitVec.ofNat 32 (withField 0x66200000 7 a.toNat)
  | .phsig a => BitVec.ofNat 32 (withField 0x66400000 7 a.toNat)
  | .phwt d a => BitVec.ofNat 32 (withField (withField 0x66600000 14 d.toNat) 7 a.toNat)
  | .pharv d a => BitVec.ofNat 32 (withField (withField 0x66800000 14 d.toNat) 7 a.toNat)
  | .phregDev d a b => BitVec.ofNat 32 (withField (withField (withField 0x67000000 14 d.toNat) 7 a.toNat) 0 b.toNat)
  | .phdropDev a => BitVec.ofNat 32 (withField 0x67200000 7 a.toNat)
  | .phsigDev a => BitVec.ofNat 32 (withField 0x67400000 7 a.toNat)
  | .phwtDev d a => BitVec.ofNat 32 (withField (withField 0x67600000 14 d.toNat) 7 a.toNat)
  | .pharvDev d a => BitVec.ofNat 32 (withField (withField 0x67800000 14 d.toNat) 7 a.toNat)
  | .waitc l s c t => BitVec.ofNat 32 (withField (withField (withField (withField 0x68000000 13 l.toNat) 8 s.toNat) 4 c.toNat) 0 t.toNat)
  | .wopen d a b => BitVec.ofNat 32 (withField (withField (withField 0x6a000000 14 d.toNat) 7 a.toNat) 0 b.toNat)
  | .wshut a => BitVec.ofNat 32 (withField 0x6a200000 7 a.toNat)
  | .spmap d a b => BitVec.ofNat 32 (withField (withField (withField 0x6a400000 14 d.toNat) 7 a.toNat) 0 b.toNat)
  | .spunmap a => BitVec.ofNat 32 (withField 0x6a600000 7 a.toNat)
  | .tres d a f => BitVec.ofNat 32 (withField (withField (withField 0x6c000000 14 d.toNat) 7 a.toNat) 0 f.toNat)
  | .trel a => BitVec.ofNat 32 (withField 0x6c200000 7 a.toNat)
  | .mxop a t f => BitVec.ofNat 32 (withField (withField (withField 0x6c540000 7 a.toNat) 1 t.toNat) 0 f.toNat)
  | .mxswap => 0x6c740000
  | .bload d a t => BitVec.ofNat 32 (withField (withField (withField 0x6c800000 14 d.toNat) 7 a.toNat) 1 t.toNat)
  | .copy d a t => BitVec.ofNat 32 (withField (withField (withField 0x6ca00000 14 d.toNat) 7 a.toNat) 1 t.toNat)
  | .gath d a t => BitVec.ofNat 32 (withField (withField (withField 0x6cc00000 14 d.toNat) 7 a.toNat) 1 t.toNat)
  | .scat d a t => BitVec.ofNat 32 (withField (withField (withField 0x6ce00000 14 d.toNat) 7 a.toNat) 1 t.toNat)
  | .trace a t f => BitVec.ofNat 32 (withField (withField (withField 0x6d158000 7 a.toNat) 1 t.toNat) 0 f.toNat)
  | .tdecCont a => BitVec.ofNat 32 (withField 0x6d200000 7 a.toNat)
  | .tdecAcc a => BitVec.ofNat 32 (withField 0x6d200002 7 a.toNat)
  | .tdecTerm a => BitVec.ofNat 32 (withField 0x6d200004 7 a.toNat)
  | .march a t => BitVec.ofNat 32 (withField (withField 0x6d560000 7 a.toNat) 1 t.toNat)
  | .emit a f => BitVec.ofNat 32 (withField (withField 0x6d768000 7 a.toNat) 0 f.toNat)
  | .launch d a => BitVec.ofNat 32 (withField (withField 0x6e000000 14 d.toNat) 7 a.toNat)
  | .gwait a => BitVec.ofNat 32 (withField 0x6e200000 7 a.toNat)
  | .qsig a => BitVec.ofNat 32 (withField 0x6e400000 7 a.toNat)
  | .br j c a o => BitVec.ofNat 32 (withField (withField (withField (withField 0x70000000 31 j.toNat) 21 c.toNat) 14 a.toNat) 0 o.toNat)
  | .jmp o => BitVec.ofNat 32 (withField 0x72000000 0 o.toNat)
  | .call h o => BitVec.ofNat 32 (withField (withField 0x74000000 21 h.toNat) 0 o.toNat)
  | .brx u a => BitVec.ofNat 32 (withField (withField 0x76000000 31 u.toNat) 7 a.toNat)
  | .callx u a h => BitVec.ofNat 32 (withField (withField (withField 0x76200000 31 u.toNat) 7 a.toNat) 0 h.toNat)
  | .ret => 0x76400000
  | .wbase n => BitVec.ofNat 32 (withField 0x76600000 0 n.toNat)
  | .yield => 0x76800000
  | .exit => 0x76a00000
  | .nop => 0x76c00000
  | .trap c => BitVec.ofNat 32 (withField 0x76e00000 0 c.toNat)
  | .eret => 0x77000000
  | .mfs u d s => BitVec.ofNat 32 (withField (withField (withField 0x78000000 31 u.toNat) 18 d.toNat) 0 s.toNat)
  | .mts a s => BitVec.ofNat 32 (withField (withField 0x7a000000 11 a.toNat) 0 s.toNat)
  | .loadDataReturn _ _ | .storePerformed _ | .l1WriteBack _ _ _ | .l1Drop _ _ _ | .issueCycle _ | .joinHoldTimeout _ _ _
    | .ageSaturation _ _ _ | .clockGate _ _ | .launchDispatch _ | .crewPlace _ | .crewSteal _ | .crewEnd _
    | .preemptDispatcher _ | .preemptLacewing _ | .preemptSave _ | .crewResume _ | .preemptSaveTimeout _ | .tresRetry _
    | .trelRelease _ | .spmapComplete _ _ | .spunmapComplete _ _ | .matrixStart _ | .mxswapEffect _ | .mxopComplete _
    | .bankSave _ | .copyComplete _ | .rayCandidate _ | .rayComplete _ | .marchBatch _ | .streamClose _ | .popEntryPush _
    | .reductionDrain _ | .slewGroupRelease | .atomicQuietExpiry _ | .comparatorMatch _ _ | .dualUnmatchedTimeout _
    | .sampledDigestCompare _ | .convWatchdog _ _ _ | .crewWatchdog _ | .migrationTimeout _ | .registerWrite _ _ _
    | .queueGo _ _ | .invalidatePage _ _ _ | .invalidateContext _ _ _ | .invalidateAll _ _ _ | .reclaim _ _ | .dropBounds _ _
    | .invalidationComplete | .hsAcknowledge _ _ | .hsRequestPage _ _ | .attestationGo _ | .attestationDone | .scLockWrite _
    | .mxCadenceWrite _ _ | .hostWrite _ _ _ | .hostRead _ _ | .hostSnoop _ | .configRequest _ | .remoteRequest _ _ _ _ _ _ _
    | .remoteResponse _ _ _ _ _ | .remoteTimeout _ | .flitCrcFailure _ | .linkTrainingLoss _ | .linkRetrainEnd _ _
    | .tokenExchangeTick _ _ _ | .demandAnnounce _ _ | .tokenGrant _ _ _ | .leaseEnd _ | .tokenReturn _ | .grantReturnTimeout _
    | .powerAverage _ _ | .holdEnd _ _ | .railCurrentAlert _ | .railHoldFailure _ | .junction100c _ | .junction110cTimeout _
    | .junction120c _ | .hdieOvertemp | .dieInternalError _ | .coreSelfTest _ _ | .backgroundScrub _ _ | .powerOnReset _
    | .firmwareUpdate _ | .illegalInstruction _ | .instructionFetchFault | .contextCreation _ _ _ _ _ _ _ _ | .queueCoreCycle _
    | .powerLoss => 0

end Sys2Proof
end

