-- ==== Sys2Proof/Machine/State.lean ====
section
/-! DEFINITION. The state of the machine as plain data: everything the manual names, and what it implies (INVENTORY.md, State). -/

namespace Sys2Proof.Machine

/-- Why the machine would stop. No instruction and no event raises it. -/
inductive Fault where
  /-- Raised by no step of this model: a packet that names a thread that is not there issues nothing. Safe. -/
  | noSuchThread (tid : Nat)
  deriving DecidableEq, Repr

/-- Why an instruction has no meaning. -/
inductive Refusal where
  /-- Raised by an arm of `exec` whose instruction has no meaning yet. Safe. -/
  | notModelled (mnemonic : String)
  deriving DecidableEq, Repr

/-! ### Storage -/

/-- One storage with poison (R366): listed bytes, an unlisted byte being 0, and the poisoned granules by number. -/
structure PMem where
  cells : List Host.Cell := []
  psn : FMap Bool := []
  deriving DecidableEq, Repr

/-- A register with its poison mark (R366). -/
structure RVal where
  val : Word := 0
  psn : Bool := false
  deriving DecidableEq, Repr

/-- A byte of an L1 view (R101, R135): its value, and whether it is dirty or clean. -/
structure L1Cell where
  val : Byte
  dirty : Bool
  /-- The value is on its way to a remote home (R149): a later store clears the mark. -/
  sent : Bool := false
  deriving DecidableEq, Repr

/-! ### Threads -/

/-- An entry of a pop view (R62, R243) with its poison mark (R367). -/
structure PopEntry where
  val : Dword
  psn : Bool := false
  /-- The operation that produced it. -/
  src : Nat := 0
  deriving DecidableEq, Repr

/-- Which tag wait a thread is in (R226). -/
inductive TagWait where
  | any
  | all
  | first
  deriving DecidableEq, Repr

/-- A resolved destination (R59): registers from a stack position, or bytes of a core's scratchpad. -/
inductive Dest where
  | none
  | reg (pos n : Nat)
  | scratch (byte size : Nat)
  deriving DecidableEq, Repr

/-- A host-owned page (R129): its frame, its size and its leaf. -/
structure HostPage where
  page : Nat
  psize : Nat
  leaf : Nat
  deriving DecidableEq, Repr

/-- What a parked thread waits for (R39), with what its return needs. -/
inductive Park where
  /-- WAITA on a physical word (R227): the word, its pointer, where D goes, the instruction. -/
  | waita (pa ptr : Nat) (dst : Dest) (insn : Nat)
  /-- WAITA whose registration a pre-emption removed (R229): it reads the home value after resumption. -/
  | waitaWoken (pa ptr : Nat) (dst : Dest) (insn : Nat)
  /-- A tag wait (R226). -/
  | tags (w : TagWait) (mask : Nat) (dst : Dest)
  /-- WAITC (R224). -/
  | counters (l s c t : Nat)
  /-- A phaser wait (R232): the phaser's key, whether a signal must still be given, whether a wait follows, D. -/
  | phaser (key : Nat) (sig wait : Bool) (dst : Dest)
  /-- A TRES with F = 1 (R249): its request and D. -/
  | tres (req : List Byte) (dst : Dest)
  /-- TREL (R250): the crew-local number. -/
  | trel (num : Nat)
  /-- SPMAP and SPUNMAP until every home has answered (R238, R239). -/
  | spmap (num : Nat) (dst : Dest)
  | spunmap (num : Nat)
  /-- GWAIT (R282). -/
  | gwait (handle : Nat)
  /-- An access to a host-owned page (R129): the instruction runs again once the page is the device's. For a migration that fails (R411): the page, the pointer, KIND, SIZE, the word, and the destination a load poisons. -/
  | hostshare (page : HostPage) (ptr kind size insn : Nat) (load : Bool) (dst : Dest)
  /-- Between a fault and the entry of its handler (R54, R372, R397), which waits for the thread's pending results: ADDR, CAUSE, INSN and SEQ of the record, whether it was dropped, what TPC adds to the PC, the threads that share the record. -/
  | entry (addr cause insn seq : Nat) (lost : Bool) (after : Nat) (ts : List Nat)
  deriving DecidableEq, Repr

/-- The states of R28 that a thread itself holds; Held and Overflowed follow from the convergence table. -/
inductive Run where
  | exited
  | ready
  /-- At a cross-thread instruction (R38), since the given elapsed time. -/
  | converging (since : Nat)
  | parked (p : Park)
  deriving DecidableEq, Repr

/-- A thread's membership of a phaser (R230): the phaser's key, MODE, LP and NX. -/
structure Member where
  key : Nat
  mode : Nat
  lp : Word
  nx : Word
  deriving DecidableEq, Repr

/-- The trap state (R372, R373). -/
structure TrapRegs where
  tpc : Dword := 0
  taddr : Dword := 0
  tseq : Dword := 0
  tcause : Word := 0
  tinsn : Word := 0
  inh : Bool := false
  lost : Bool := false
  tmode : Word := 0
  tpsn : Dword := 0
  twb : Nat := 0
  deriving DecidableEq, Repr

/-- A thread: one instruction stream (R25). -/
structure Thread where
  run : Run := .exited
  pc : Dword := 0
  /-- Window base (R51) and first resident stack position (R54). -/
  wb : Nat := 0
  rb : Nat := 0
  /-- The register stack by stack position (R51); an unlisted position holds 0, clean. -/
  regs : FMap RVal := []
  /-- a0 to a7 (R59). -/
  areg : FMap RVal := []
  /-- Registers whose uncorrectable error no read has found yet (R375): stack positions, and 4096 + k for a_k. -/
  latent : List Nat := []
  mode : Word := 0
  /-- The outstanding-operation counters of R223. -/
  loads : Nat := 0
  stores : Nat := 0
  copies : Nat := 0
  tiles : Nat := 0
  /-- The pop views (R62): mxs, trh, sms; on a queue core gdn. -/
  mxs : List PopEntry := []
  trh : List PopEntry := []
  sms : List PopEntry := []
  gdn : List PopEntry := []
  slb : Word := 0
  trap : TrapRegs := {}
  phas : List Member := []
  /-- YIELD in an ordered grid (R46), and the core cycle until which a yielded entry loses (R208). -/
  yielded : Bool := false
  yieldTo : Nat := 0
  /-- Arrived at its PC by a branch with J = 1 (R35), until it is ready there, and the core cycle from which it is there. -/
  joined : Bool := false
  joinAt : Nat := 0
  /-- Registers by operand code with the first core cycle that may read them (R34, R175, R185). -/
  recent : List (Nat × Nat) := []
  /-- Per-thread sequence of global writes (R298, R299). -/
  seq : Nat := 0
  /-- Units of a structure that its next instruction reads at issue, read ahead: by its place in the program and the unit (R138, R327). -/
  early : FMap (List Byte) := []
  deriving DecidableEq, Repr

/-! ### Cores -/

/-- A convergence-table entry (R29); its bitmaps are the wave's threads at its PC. -/
structure Entry where
  slot : Nat
  pc : Nat
  hold : Bool := false
  holdAge : Nat := 0
  age : Nat := 0
  /-- Order in which ages saturated (R33). -/
  sat : Option Nat := none
  deriving DecidableEq, Repr

/-- What a thread's part of an instruction reports: a record, and whether the thread traps. -/
structure Cause where
  group : Nat
  code : Nat
  d0 : Nat := 0
  d1 : Nat := 0
  addr : Nat := 0
  /-- Space, region and page of a memory cause: the key that shares one record and its LANES (R401). -/
  key : Option (Nat × Nat × Nat) := none
  /-- One record for the packet (R376). -/
  whole : Bool := false
  /-- Whether the thread traps at level 1 (R363); else level 0. -/
  trap : Bool := true
  psn : Bool := false
  /-- INSN is 0 (R387, R401). -/
  noInsn : Bool := false
  /-- PC of the instruction, where its thread has moved on. -/
  pc : Option Nat := none
  deriving DecidableEq, Repr

/-- A packet chosen to issue (R32, R37, R38): its threads in ascending order and the pipeline. -/
structure Packet where
  tids : List Nat := []
  pipe : Nat := 0
  /-- Number of the packet. -/
  num : Nat := 0
  /-- The PC it was chosen at, its pipelines, class and priority, and the cycles in which a pipeline issues nothing after it (R37, R60). -/
  pc : Option Dword := none
  pipes : List Nat := []
  cls : Nat := 0
  prio : Nat := 0
  gap : FMap Nat := []
  /-- Records of a cross-thread group for its packet on this pipeline, which follow those of lower pipelines (R38, R377), and its word. -/
  late : List (Nat × Cause) := []
  insn : Nat := 0
  deriving DecidableEq, Repr

/-- A core phaser or the fields of a device phaser (R230, R234). -/
structure Phaser where
  phase : Word := 0
  nsig : Word := 0
  nwait : Word := 0
  arr : Word := 0
  /-- The crew that has claimed a core phaser (R231). -/
  crew : Option Nat := none
  deriving DecidableEq, Repr

/-- A window slot (R106) with the crew that opened it. -/
structure Window where
  v : Bool := false
  sw : Bool := false
  wcore : Nat := 0
  row : Nat := 0
  crew : Nat := 0
  deriving DecidableEq, Repr

/-- A scratchpad mapping (R108, R409): n lines at physical address `pa` and pointer `ptr`, from allocation row `row`. -/
structure SpMapping where
  crew : Nat
  ptr : Nat
  /-- Physical address of each line. -/
  pas : List Nat
  row : Nat
  pending : Bool := true
  /-- The thread whose SPMAP or SPUNMAP is under way, its word and the number of its packet (R375). -/
  tid : Nat := 0
  insn : Nat := 0
  pkt : Nat := 0
  deriving DecidableEq, Repr

/-- A tile-store reservation record (R246) with its crew, crew-local number and context. -/
structure TileRec where
  fmt : Nat
  blk : Nat
  sc : Nat
  soff : Nat
  xrow : Nat
  susp : Bool := false
  align : Nat
  base : Nat
  rows : Nat
  crew : Nat
  num : Nat
  deriving DecidableEq, Repr

/-- A contribution held in a reduction buffer (R147, R300, R301): its grid, key, and the operation. -/
structure Contribution where
  grid : Nat
  index : Nat
  /-- Which copy of a checked crew made it (R298). -/
  copy : Nat
  tid : Nat
  order : Nat
  lane : Nat
  wave : Nat
  ctx : Nat
  pc : Nat
  insn : Nat
  core : Nat
  /-- The space of the access (R97), its address, and its place as PendOp has it. -/
  space : Nat := 0
  ptr : Nat
  pa : Nat
  place : Nat := 0
  /-- 0 to 10 a RED operation of R155; 16 and 17 BRED.f32 and BRED.f64. -/
  op : Nat
  size : Nat
  val : Nat
  deriving DecidableEq, Repr

/-- A cached translation (R118): what a TLB entry or a last-page register keeps. -/
structure Tlb where
  ctx : Nat
  va : Nat
  size : Nat
  base : Nat
  limit : Nat
  ctl : Nat
  pa : Nat
  /-- The leaf's translation word. -/
  tw : Nat
  cls : Nat
  owner : Bool
  md : Nat
  leaf : Nat
  deriving DecidableEq, Repr

/-- What a matrix operation that has written some of its outputs has come to (R138): how many, whether its chain goes on (R87), and what its records and %slb count. -/
structure MxPart where
  outs : Nat := 0
  keep : Bool := false
  poisoned : Nat := 0
  spread : Nat := 0
  spreadL : Int := 0
  bits : Nat := 53
  spec : Bool := false
  deriving DecidableEq, Repr

/-- A matrix command in mxc (R243, R251, R257): its parameter block, issuer, tag and flags. -/
structure MxCmd where
  op : Nat
  swap : Bool
  tid : Nat
  crew : Nat
  ctx : Nat
  pb : List Byte
  tag : Nat
  stat : Bool
  seq : Nat
  pc : Nat
  insn : Nat
  passed : Nat := 0
  units : Nat := 0
  /-- 0 waiting in mxc, 1 started, 2 completed with its status entry held (R310). -/
  stage : Nat := 0
  /-- The operands that the array took at its start: bytes of A rows and of B columns with their poison (R304). -/
  arows : List (List (Byte × Bool)) := []
  bcols : List (List (Byte × Bool)) := []
  part : MxPart := {}
  deriving DecidableEq, Repr

/-- What the recombination unit holds of one operation (R87, R89): accumulators by element, its matching key, and the operation whose chain it continues. -/
structure Recomb where
  valid : Bool := false
  key : List Nat := []
  prev : Option Nat := none
  /-- Sum of contributions, scale exponent, error bound and scale sums by element number. -/
  acc : FMap Int := []
  expo : FMap Int := []
  err : FMap Int := []
  sums : FMap Int := []
  bad : FMap Bool := []
  /-- Outputs that draw on a special block, and outputs computed from poison. -/
  spec : FMap Bool := []
  psn : FMap Bool := []
  /-- Some element of the chain had lost(x), and some term was truncated (R91). -/
  lost : Bool := false
  trunc : Bool := false
  deriving DecidableEq, Repr

/-- A core (R12, R28 to R44). -/
structure Core where
  /-- Counters of R43 and R56. -/
  cyc : Dword := 0
  etime : Dword := 0
  htime : Dword := 0
  spillb : Dword := 0
  fillb : Dword := 0
  /-- Blocks spilled and filled in the current cycle, which these counters take in as it ends (R240). -/
  spilling : Nat := 0
  filling : Nat := 0
  cycT : List Dword := [0, 0, 0, 0]
  issT : List Dword := [0, 0, 0, 0]
  entries : List Entry := []
  satNext : Nat := 0
  /-- Packets in execute stages: pipeline, stages left to pass, class, priority (R41, R291). -/
  stages : List (Nat × Nat × Nat × Nat) := []
  /-- Packets issued in the cycle under way: pipeline, class, priority. They enter E1 in the next (R41). -/
  issuing : List (Nat × Nat × Nat) := []
  /-- The overflow lists: threads with no entry, with their PC (R31). -/
  overflow : FMap Nat := []
  /-- The PC of each streamed grid's block (R37). -/
  blocks : FMap Nat := []
  /-- Further cycles in which a pipeline issues nothing (R37, R60). -/
  blocked : FMap Nat := []
  /-- Pipelines whose last cycle was a floor cycle, and the cycle of the last slow floor packet (R293). -/
  floored : List Nat := []
  slowFloor : Nat := 0
  /-- The FP64 slot of the last cycle went to a floor packet (R292, R293; log 54). -/
  fpFloor : Bool := false
  /-- Consecutive cycles in which class batching passed over a candidate, by pipeline, slot and PC (R42). -/
  passed : List ((Nat × Nat × Nat) × Nat) := []
  phasers : FMap Phaser := []
  windows : FMap Window := []
  maps : FMap SpMapping := []
  recs : FMap TileRec := []
  /-- Threads parked by TRES in the order in which they parked (R249). -/
  tresQ : List Nat := []
  /-- Context tag of each tile row (R249). -/
  rowTag : FMap Nat := []
  /-- The crew that holds the B banks, the context that last held them, the current bank (R110, R258). -/
  bankCrew : Option Nat := none
  /-- A crew that takes suspended banks and waits for their save (R110). -/
  bankTaker : Option Nat := none
  bankCtx : Option Nat := none
  bank : Nat := 0
  /-- mxc (R243), accepted commands SEQ (R256), completed DSEQ. -/
  mxc : List MxCmd := []
  mxSeq : Word := 0
  mxDone : Word := 0
  /-- MX_CADENCE.CAD and MX_BUSUM (R309). -/
  cadence : Nat := 1
  busum : Dword := 0
  /-- Unordered pairs of a copy command and an MXOP: their operations, the CODE (R417, R418), the first row. -/
  clashes : List (Nat × Nat × Nat × Nat) := []
  /-- The recombination unit's accumulators by F64 operation, and the last of them to start (R87, R311). -/
  units : FMap Recomb := []
  lastUnit : Nat := 0
  tlb : List Tlb := []
  lastPage : FMap Tlb := []
  /-- The reduction buffer (R300). -/
  redbuf : List Contribution := []
  held : Bool := false
  /-- The length of the hold under way, and ETIME at the end of the die manager's last one, ps (R344). -/
  holdPs : Nat := 0
  lastHold : Option Nat := none
  fenced : Bool := false
  deriving DecidableEq, Repr

/-- A resident wave (R25, R55, R293). -/
structure Wave where
  crew : Nat
  index : Nat
  spillX : Nat
  since : Nat
  /-- Last issue by pipeline (R293). -/
  last : FMap Nat := []
  /-- The ordered grid's running wave (R46), and whether it was the last to run and stopped through YIELD. -/
  running : Bool := false
  ceded : Bool := false
  deriving DecidableEq, Repr

/-! ### Work -/

/-- A tag of a crew (R225): pending operations, done bit, widest scope of the completions since it was last clear. -/
structure TagState where
  pending : Nat := 0
  done : Bool := true
  scope : Nat := 0
  deriving DecidableEq, Repr

/-- Where a crew stands. -/
inductive CrewRun where
  | running
  /-- Stopping for a pre-emption (R297 steps 1 and 2). -/
  | stopping
  /-- Saved and waiting for placement (R296). -/
  | saved
  /-- Placed again; its reservations, banks, mappings and rays are still to be restored (R297). -/
  | resuming
  /-- Aborted, its engine operations still running (R364). -/
  | aborted
  /-- A sampled copy that has ended and whose digest is still to be compared (R299). -/
  | ended
  deriving DecidableEq, Repr

/-- What a crew's save area and suspended storage hold (R109, R110, R297); its layout is not visible to programs. -/
structure Saved where
  scratch : List PMem := []
  recs : FMap TileRec := []
  tile : FMap PMem := []
  /-- By the parity of the core in a pair. -/
  banks : FMap (PMem × PMem × Nat) := []
  /-- Mappings to be made again (R409). -/
  maps : FMap SpMapping := []
  phasers : List (Nat × Phaser) := []
  /-- The cores that it left (R102). -/
  left : List Nat := []
  deriving DecidableEq, Repr

/-- A crew (R25). -/
structure Crew where
  grid : Nat
  index : Nat
  waves : Nat
  /-- Its core, or the even core of its pair (R27). -/
  core : Nat
  paired : Bool
  prio : Nat
  /-- Allocation size in bytes and its base in each core's scratchpad (R104, R105). -/
  alloc : Nat
  base : Nat
  base2 : Nat := 0
  tags : FMap TagState := []
  ntags : Nat
  run : CrewRun := .running
  start : Nat
  /-- 0 primary or unchecked, 1 DUAL shadow, 2 SAMPLED shadow, 3 SAMPLED primary (R298, R299). -/
  copy : Nat := 0
  /-- The other copy of a checked crew. -/
  twin : Option Nat := none
  /-- Cores of the pair, by parity, whose banks it holds (R110). -/
  holdsBanks : List Nat := []
  cluster : Nat
  saved : Saved := {}
  /-- Whether it has issued its first instruction. -/
  begun : Bool := false
  /-- ETIME at its first instruction, less time pre-empted, for its watchdog (R427); while it is saved, the time it has run. -/
  began : Nat := 0
  /-- ETIME at which a pre-emption began (R426). -/
  stopAt : Nat := 0
  /-- While it is unplaced, the time from which it waits (R296), by the clock of log 58. -/
  since : Nat := 0
  deriving DecidableEq, Repr

/-- A grid (R280 to R282): its launch record and what of it has started and ended. -/
structure Grid where
  queue : Nat
  ctx : Nat
  record : List Byte
  order : Nat
  /-- Crews still to start, as ranges by cluster: cluster, first index, count (R290). -/
  ranges : List (Nat × Nat × Nat) := []
  /-- Whether the dispatcher has taken its record from lch (R280). -/
  taken : Bool := false
  /-- When its crews began to wait (R296), by the clock of log 58. -/
  since : Nat := 0
  started : Nat := 0
  ended : Nat := 0
  total : Nat
  aborted : Bool := false
  deriving DecidableEq, Repr

/-- A hardware queue (R284, R283): its registers, handles and program. -/
structure Queue where
  entry : Dword := 0
  qctx : Nat := 0
  flt : Bool := false
  rej : Bool := false
  run : Bool := false
  sigCount : Word := 0
  sigValue : Word := 0
  /-- Grids launched so far; the sequence number of the next follows from it (R282). -/
  launches : Nat := 0
  deriving DecidableEq, Repr

/-- A queue core (R45, R286). -/
structure QCore where
  cyc : Dword := 0
  last : Nat := 7
  /-- Launch records pushed and not yet taken, by grid handle (R243, R280). -/
  lch : List Nat := []
  deriving DecidableEq, Repr

/-- A context (R112, R369, R372, R342). -/
structure Context where
  btab : Nat
  ptroot : Nat
  flbase : Nat
  logn : Nat
  thnd : Dword
  save : Nat
  sys : Bool
  /-- Lacewing has aborted it (R434). -/
  lost : Bool := false
  deriving DecidableEq, Repr

/-! ### Operations not yet performed -/

/-- The operation a pending access makes (R132, R210 to R222). -/
inductive MemOp where
  | load (signed : Bool)
  | store
  /-- An atomic: operation of R155, whether it returns, release before it, acquire after it, scope (R216). -/
  | atomic (op : Nat) (ret rel acq : Bool) (scope : Nat)
  | bred (wide : Bool)
  | binfin
  | append
  | sealing
  | pref
  | cinv (scope : Nat)
  deriving DecidableEq, Repr

/-- A flush point under way (R301): its grid, the device phaser whose Advance follows, the cores that the device release covers, and the contributions that its cores have drained and that are still to be performed, in order. -/
structure Flush where
  grid : Nat
  phaser : Option Nat
  cores : List Nat := []
  /-- The comparator has compared the two copies' contributions (R298). -/
  compared : Bool := false
  left : List Contribution
  deriving DecidableEq, Repr

/-- A home's contention record of a line (R303): the core that owns it, if one does, and the core and elapsed time of its last wider-scope atomic. -/
structure Contended where
  owner : Option Nat
  core : Nat
  time : Nat
  deriving DecidableEq, Repr

/-- Why an access fails (R399, R400): the record's GROUP and CODE, REASON, the level a walk stopped at, D1, and whether a pod peer decided it. -/
structure MemErr where
  group : Nat := 2
  code : Nat
  reason : Nat := 0
  lvl : Nat := 7
  d1 : Nat := 0
  rem : Bool := false
  deriving DecidableEq, Repr

/-- An access issued and not yet performed (R135). -/
structure PendOp where
  id : Nat
  /-- Operations of one access share the number of its first unit (R138). -/
  grp : Nat
  tid : Nat
  core : Nat
  ctx : Nat
  op : MemOp
  space : Nat
  ptr : Nat
  /-- Where the access goes: a physical address, a scratchpad byte, or the line of a remote region. -/
  pa : Nat
  /-- 0 HBM, host window or register by physical address; 1 a scratchpad storage byte; 2 remote region. -/
  place : Nat
  cls : Nat := 0
  /-- Address of the leaf of an APPEND page, and the page's size. -/
  leaf : Nat := 0
  psize : Nat := 0
  md : Nat := 0
  size : Nat
  data : List Byte := []
  /-- The data carries poison (R367): an engine's write. -/
  psn : Bool := false
  /-- Where the result goes, and the threads and stack positions that also receive it (R65). -/
  dst : Dest := .none
  bcast : List (Nat × Nat) := []
  pc : Nat
  insn : Nat
  /-- The packet that issued it, for its stores' and atomics' order (R212, R217). -/
  pkt : Nat
  /-- Per-thread sequence of global writes (R298). -/
  seq : Nat := 0
  /-- An instruction fetch of a remote line (R151): its page needs X at the target. -/
  fetch : Bool := false
  /-- Of a request for a remote line: the pointer and size of the access that needs it, for its record. -/
  asked : Nat × Nat := (0, 0)
  /-- The grid of its records, where its thread no longer names one (R301). -/
  grid : Nat := 0
  /-- Its home has refused it: its record waits for the rest of its packet (R401, R402). -/
  err : Option MemErr := none
  deriving DecidableEq, Repr

/-- What an engine operation is (R243). -/
inductive EngKind where
  | copy (bload : Bool)
  | gath
  | scat
  | trace
  | march
  | emit
  deriving DecidableEq, Repr

/-- What a ray has still to visit: a child by KIND (R316), entry and pointer, or the rest of a leaf from a slot, with its bytes. -/
inductive RayWork where
  | node (kind entry ptr : Nat)
  | leaf (ptr slot : Nat) (bytes : List Byte)
  deriving DecidableEq, Repr

/-- A hit of a ray: t, u, v in binary32 and HLEAF (R271). -/
structure RayHit where
  t : Nat
  u : Nat := 0
  v : Nat := 0
  leaf : Nat
  deriving DecidableEq, Repr

/-- A ray in flight (R273). -/
structure RayState where
  started : Bool := false
  tmax : Nat := 0
  hit : Option RayHit := none
  work : List RayWork := []
  /-- The candidate it is suspended on: KIND and hit. -/
  cand : Option (Nat × RayHit) := none
  /-- Ended by TDEC.term. -/
  term : Bool := false
  /-- What the unit wrote to bytes 255:128 of the ray area at a spill (R270, R297). -/
  spill : Option (List Byte) := none
  /-- Its refill found the spilled state altered (R270). -/
  lost : Bool := false
  /-- Result fields have been written; the release and the tag follow. -/
  done : Bool := false
  deriving DecidableEq, Repr

/-- A MARCH in progress (R326): the ray, whether it is under way, t, its end, the batch, rows written of it. -/
structure MarchState where
  /-- Its cluster's sampler has taken it from smc (R16). -/
  begun : Bool := false
  ray : Nat := 0
  active : Bool := false
  /-- The ray under way: its eight words. -/
  cur : List Nat := []
  t : Nat := 0
  tend : Nat := 0
  /-- The last step left t unchanged. -/
  stuck : Bool := false
  /-- A sample is due at t: its cells have been read (R328). -/
  due : Bool := false
  batch : Nat := 0
  rows : Nat := 0
  /-- Keys of faults already recorded (R424). -/
  keys : List (Nat × Nat × Nat × Nat) := []
  /-- Every sample has been written; the release and the tag follow. -/
  done : Bool := false
  deriving DecidableEq, Repr

/-- A failed access of an engine operation (R401): the error, its pointer, whether it writes, its space, its bytes. -/
structure EngFault where
  err : MemErr
  ptr : Nat
  writes : Bool
  space : Nat
  size : Nat
  deriving DecidableEq, Repr

/-- An access that an engine operation has performed ahead of the event that completes its work (R138, R144): the bytes it read, and why it failed. -/
structure Seen where
  bytes : List (Byte × Bool) := []
  faults : List EngFault := []
  deriving DecidableEq, Repr

/-- An access of the host or of a pod peer in its naturally aligned 8-byte units (R138). -/
structure OutAccess where
  id : Nat := 0
  /-- 0 the host, 1 + d the device d. -/
  who : Nat := 0
  /-- A peer's number, and the context and pointer of its request. -/
  seq : Nat := 0
  ctx : Nat := 0
  va : Nat := 0
  pa : Nat
  size : Nat
  write : Bool
  /-- The bytes to be written, or those read so far. -/
  data : List (Byte × Bool)
  /-- Units still to be performed, by number. -/
  left : List Nat := []
  cls : Nat := 0
  leaf : Nat := 0
  psize : Nat := 65536
  /-- Lines that took none of it and have been logged (R405). -/
  told : List Nat := []
  deriving DecidableEq, Repr

/-- An engine operation from its acceptance to its completion (R242 to R244): what it is, who issued it, what it was given, how far it has come. -/
structure EngOp where
  id : Nat
  kind : EngKind
  tid : Nat
  crew : Nat
  core : Nat
  ctx : Nat
  queue : Nat
  tag : Nat
  flag : Bool
  ptr : Nat
  /-- The structures read at issue (R242, R266). -/
  cmd : List Byte
  desc : List Byte := []
  pc : Nat
  insn : Nat
  /-- Its thread's sequence number at issue (R298). -/
  seq : Nat
  /-- The core whose tag it names (R297). -/
  tagAt : Nat := 0
  /-- Refused as overlapping (R269): the queue and tag of the earlier command. -/
  overlap : Option (Nat × Nat) := none
  /-- 1 once a copy-engine command's accesses have been performed, or once the rasteriser has taken an emit record from prm. -/
  step : Nat := 0
  /-- The points of a primitive that the rasteriser has taken (R331). -/
  pts : List (Int × Int) := []
  /-- Batch statuses popped (R276). -/
  popped : Nat := 0
  ray : RayState := {}
  march : MarchState := {}
  /-- Remote lines that their device refused or never answered, with the error (R413). -/
  unread : List (Nat × MemErr) := []
  /-- Accesses of its earlier events, and accesses of the present one already performed, by number (R138). -/
  made : Nat := 0
  seen : FMap Seen := []
  deriving DecidableEq, Repr

/-- A pop entry its engine holds until the thread's view has space or the crew resumes (R62, R297). -/
structure HeldPop where
  id : Nat
  tid : Nat
  /-- 1 mxs, 7 trh, 9 sms, 12 gdn (R61). -/
  q : Nat
  ent : PopEntry
  deriving DecidableEq, Repr

/-- A WAITA registration (R229): word, context, threads of one packet, and the slice. -/
structure Waiter where
  slice : Nat
  pa : Nat
  ctx : Nat
  tids : List Nat
  /-- The packet that parked them. -/
  pkt : Nat
  deriving DecidableEq, Repr

/-- What a home knows of a COMPRESSED frame (R130): its size, its leaf, its metadata. -/
structure FrameInfo where
  size : Nat
  leaf : Nat
  md : Nat
  deriving DecidableEq, Repr

/-- The marker of an APPEND frame (R122, R405): its size, its leaf, the tail that the home holds, whether the home has sealed it. -/
structure Mark where
  size : Nat
  leaf : Nat
  tail : Nat
  shut : Bool
  deriving DecidableEq, Repr

/-- What a page walker has found for a page (R119, R128): its context and VA, its size, its frame and its leaf. -/
structure Found where
  ctx : Nat
  va : Nat
  size : Nat
  frame : Nat
  leaf : Nat
  deriving DecidableEq, Repr

/-- A write one copy of a DUAL crew has sent to the comparator (R298). -/
structure DualOp where
  id : Nat
  crew : Nat
  /-- Thread index in the crew. -/
  lane : Nat
  seq : Nat
  op : PendOp
  /-- Elapsed time of its core when it was sent. -/
  since : Nat
  /-- A write of a SAMPLED shadow, never performed (R299). -/
  shadow : Bool := false
  deriving DecidableEq, Repr

/-- A stream of Carve (R279): its output record, vertices, and counts. -/
structure Stream where
  tid : Nat
  crew : Nat
  core : Nat
  ctx : Nat
  recPtr : Nat
  recBytes : List Byte
  verts : FMap (Int × Int) := []
  nv : Nat := 0
  np : Nat := 0
  dropv : Nat := 0
  dropp : Nat := 0
  /-- Segments discarded by the piece limit (R334). -/
  segs : Nat := 0
  /-- Keys of refused additions already recorded (R424). -/
  keys : List (Nat × Nat × Nat × Nat) := []
  closing : Bool := false
  /-- ETIME at which the close of a checked crew's stream first had no partner (R429). -/
  alone : Option Nat := none
  pc : Nat
  insn : Nat
  deriving DecidableEq, Repr

/-- A wake of the slew limiter (R302): threads left to release, and the first cluster. -/
structure Slew where
  first : Nat
  left : List Nat
  deriving DecidableEq, Repr

/-- A HOSTSHARE ring entry (R340) that the host has not acknowledged. -/
structure HsEntry where
  seq : Nat
  kind : Nat
  ctx : Nat
  /-- Page VA, frame, page size and leaf. -/
  va : Nat
  page : Nat
  psize : Nat
  leaf : Nat
  /-- The thread that asked first, and its elapsed time then (R340). -/
  tid : Nat
  since : Nat
  deriving DecidableEq, Repr

/-- A request this device has sent to a pod peer (R342, R413). -/
structure RemReq where
  id : Nat
  op : PendOp
  dev : Nat
  tctx : Nat
  /-- Bytes written back from an L1 rather than by a thread. -/
  wb : Bool
  /-- Elapsed time of the requesting core when it was sent (R413), and the link it took (R341). -/
  since : Nat
  link : Nat
  /-- The bytes carry poison (R412). -/
  psn : Bool
  deriving DecidableEq, Repr

/-- A pod link (R341, R432). -/
structure Link where
  fenced : Bool := false
  fails : Nat := 0
  retraining : Bool := false
  /-- Its peer belongs to another budget group: the link does not join (R346 step 5). -/
  alien : Bool := false
  deriving DecidableEq, Repr

/-- A lent or borrowed token grant (R345). -/
structure Lease where
  id : Nat
  peer : Nat
  tokens : Nat
  lent : Bool
  /-- What the receiver raised CAP by. -/
  gain : Nat := 0
  /-- The device's time when it was sent or received, ps. -/
  since : Nat := 0
  deriving DecidableEq, Repr

/-- An invalidation in progress (R119, R120): operations below `upto` may use removed entries; the command's fields, its VA, the frames to reclaim. -/
structure InvCmd where
  upto : Nat
  scope : Nat
  ctx : Nat
  va : Nat
  reclaim : Bool
  bounds : Bool
  frames : List (Nat × Nat) := []
  deriving DecidableEq, Repr

/-- A die (R15, R344, R431). -/
structure Die where
  fenced : Bool := false
  /-- Its domain is switched off (R343, R433). -/
  off : Bool := false
  alerts : Nat := 0
  deriving DecidableEq, Repr

/-! ### The machine -/

structure State where
  /-- HBM and the host window by physical address, poison by 8-byte unit (R99, R366). -/
  phys : PMem
  /-- L1 views: bytes by (core × 256 + context) × 2^80 + address; poison by 8-byte unit (R101, R135). -/
  l1 : FMap L1Cell
  l1psn : FMap Bool
  /-- Address at the target of each remote line that a view was filled with (R412). -/
  farPa : FMap Nat
  /-- L2 slices: the line addresses each set holds, by slice × 2048 + set (R445); replicas of sealed lines by die × 2^48 + address (R127). -/
  l2 : FMap (List Nat)
  replicas : PMem
  replicaLines : List Nat
  /-- Scratchpads by core × 2^20 + offset (R104), tile stores by core × 2^22 + byte (R109), B banks by (core × 2 + bank) × 2^22 + byte (R110); poison by 4 bytes. -/
  scratch : PMem
  tile : PMem
  banks : PMem
  /-- Threads by (core × 96 + slot) × 128 + lane, queue programs from `Config.coreThreads` (R25). -/
  threads : FMap Thread
  /-- Waves by core × 96 + slot. -/
  waves : FMap Wave
  cores : FMap Core
  crews : FMap Crew
  grids : FMap Grid
  queues : FMap Queue
  qcores : FMap QCore
  contexts : FMap Context
  /-- Import bitmap of each context, bit by source device (R342). -/
  imports : FMap Nat
  /-- COMPRESSED frames by base (R130), and markers of APPEND frames (R405). -/
  frames : FMap FrameInfo
  appended : FMap Mark
  /-- What page walkers last found for each page, until a RECLAIM of it (R119, R128). -/
  walked : List Found
  waiters : List Waiter
  /-- Contention records by line (R303). -/
  contention : FMap Contended
  slews : List Slew
  /-- Flush points under way (R301). -/
  flushes : List Flush
  slewCount : Nat
  pend : List PendOp
  ops : List EngOp
  heldPops : List HeldPop
  streams : FMap Stream
  /-- Whose turn it is (R16): the local core at each cluster's sampler, the local cluster at each Carve rasteriser. -/
  samplers : FMap Nat
  rasters : FMap Nat
  duals : List DualOp
  /-- Global writes of each thread of a sampled copy (R299), by crew and thread: place in program order, unit of an engine's write, encoding. -/
  digests : FMap (List ((Nat × Nat) × List Byte))
  /-- Results of a sampled primary's returning atomics and APPENDs by crew, thread index, sequence: value and poison (R299). -/
  samples : List ((Nat × Nat × Nat) × (Nat × Bool))
  /-- Checking mismatches: core, partner core, and elapsed time of the core (R435). -/
  mismatches : List (Nat × Nat × Nat)
  /-- The slot table by byte (R287), and other device registers by address (R338). -/
  slots : FMap Byte
  regs : FMap Dword
  invBusy : Option InvCmd
  hsRing : List HsEntry
  hsSeq : Nat
  /-- Pages that move to the host and whose last accesses are still unperformed (R129), as the entries that will grant them. -/
  toHost : List HsEntry
  remotes : List RemReq
  /-- Requests of peers already performed, by source and sequence number, with their answers (R432). -/
  served : List ((Nat × Nat) × List Byte)
  links : FMap Link
  dies : FMap Die
  leases : List Lease
  /-- Demand announced by each neighbour, W (R345). -/
  demands : FMap Nat
  /-- Start-up step (R346), whether the boot configuration is locked (R338), fuses used for signing (R348), attestation in progress (R349). -/
  bootStep : Nat
  locked : Bool
  fuses : Nat
  attesting : Option Dword
  /-- The next one-time index of this boot (R348), and the digests of the images verified (R349). -/
  signIndex : Option Nat
  images : List (List Byte)
  /-- The boot configuration of step 3 (R346). -/
  boot : Config.BootConfig
  /-- MSI-X (R337): the messages sent, the vectors that the host has unmasked, the pending bits set. Lacewing's management log. -/
  msix : List Nat
  msixOpen : List Nat
  msixPending : List Nat
  mgmt : List (Nat × Nat)
  /-- Accesses of the host and of pod peers with units still to be performed, oldest first (R138, R149). -/
  outside : List OutAccess
  /-- Data the device has returned to the host and to peers, newest first. -/
  outbox : List (Nat × List Byte)
  /-- Granules whose storage-error record a packet has written (R375). -/
  noted : List (Nat × Nat)
  /-- Packets chosen and not yet issued, the one that issues, and events that happen next, oldest first. Log 2. -/
  picks : List Packet
  cur : Packet
  agenda : List Instr
  /-- The core or queue core, numbered from 192, that last took a cycle in the default order. Log 2. -/
  turn : Nat
  /-- Numbers given to operations, and the count of free values taken. Log 1. -/
  uid : Nat
  free : Nat
  deriving DecidableEq, Repr

/-- The machine right after power-on reset: nothing resident, every storage zero (R346), boot step 0. -/
def State.reset : State where
  phys := {}
  l1 := []
  l1psn := []
  farPa := []
  l2 := []
  replicas := {}
  replicaLines := []
  scratch := {}
  tile := {}
  banks := {}
  threads := []
  waves := []
  cores := []
  crews := []
  grids := []
  queues := []
  qcores := []
  contexts := []
  imports := []
  frames := []
  appended := []
  walked := []
  waiters := []
  contention := []
  slews := []
  flushes := []
  slewCount := 0
  pend := []
  ops := []
  heldPops := []
  streams := []
  samplers := []
  rasters := []
  duals := []
  digests := []
  samples := []
  mismatches := []
  slots := []
  regs := []
  invBusy := none
  hsRing := []
  hsSeq := 0
  toHost := []
  remotes := []
  served := []
  links := []
  dies := []
  leases := []
  demands := []
  bootStep := 0
  locked := false
  fuses := 0
  attesting := none
  signIndex := none
  images := []
  boot := {}
  msix := []
  msixOpen := []
  msixPending := []
  mgmt := []
  outside := []
  outbox := []
  noted := []
  picks := []
  cur := {}
  agenda := []
  turn := 0
  uid := 0
  free := 0

end Sys2Proof.Machine
end

