-- ==== Sys2Proof/Machine/Storage.lean ====
section
/-! DEFINITION. Named reads and writes of the tables of State, and of every storage: granules of poison, home slices with their page classes, replicas, L1 views, scratchpads, tile stores and banks. -/

namespace Sys2Proof.Machine

/-- A byte with the poison mark of its granule. -/
abbrev MByte := Byte × Bool

/-! ### Who a thread is (R25, R26) -/

/-- A pre-empted crew's threads keep their place, core and lane under numbers of their own until the crew resumes. -/
def savedTid (crew t : Nat) : Nat := 2 ^ 40 * (crew + 1) + t % 2 ^ 40
def isSavedTid (t : Nat) : Bool := 2 ^ 40 ≤ t
/-- The number of an engine operation's access, and the operation of one: those of other accesses lie below 2^62. -/
def engId (op i : Nat) : Nat := 2 ^ 62 + op * 2 ^ 40 + i
def engOpOf (id : Nat) : Nat := (id - 2 ^ 62) / 2 ^ 40
def isQueueTid (t : Nat) : Bool := Config.coreThreads ≤ t && t < 2 ^ 40
def queueOf (t : Nat) : Nat := t - Config.coreThreads
/-- %lane (R26); a queue program is one thread, lane 0. -/
def laneOf (t : Nat) : Nat := if isQueueTid t then 0 else t % 128
def waveOf (t : Nat) : Nat := t / 128
def slotOf (t : Nat) : Nat := t % 2 ^ 40 / 128 % 96
def coreOf (t : Nat) : Nat := t % 2 ^ 40 / 12288
def tidOf (core slot lane : Nat) : Nat := (core * 96 + slot) * 128 + lane
def quarterOf (t : Nat) : Nat := laneOf t / 32
def dieOfCore (c : Nat) : Nat := c / 48
def clusterOf (c : Nat) : Nat := c / 4

def State.thread (s : State) (t : Nat) : Thread := s.threads.lookD t {}
def State.setThread (s : State) (t : Nat) (x : Thread) : State := { s with threads := s.threads.put t x }
def State.core (s : State) (c : Nat) : Core := s.cores.lookD c {}
def State.setCore (s : State) (c : Nat) (x : Core) : State := { s with cores := s.cores.put c x }
def State.setCrew (s : State) (k : Nat) (x : Crew) : State := { s with crews := s.crews.put k x }
def State.queue (s : State) (q : Nat) : Queue := s.queues.lookD q {}
def State.setQueue (s : State) (q : Nat) (x : Queue) : State := { s with queues := s.queues.put q x }
def State.qcore (s : State) (c : Nat) : QCore := s.qcores.lookD c {}
def State.setQcore (s : State) (c : Nat) (x : QCore) : State := { s with qcores := s.qcores.put c x }
def State.die (s : State) (d : Nat) : Die := s.dies.lookD d {}
def State.setDie (s : State) (d : Nat) (x : Die) : State := { s with dies := s.dies.put d x }
def State.setPend (s : State) (p : List PendOp) : State := { s with pend := p }

/-- The wave a core thread belongs to, and its crew. -/
def State.waveAt (s : State) (t : Nat) : Option Wave := if isQueueTid t then none else s.waves.look (waveOf t)
def State.crewIdOf (s : State) (t : Nat) : Option Nat := (s.waveAt t).map (·.crew)
def State.crewOf (s : State) (t : Nat) : Option Crew := (s.crewIdOf t).bind s.crews.look
def State.gridOf (s : State) (t : Nat) : Option Grid := (s.crewOf t).bind fun c => s.grids.look c.grid

/-- The context a thread runs in (R281, R285). -/
def State.ctxOf (s : State) (t : Nat) : Nat :=
  if isQueueTid t then (s.queue (queueOf t)).qctx
  else match s.gridOf t with
    | some g => g.ctx
    | none => 0

/-- The grid handle of a fault record (R370). -/
def State.gridField (s : State) (t : Nat) : Nat :=
  if isQueueTid t then queueOf t * 2 ^ 26
  else match s.crewOf t with
    | some c => c.grid
    | none => 0

/-- A field of a launch record (R280). -/
def recField (r : List Byte) (lo n : Nat) : Nat := leNat ((r.drop lo).take n)
def Grid.field (g : Grid) (lo n : Nat) : Nat := recField g.record lo n
def Grid.flag (g : Grid) (b : Nat) : Bool := g.field 42 1 / 2 ^ b % 2 = 1
def State.orderedGrid (s : State) (t : Nat) : Bool :=
  match s.gridOf t with
  | some g => g.flag 0
  | none => false

/-- A fresh number for an operation, and a fresh index of free values. -/
def State.fresh (s : State) : Nat × State := (s.uid, { s with uid := s.uid + 1 })
def State.tick (s : State) : Nat × State := (s.free, { s with free := s.free + 1 })

/-! ### Storages with poison (R366, R367) -/

namespace PMem

/-- One byte. -/
def byte (m : PMem) (a : Nat) : Byte := FMap.lookD m.cells a 0
/-- Whether a granule is poisoned. -/
def poisoned (m : PMem) (g : Nat) : Bool := m.psn.lookD g false

/-- Writing one byte; writing 0 removes the entry. -/
def setByte (m : PMem) (a : Nat) (b : Byte) : PMem :=
  { m with cells := if b = 0 then FMap.del m.cells a else FMap.put m.cells a b }

def setBytes (m : PMem) : Nat → List Byte → PMem
  | _, [] => m
  | a, b :: r => (m.setByte a b).setBytes (a + 1) r

def mark (m : PMem) (g : Nat) (p : Bool) : PMem :=
  { m with psn := if p then m.psn.put g true else m.psn.del g }

/-- Poison of the granules from `g`, `k` of them, after a write of [a, a + n): covered granules take `p`, others keep theirs or become poisoned. -/
def markRange (m : PMem) (gran a n : Nat) (p : Bool) : Nat → Nat → PMem
  | _, 0 => m
  | g, k + 1 =>
    let m' := if p then m.mark g true
      else if a ≤ g * gran && g * gran + gran ≤ a + n then m.mark g false
      else m
    m'.markRange gran a n p (g + 1) k

/-- A write of bytes, clean or poisoned (R367): a clean write clears only the granules it covers whole. -/
def write (gran : Nat) (m : PMem) (a : Nat) (bs : List Byte) (p : Bool) : PMem :=
  if bs.isEmpty then m
  else
    let n := bs.length
    (m.setBytes a bs).markRange gran a n p (a / gran) ((a + n - 1) / gran + 1 - a / gran)

/-- Bytes with their granules' poison. -/
def read (gran : Nat) (m : PMem) (a n : Nat) : List MByte :=
  (List.range n).map fun i => (m.byte (a + i), m.poisoned ((a + i) / gran))

/-- Marks the granule of every poisoned byte. -/
def markBytes (gran : Nat) (m : PMem) : Nat → List MByte → PMem
  | _, [] => m
  | a, b :: r => (if b.2 then m.mark (a / gran) true else m).markBytes gran (a + 1) r

/-- A write of bytes that each carry their own poison. -/
def writeM (gran : Nat) (m : PMem) (a : Nat) (bs : List MByte) : PMem :=
  (m.write gran a (bs.map (·.1)) false).markBytes gran a bs

/-- The canonical form: addresses strictly rising, nothing listed that reads as an unlisted byte or granule does. -/
def wf (m : PMem) : Bool :=
  FMap.rising m.cells && m.cells.all (fun c => c.2 ≠ 0) && FMap.rising m.psn && m.psn.all (·.2)

/-- The `n` bytes from `lo`, as a storage of their own, and a storage without them, or with others in their place. -/
def slice (gran : Nat) (m : PMem) (lo n : Nat) : PMem :=
  { cells := (m.cells.filter fun (a, _) => lo ≤ a && a < lo + n).map fun (a, b) => (a - lo, b)
    psn := (m.psn.filter fun (g, _) => lo ≤ g * gran && g * gran < lo + n).map fun (g, b) => (g - lo / gran, b) }
def erase (gran : Nat) (m : PMem) (lo n : Nat) : PMem :=
  { cells := m.cells.filter fun (a, _) => !(lo ≤ a && a < lo + n), psn := m.psn.filter fun (g, _) => !(lo ≤ g * gran && g * gran < lo + n) }
def paste (gran : Nat) (m : PMem) (lo n : Nat) (x : PMem) : PMem :=
  let m := m.erase gran lo n
  { cells := x.cells.foldl (fun c y => FMap.put c (lo + y.1) y.2) m.cells, psn := x.psn.foldl (fun c y => FMap.put c (lo / gran + y.1) y.2) m.psn }

end PMem

/-- The canonical form of global memory. -/
def Memory.wf (m : PMem) : Bool := m.wf

/-! ### Physical addresses (R99, R100, R445) -/

def inHbm (pa : Nat) : Bool := pa < Config.hbmEnd
def inHost (pa : Nat) : Bool := Config.hostBase ≤ pa && pa < Config.hostEnd
def inRegs (pa : Nat) : Bool := Config.regBase ≤ pa && pa < Config.regEnd
def inStorage (pa : Nat) : Bool := inHbm pa || inHost pa
def reservedPa (pa : Nat) : Bool := !(inStorage pa || inRegs pa)
def dieOfPa (pa : Nat) : Nat := pa / Config.dieBytes
def lineOf (a : Nat) : Nat := a / 128 * 128

/-- The home slice of an address, numbered die × 48 + slice, for a requester on a die (R100). -/
def homeSlice (die pa : Nat) : Nat :=
  if inHbm pa then dieOfPa pa * 48 + (pa - dieOfPa pa * Config.dieBytes) / 128 % 48
  else die * 48 + pa / 128 % 48
/-- The set of a line in its slice (R445). -/
def homeSet (pa : Nat) : Nat :=
  if inHbm pa then (pa - dieOfPa pa * Config.dieBytes) / 6144 % 2048 else pa / 6144 % 2048

/-- A slice that evicts a line holds no replica of it any more (R127, R445). -/
def State.dropReplica (s : State) (slice line : Nat) : State :=
  let k := slice / 48 * 2 ^ 48 + line
  if s.replicaLines.contains k then
    { s with replicas := s.replicas.erase 8 k 128, replicaLines := s.replicaLines.filter (· ≠ k) }
  else s

/-- A home access fills the line's set where the line is absent, evicting a way the model leaves open (R445). -/
def State.touchL2 (s : State) (slice pa : Nat) : State :=
  let k := slice * 2048 + homeSet pa
  let set := s.l2.lookD k []
  if set.contains (lineOf pa) then s
  else if set.length < 16 then { s with l2 := s.l2.put k (set ++ [lineOf pa]) }
  else
    let (f, s) := s.tick
    let way := Config.l2Victim f % 16
    { s with l2 := s.l2.put k (set.eraseIdx way ++ [lineOf pa]) }.dropReplica slice (set.getD way 0)

/-! ### Lines mapped into a scratchpad (R108) -/

/-- The core whose completed mapping holds a line, the mapping's crew, and the scratchpad byte of the line. -/
def State.mappedLine (s : State) (line : Nat) : Option (Nat × Nat × Nat) :=
  s.cores.findSome? fun (c, k) =>
    k.maps.findSome? fun (_, m) =>
      if m.pending then none
      else match m.pas.findIdx? (· = line), s.crews.look m.crew with
        | some i, some w =>
          some (c, m.crew, c * 2 ^ 20 + (if c % 2 = 1 && w.paired then w.base2 else w.base) + (m.row + i) * 128)
        | _, _ => none

/-- Whether some mapping, complete or pending, names a line. -/
def State.mapNames (s : State) (line : Nat) : Bool :=
  s.cores.any fun (_, k) => k.maps.any fun (_, m) => m.pas.contains line
/-- Whether a pending mapping names a line: the home holds its accesses (R409). -/
def State.mapPending (s : State) (line : Nat) : Bool :=
  s.cores.any fun (_, k) => k.maps.any fun (_, m) => m.pending && m.pas.contains line

/-! ### Page classes at the home (R121 to R131) -/

/-- The COMPRESSED frame that a physical address lies in. -/
def State.frameAt (s : State) (pa : Nat) : Option (Nat × FrameInfo) :=
  s.frames.find? fun (b, f) => b ≤ pa && pa < b + f.size

/-- Every access at a home fills the line (R445), and the metadata line of a COMPRESSED page that it needs; `die` is the requester's. -/
def State.touchHome (s : State) (die pa : Nat) : State :=
  let s := s.touchL2 (homeSlice die pa) pa
  match s.frameAt pa with
  | some (b, f) =>
    let m := f.md + (lineOf pa - b) / 512
    s.touchL2 (homeSlice die m) m
  | none => s

def le32 (l : List Byte) (i : Nat) : Nat := leNat ((l.drop (4 * i)).take 4)

/-- Five counts of 4 bytes with a stream's added (R279); their poison stays. -/
def countsAdded (bs : List MByte) (cs : List Nat) : List MByte :=
  (List.range 5).flatMap fun i => (leBytes 4 (le32 (bs.map (·.1)) i + cs.getD i 0)).map fun b => (b, (bs.getD (4 * i) (0, false)).2)

/-- The mode of a compressed line, and whether its metadata granule is poisoned (R130, R411). -/
def lineMode (m : PMem) (md i : Nat) : Nat × Bool :=
  ((m.byte (md + i / 4)).toNat / 4 ^ (i % 4) % 4, m.poisoned ((md + i / 4) / 8))

/-- A compressed line as read (R130, R411). -/
def readCompressed (m : PMem) (base md line : Nat) : List MByte :=
  let (mode, bad) := lineMode m md ((line - base) / 128)
  let raw := m.read 8 line 128
  let bytes := raw.map (·.1)
  if bad then bytes.map fun b => (b, true)
  else if mode = 0 then raw
  else if mode = 1 then List.replicate 128 (0, false)
  else if mode = 2 then
    let p := m.poisoned (line / 8)
    (List.range 128).map fun i => (bytes.getD (i % 8) 0, p)
  else
    let p := (List.range 5).any fun u => m.poisoned (line / 8 + u)
    let b := leNat (bytes.take 4)
    let w (i : Nat) : Nat := trunc ((b : Int) + signExtend (bytes.getD (4 + i) 0).toNat 8) 32
    ((List.range 32).flatMap fun i => leBytes 4 (w i)).map fun x => (x, p)

/-- Writing a whole decompressed line in the mode R131 chooses; a line with poison is stored RAW (R411). -/
def writeCompressed (m : PMem) (base md line : Nat) (bs : List MByte) : PMem :=
  let i := (line - base) / 128
  let vals := bs.map (·.1)
  let w (k : Nat) : Int := signExtend (le32 vals k) 32
  let poisoned := bs.any (·.2)
  let (mode, stored) : Nat × List Byte :=
    if poisoned then (0, vals)
    else if vals.all (· = 0) then (1, [])
    else if (List.range 16).all (fun g => (vals.drop (8 * g)).take 8 = vals.take 8) then (2, vals.take 8)
    else if (List.range 32).all (fun k => decide (-128 ≤ w k - w 0) && decide (w k - w 0 ≤ 127)) then
      (3, vals.take 4 ++ (List.range 32).map fun k => BitVec.ofNat 8 (trunc (w k - w 0) 8))
    else (0, vals)
  let old := (m.byte (md + i / 4)).toNat
  let sh := 4 ^ (i % 4)
  let meta' := old - old / sh % 4 * sh + mode * sh
  let m := m.setByte (md + i / 4) (BitVec.ofNat 8 meta')
  if poisoned then m.writeM 8 line bs
  else (m.markRange 8 line 128 false (line / 8) 16).write 8 line stored false

/-- TAIL in a leaf's attribute word (R116). -/
def State.leafTail (s : State) (leaf : Nat) : Nat := leNat ((s.phys.read 8 (leaf + 12) 4).map (·.1)) % 2 ^ 25

/-- The tail an open or sealed APPEND frame shows: held at the home, else the leaf's TAIL field (R122). -/
def State.tailOf (s : State) (base leaf : Nat) : Nat :=
  match s.appended.look base with
  | some m => m.tail
  | none => s.leafTail leaf

/-- Whether a leaf is valid and maps a frame as APPEND (R116). -/
def State.mapsAppend (s : State) (leaf frame : Nat) : Bool :=
  let tw := leNat ((s.phys.read 8 leaf 8).map (·.1))
  tw % 2 = 1 && tw / 2 % 2 = 1 && bits tw 47 12 * 4096 = frame && (s.phys.byte (leaf + 8)).toNat % 4 = 1

/-- The APPEND page whose frame an address lies in (R404): the frame's base and its leaf, which is valid now. -/
def State.appendFrame (s : State) (pa : Nat) : Option (Nat × Nat) :=
  let at' (base size leaf : Nat) : Option (Nat × Nat) := if base ≤ pa && pa < base + size && s.mapsAppend leaf base then some (base, leaf) else none
  match s.appended.findSome? fun (b, m) => at' b m.size m.leaf with
  | some x => some x
  | none => s.walked.findSome? fun w => at' w.frame w.size w.leaf

/-- What a page-class view of a read is: none, or the base and tail of an APPEND page (R125). -/
abbrev TailView := Option (Nat × Nat)

/-- One byte's home value (R135): a mapped row, a decompressed line, an APPEND page below its tail, or the frame. -/
def State.homeLine (s : State) (line : Nat) (tv : TailView) : List MByte :=
  match s.mappedLine line with
  | some (_, _, a) => s.scratch.read 4 a 128
  | none =>
    match s.frameAt line with
    | some (b, f) => readCompressed s.phys b f.md line
    | none =>
      match tv with
      | some (b, t) => ((s.phys.read 8 line 128).zipIdx).map fun (x, i) => if line + i < b + t then x else (0, false)
      | none => s.phys.read 8 line 128

/-- Whether a line is a COMPRESSED one whose metadata cannot be read (R411). -/
def State.metaBad (s : State) (line : Nat) : Bool :=
  (s.mappedLine line).isNone && (match s.frameAt line with
    | some (b, f) => (lineMode s.phys f.md ((line - b) / 128)).2
    | none => false)

/-- Home values of `n` bytes, possibly of several lines. -/
def State.homeRead (s : State) (pa n : Nat) (tv : TailView := none) : List MByte :=
  if (s.frames.isEmpty && s.cores.all (fun (_, k) => k.maps.isEmpty)) && tv.isNone then s.phys.read 8 pa n
  else
    let k := (pa + n - 1) / 128 + 1 - pa / 128
    (((List.range k).flatMap fun i => s.homeLine (lineOf pa + 128 * i) tv).drop (pa % 128)).take n

/-- A line as the host and the system space read it: decompressed, with no other page class (R98, R131, R337). -/
def State.rawLine (s : State) (line : Nat) : List MByte :=
  match s.mappedLine line with
  | some (_, _, a) => s.scratch.read 4 a 128
  | none =>
    match s.frameAt line with
    | some (b, f) => readCompressed s.phys b f.md line
    | none => s.phys.read 8 line 128

/-- Bytes as the host and the system space read them. -/
def State.homeRaw (s : State) (pa n : Nat) : List MByte :=
  let k := (pa + n - 1) / 128 + 1 - pa / 128
  (((List.range k).flatMap fun i => s.rawLine (lineOf pa + 128 * i)).drop (pa % 128)).take n

/-- One piece of a home write that lies in one line. It fills an HBM line (R445); a host-window line is filled by its requester's die. -/
def State.homeWriteLine (s : State) (pa : Nat) (bs : List MByte) : State :=
  let s := if inHbm pa then s.touchHome 0 pa else s
  match s.mappedLine (lineOf pa) with
  | some (_, _, a) => { s with scratch := s.scratch.writeM 4 (a + pa % 128) bs }
  | none =>
    match s.frameAt pa with
    | some (b, f) =>
      let line := lineOf pa
      let old := readCompressed s.phys b f.md line
      let whole := (old.take (pa % 128)) ++ bs ++ old.drop (pa % 128 + bs.length)
      let keep (i : Nat) : Bool := -- a unit not covered whole keeps its poison (R367)
        let u := i / 8 * 8
        (pa % 128 ≤ u && u + 8 ≤ pa % 128 + bs.length) || !(old.getD i (0, false)).2
      let whole := whole.zipIdx.map fun (x, i) => if keep i then x else (x.1, true)
      { s with phys := writeCompressed s.phys b f.md line whole }
    | none => { s with phys := s.phys.writeM 8 pa bs }

/-- Lines of a write, structurally on a bound of their number. -/
def State.homeWriteLines (s : State) : Nat → Nat → List MByte → State
  | 0, _, _ => s
  | k + 1, pa, bs =>
    if bs.isEmpty then s
    else
      let n := 128 - pa % 128
      (s.homeWriteLine pa (bs.take n)).homeWriteLines k (pa + n) (bs.drop n)

/-- A write performed at its home. -/
def State.homeWrite (s : State) (pa : Nat) (bs : List MByte) : State :=
  s.homeWriteLines (bs.length / 128 + 2) pa bs

/-- The seal state that the leaf's attribute word holds (R116). -/
def State.leafSst (s : State) (leaf : Nat) : Nat := (s.phys.byte (leaf + 8)).toNat / 64

/-- Whether a page is sealed, as its home knows (R122, R126). -/
def State.sealedAt (s : State) (base leaf : Nat) : Bool :=
  match s.appended.look base with
  | some m => m.shut
  | none => s.leafSst leaf = 1

/-- An APPEND leaf that the home finds invalid (R116, R399 reason 7). -/
def State.badAppend (s : State) (leaf size : Nat) : Bool :=
  2 ≤ s.leafSst leaf || s.leafTail leaf % 8 ≠ 0 || size < s.leafTail leaf

/-- Replicas of a sealed page on the reading die (R127): the replica's bytes, filled from the home slice on a miss. -/
def State.replicaRead (s : State) (die pa n : Nat) (tv : TailView) : List MByte × State :=
  let line := lineOf pa
  let k := die * 2 ^ 48
  let s := if s.replicaLines.contains (k + line) then s
    else
      let s := (s.touchHome die pa).touchL2 (die * 48 + homeSlice die pa % 48) pa
      { s with replicas := s.replicas.writeM 8 (k + line) (s.homeLine line tv), replicaLines := (k + line) :: s.replicaLines }
  (s.replicas.read 8 (k + pa) n, s)

/-! ### L1 views (R101, R135, R137) -/

/-- Where an L1 view keeps the byte of an address: a physical address, or 2^64 plus the pointer of a remote line. -/
def l1Key (core ctx a : Nat) : Nat := (core * 256 + ctx) * 2 ^ 80 + a
def remoteAddr (ptr : Nat) : Nat := 2 ^ 64 + ptr

/-- The physical address of a view's address at its home (R371, R412): of a remote line the target's, as the answer that filled the line told it, else what the pointer gives (log 60). -/
def State.homePa (s : State) (core ctx a : Nat) : Nat :=
  if a < 2 ^ 64 then a
  else match s.farPa.look (l1Key core ctx (lineOf a)) with
    | some p => p + a % 128
    | none => a - 2 ^ 64

def State.l1Has (s : State) (core ctx a n : Nat) : Bool :=
  (List.range n).all fun i => (s.l1.look (l1Key core ctx (a + i))).isSome
def State.l1Bytes (s : State) (core ctx a n : Nat) : List MByte :=
  (List.range n).map fun i =>
    let k := l1Key core ctx (a + i)
    (((s.l1.look k).map (·.val)).getD 0, s.l1psn.lookD (k / 8) false)

/-- Fills a line: every byte that is not dirty becomes a clean copy (R137). A unit with a dirty byte keeps its own poison too. -/
def fillFrom (l1 : FMap L1Cell) (key : Nat) : List (MByte × Nat) → FMap L1Cell
  | [] => l1
  | (b, i) :: r =>
    let k := key + i
    let l1 := match l1.look k with
      | some c => if c.dirty then l1 else l1.put k ⟨b.1, false, false⟩
      | none => l1.put k ⟨b.1, false, false⟩
    fillFrom l1 key r
def fillPsn (l1 : FMap L1Cell) (key : Nat) (bs : List MByte) : Nat → FMap Bool → FMap Bool
  | 0, p => p
  | u + 1, p =>
    let ks := (List.range 8).map fun i => key + 8 * u + i
    let stays := ks.any (fun k => ((l1.look k).map (·.dirty)).getD false) && p.lookD (key / 8 + u) false
    let p := if stays || ((bs.drop (8 * u)).take 8).any (·.2) then p.put (key / 8 + u) true else p.del (key / 8 + u)
    fillPsn l1 key bs u p
def State.l1Fill (s : State) (core ctx line : Nat) (bs : List MByte) : State :=
  let key := l1Key core ctx line
  { s with l1 := fillFrom s.l1 key bs.zipIdx, l1psn := fillPsn s.l1 key bs 16 s.l1psn }

/-- Stores bytes into the view as dirty (R137), with poison as R367 says of a granule. -/
def l1Put (l1 : FMap L1Cell) : Nat → List Byte → FMap L1Cell
  | _, [] => l1
  | k, b :: r => l1Put (l1.put k ⟨b, true, false⟩) (k + 1) r
def State.l1Write (s : State) (core ctx a : Nat) (bs : List MByte) : State :=
  let key := l1Key core ctx a
  let marks : PMem := { cells := [], psn := s.l1psn }
  let marks := (marks.markRange 8 key bs.length false (key / 8) ((key + bs.length - 1) / 8 + 1 - key / 8)).markBytes 8 key bs
  { s with l1 := l1Put s.l1 key (bs.map (·.1)), l1psn := marks.psn }

/-- Bytes of a view that satisfy a test on their address and cell, by address. -/
def State.l1Select (s : State) (core ctx : Nat) (p : Nat → L1Cell → Bool) : List Nat :=
  s.l1.filterMap fun (k, c) =>
    let a := k % 2 ^ 80
    if k / 2 ^ 80 = core * 256 + ctx && p a c then some a else none

/-- Drops the clean bytes of a view whose address satisfies a test. -/
def State.l1Drop (s : State) (core ctx : Nat) (p : Nat → Bool) : State :=
  let l1 := s.l1.filter fun (k, c) => !(k / 2 ^ 80 = core * 256 + ctx && p (k % 2 ^ 80) && !c.dirty)
  { s with l1 := l1, l1psn := s.l1psn.filter fun (u, _) => l1.any fun (k, _) => k / 8 = u }

/-- Makes bytes clean after their write-back (R137). -/
def State.l1Clean (s : State) (core ctx a n : Nat) : State :=
  { s with l1 := s.l1.map fun (k, c) =>
      if k / 2 ^ 80 = core * 256 + ctx && a ≤ k % 2 ^ 80 && k % 2 ^ 80 < a + n then (k, { c with dirty := false, sent := false }) else (k, c) }

/-- Marks bytes as on their way to a remote home (R149). -/
def State.l1Send (s : State) (core ctx a n : Nat) : State :=
  { s with l1 := s.l1.map fun (k, c) =>
      if k / 2 ^ 80 = core * 256 + ctx && a ≤ k % 2 ^ 80 && k % 2 ^ 80 < a + n then (k, { c with sent := true }) else (k, c) }

/-- Removes bytes of a view whatever their mark. -/
def State.l1Remove (s : State) (core ctx a n : Nat) : State :=
  let l1 := s.l1.filter fun (k, _) => !(k / 2 ^ 80 = core * 256 + ctx && a ≤ k % 2 ^ 80 && k % 2 ^ 80 < a + n)
  { s with l1 := l1, l1psn := s.l1psn.filter fun (u, _) => l1.any fun (k, _) => k / 8 = u }

/-- The lines that a core's L1 holds, of every context, numbered by their keys. -/
def State.l1Lines (s : State) (core : Nat) : List Nat :=
  (s.l1.filterMap fun (k, _) => if k / 2 ^ 88 = core then some (k / 128) else none).eraseDups
/-- Whether a core's L1 holds as many lines as it has frames (R15). -/
def State.l1Full (s : State) (core : Nat) : Bool := Config.l1Lines ≤ s.l1.length && Config.l1Lines ≤ (s.l1Lines core).length
def State.l1HasLine (s : State) (core ctx a : Nat) : Bool := s.l1.any fun (k, _) => k / 128 = l1Key core ctx a / 128

/-! ### Single copies -/

/-- The byte of a core's scratchpad that an offset of a crew's allocation names (R104, R105). -/
def Crew.scratchByte (c : Crew) (core off : Nat) : Nat :=
  core * 2 ^ 20 + (if c.paired && core % 2 = 1 then c.base2 else c.base) + off
def State.scratchRead (s : State) (a n : Nat) : List MByte := s.scratch.read 4 a n
def State.scratchWrite (s : State) (a : Nat) (bs : List MByte) : State := { s with scratch := s.scratch.writeM 4 a bs }
/-- A byte of a tile row (R109) and of a bank column (R110, R254). -/
def tileByte (core row b : Nat) : Nat := core * 2 ^ 22 + row * 512 + b
def bankByte (core bank col b : Nat) : Nat := (core * 2 + bank) * 2 ^ 22 + col * 2 ^ 15 + b

end Sys2Proof.Machine
end

