-- ==== Sys2Proof/Machine/Record.lean ====
section
/-! DEFINITION. The fault log of a context (R369, R370), the records that no thread makes (R375), and Lacewing's management log. -/

namespace Sys2Proof.Machine

def State.homeNat (s : State) (pa n : Nat) : Nat := leNat ((s.homeRead pa n).map (·.1))

/-! ### Whose clock and number a record carries -/

/-- Who makes a thread's accesses: its core, or its queue core numbered on from the cores. -/
def whoOf (t : Nat) : Nat := if isQueueTid t then Config.cores + queueOf t / 8 else coreOf t

/-- The %core value of a core (R10), or of a queue core numbered on from the cores (R63, R378). -/
def coreValue (c : Nat) : Nat := if c < Config.cores then dieOfCore c * 256 + c % 48 else 0x3f8 + (c - Config.cores)

/-- The elapsed time of a core or queue core (R43, R45). -/
def State.etimeAt (s : State) (c : Nat) : Nat :=
  if c < Config.cores then (s.core c).etime.toNat else (1000 * (s.qcore (c - Config.cores)).cyc.toNat) % 2 ^ 64

/-- Elapsed time between two readings of a counter. -/
def elapsed (now since : Nat) : Nat := (now + 2 ^ 64 - since) % 2 ^ 64

/-- WHERE of a record that no thread made (R375, R401). -/
def whereNoThread (core ctx : Nat) : Nat := coreValue core * 2 ^ 22 + 127 * 2 ^ 15 + 127 * 2 ^ 8 + ctx

/-- The die from which a core's requests come; a queue core lies on the H-die, and its requests count as the home die's own. -/
def dieOfWho (c pa : Nat) : Nat := if c < Config.cores then dieOfCore c else dieOfPa pa % 4

/-! ### The fault log (R369 to R371) -/

/-- A fault record but for SEQ (R370). -/
structure Rec where
  pc : Nat := 0
  addr : Nat := 0
  etime : Nat := 0
  insn : Nat := 0
  cause : Nat
  wher : Nat
  grid : Nat := 0
  d0 : Nat := 0
  d1 : Nat := 0
  deriving DecidableEq, Repr

def causeWord (trap psn nest : Bool) (level group code : Nat) : Nat :=
  trap.toNat * 2 ^ 30 + psn.toNat * 2 ^ 29 + nest.toNat * 2 ^ 28 + level * 2 ^ 24 + group * 2 ^ 16 + code

def Rec.bytes (r : Rec) (seq : Nat) : List Byte :=
  leBytes 8 seq ++ leBytes 8 r.pc ++ leBytes 8 r.addr ++ leBytes 8 r.etime ++ leBytes 4 r.insn ++ leBytes 4 r.cause
    ++ leBytes 4 r.wher ++ leBytes 4 r.grid ++ leBytes 8 r.d0 ++ leBytes 8 r.d1

def clean (bs : List Byte) : List MByte := bs.map fun b => (b, false)

/-- Raises an MSI-X vector (R337): a masked one leaves its pending bit set. -/
def State.raise (s : State) (v : Nat) : State :=
  if s.msixOpen.contains v then { s with msix := s.msix ++ [v] }
  else if s.msixPending.contains v then s
  else { s with msixPending := v :: s.msixPending }

/-- The host sets or clears the mask of a vector (R337); a pending vector that it unmasks is sent. Log 53. -/
def State.maskVector (s : State) (v : Nat) (on : Bool) : State :=
  if 66 ≤ v then s
  else if on then { s with msixOpen := s.msixOpen.filter fun x => x ≠ v }
  else
    let s := if s.msixOpen.contains v then s else { s with msixOpen := v :: s.msixOpen }
    if s.msixPending.contains v then { s with msixPending := s.msixPending.filter fun x => x ≠ v, msix := s.msix ++ [v] } else s

/-- An entry of Lacewing's management log, with vector 65 (R337). -/
def State.manage (s : State) (code detail : Nat) : State := { s with mgmt := s.mgmt ++ [(code, detail)] }.raise 65

/-- Whether a fault-log header is poisoned (R434 reason 2). -/
def State.headerBad (s : State) (c : Context) : Bool := (s.homeRaw c.flbase 64).any (·.2)

/-- Writes a record into a context's fault log (R369): its SEQ, and whether it was dropped. A log whose header is poisoned takes none: its context is aborted (R434). -/
def State.logFault (s : State) (ctx : Nat) (r : Rec) : State × Nat × Bool :=
  match s.contexts.look ctx with
  | none => (s, 0, true)
  | some c =>
    let head := s.homeNat c.flbase 8
    let ack := s.homeNat (c.flbase + 8) 8
    let s := s.touchHome (dieOfPa c.flbase % 4) c.flbase
    if s.headerBad c then (s, head, true)
    else if head < ack + 2 ^ c.logn then
      let slot := c.flbase + 64 + 64 * (head % 2 ^ c.logn)
      let s := (s.touchHome (dieOfPa slot % 4) slot).homeWrite slot (clean (r.bytes head))
      ((s.homeWrite c.flbase (clean (leBytes 8 (head + 1)))).raise 65, head, false)
    else
      let drop := s.homeNat (c.flbase + 16) 8
      ((s.homeWrite (c.flbase + 16) (clean (leBytes 8 (drop + 1)))).raise 65, head, true)

/-- The record of a poisoned granule read by no thread (R375). -/
def State.logPoison (s : State) (core ctx code pa : Nat) : State :=
  (s.logFault ctx { etime := s.etimeAt core, cause := causeWord false true false 0 10 code, wher := whereNoThread core ctx, d0 := pa }).1

/-- The CODE of R375 for a read at a home: L2 where the line is present, else HBM. -/
def State.homeCode (s : State) (die pa : Nat) : Nat :=
  if (s.l2.lookD (homeSlice die pa * 2048 + homeSet pa) []).contains (lineOf pa) then 4 else 5

/-- A page walker's read of an entry at its home (R117): it fills the home's L2 (R445), and its poisoned granules are recorded (R375). -/
def State.walkRead (s : State) (core ctx e : Nat) : State :=
  let die := dieOfWho core e
  let code := s.homeCode die e
  let bad := [e, e + 8].filter fun a => ((s.homeRead a 8).any (·.2))
  bad.foldl (fun s a => s.logPoison core ctx code a) (s.touchHome die e)

end Sys2Proof.Machine
end

