-- ==== Sys2Proof/Machine/Translate.lean ====
section
/-! DEFINITION. Bounds checks, the page walk with its AC and D bits, cached translations, and the failures they record (R111 to R119, R399). -/

namespace Sys2Proof.Machine

/-- What an access needs (R112, R115): reads, writes, both, atomics, fetches, APPEND and SEAL. -/
inductive Need where
  | read
  | write
  | readWrite
  | rmw
  | fetch
  | append
  deriving DecidableEq, Repr

def Need.writes : Need → Bool
  | .write | .readWrite | .rmw | .append => true
  | .read | .fetch => false

/-- A successful translation: where the byte is, and the attributes of its leaf (R116). -/
structure Tr where
  pa : Nat
  cls : Nat := 0
  owner : Bool := false
  md : Nat := 0
  leaf : Nat := 0
  psize : Nat := 65536
  remote : Option (Nat × Nat) := none
  /-- The bounds entry it passed (R112). -/
  base : Nat := 0
  limit : Nat := 0
  ctl : Nat := 0
  deriving DecidableEq, Repr

def regionOf (p : Nat) : Nat := p / 2 ^ 56 % 256
def vaOf (p : Nat) : Nat := p % 2 ^ 56
/-- Adding an offset to a pointer keeps the region (R111). -/
def ptrAdd (p : Nat) (off : Int) : Nat := p / 2 ^ 56 * 2 ^ 56 + trunc (vaOf p + off) 56
/-- A PC moved by an offset: it is a pointer, whose region stays (R111, R151, R153). -/
def pcAdd (pc : Dword) (off : Int) : Dword := BitVec.ofNat 64 (ptrAdd pc.toNat off)

/-- The failure of an access homed on a fenced die (R431, R433). -/
def State.fencedErr (s : State) (pa : Nat) : Option MemErr :=
  if inHbm pa && (s.die (dieOfPa pa)).fenced then some { group := 9, code := 3, d1 := dieOfPa pa } else none

/-- A bounds entry (R112): BASE, LIMIT, CTL. -/
structure Bounds where
  base : Nat
  limit : Nat
  ctl : Nat
  deriving DecidableEq, Repr

/-- The bounds-table entry of a region (R112); its reserved bits play no part (log 56). -/
def State.boundsOf (s : State) (btab g : Nat) : Bounds :=
  ⟨s.homeNat (btab + 32 * g) 8 % 2 ^ 56, s.homeNat (btab + 32 * g + 8) 8 % 2 ^ 56, s.homeNat (btab + 32 * g + 16) 8⟩

def bit (v i : Nat) : Bool := v / 2 ^ i % 2 = 1

def Bounds.permits (b : Bounds) : Need → Bool
  | .read => bit b.ctl 1
  | .write => bit b.ctl 2
  | .readWrite => bit b.ctl 1 && bit b.ctl 2
  | .rmw => bit b.ctl 2 && bit b.ctl 3
  | .fetch => bit b.ctl 4
  | .append => bit b.ctl 5

/-- The bounds check of R113 with the reasons of R399. -/
def Bounds.check (b : Bounds) (va n : Nat) (k : Need) : Option MemErr :=
  let bad (r : Nat) : Option MemErr := some { code := 2, reason := r, d1 := b.ctl }
  if !bit b.ctl 0 then bad 1
  else if va < b.base then bad 2
  else if b.limit < va + n - 1 then bad 3
  else if !b.permits k then bad 4
  else none

/-- Bytes a leaf at a level maps (R114). -/
def leafSize (lvl : Nat) : Nat := 2 ^ (16 + 8 * lvl)

def leafPermits (tw : Nat) : Need → Bool
  | .read => bit tw 4
  | .write | .rmw | .append => bit tw 5
  | .readWrite => bit tw 4 && bit tw 5
  | .fetch => bit tw 6

/-- MDPA × 128 of a COMPRESSED leaf (R116, R130). -/
def mdOf (aw : Nat) : Nat := bits aw 56 25 * 128

/-- Why a page-table entry is invalid (R114 to R116), as a REASON of R399. -/
def entryReason (lvl tw aw : Nat) : Option Nat :=
  let leaf := bit tw 1
  let pa := bits tw 47 12 * 4096
  let cls := aw % 4
  if leaf && 3 ≤ lvl then some 1
  else if !leaf && lvl = 0 then some 2
  else if leaf && pa % leafSize lvl ≠ 0 then some 3
  else if bits tw 63 48 ≠ 0 || bits tw 11 9 ≠ 0 || bits tw 3 2 ≠ 0 then some 4
  else if leaf && (bits aw 63 57 ≠ 0 || bits aw 24 8 ≠ 0 || bits aw 4 2 ≠ 0) then some 4
  else if !leaf && aw ≠ 0 then some 5
  else if !leaf then none
  else if cls = 1 && lvl = 2 then some 6
  else if cls = 3 && (!inHbm pa || Config.hbmEnd < mdOf aw + leafSize lvl / 512) then some 6
  else if cls ≠ 3 && bits aw 31 25 ≠ 0 then some 6
  else if cls ≠ 2 && bit aw 5 then some 6
  else none

/-- Sets a bit of a translation word at its home (R115). -/
def State.orByte (s : State) (pa v : Nat) : State :=
  let b := (s.homeRead pa 1).headD (0, false)
  if b.1.toNat / v % 2 = 1 then s
  else s.homeWrite pa [(BitVec.ofNat 8 (b.1.toNat + v), b.2)]

/-- What a walk finds: the leaf's address, words and level. -/
structure Walked where
  leaf : Nat
  tw : Nat
  aw : Nat
  lvl : Nat
  deriving DecidableEq, Repr

/-- Why a page walker cannot read an entry at all: a reserved address (R99), a fenced die (R433). -/
def State.tableErr (s : State) (e lvl : Nat) : Option MemErr :=
  if reservedPa e then some { code := 7, lvl := lvl, d1 := e } else s.fencedErr e

/-- The page walk (R114, R115) on behalf of a core and a context from a table, with the levels left. -/
def walk (core ctx va : Nat) (k : Need) : Nat → Nat → State → State × Except MemErr Walked
  | 0, _, s => (s, .error { code := 3, lvl := 0 })
  | n + 1, tbl, s =>
    let e := tbl + 16 * bits va (8 * n + 23) (8 * n + 16)
    match s.tableErr e n with
    | some f => (s, .error f)
    | none =>
    let s := s.walkRead core ctx e
    let tw := s.homeNat e 8
    let aw := s.homeNat (e + 8) 8
    if !bit tw 0 then (s, .error { code := 3, lvl := n, d1 := tw })
    else match entryReason n tw aw with
      | some r => (s, .error { code := 4, reason := r, lvl := n, d1 := tw })
      | none =>
        let s := s.orByte e 128
        if bit tw 1 then
          if leafPermits tw k then (s, .ok ⟨e, tw, aw, n⟩)
          else (s, .error { code := 5, lvl := n, d1 := tw })
        else walk core ctx va k n (bits tw 47 12 * 4096) s

def Tlb.matches (e : Tlb) (ctx ptr : Nat) : Bool :=
  e.ctx = ctx && regionOf e.va = regionOf ptr && vaOf e.va ≤ vaOf ptr && vaOf ptr < vaOf e.va + e.size

/-- A translation by a cached entry (R118): it sets neither AC nor D, and no walk decides a permission that it lacks (R398). -/
def Tlb.use (e : Tlb) (ptr n : Nat) (k : Need) : Except MemErr Tr :=
  match (Bounds.mk e.base e.limit e.ctl).check (vaOf ptr) n k with
  | some f => .error f
  | none =>
    if leafPermits e.tw k then
      .ok { pa := e.pa + (vaOf ptr - vaOf e.va), cls := e.cls, owner := e.owner, md := e.md, leaf := e.leaf, psize := e.size, base := e.base, limit := e.limit, ctl := e.ctl }
    else .error { code := 5, d1 := e.tw }

/-- A frame that a translation as COMPRESSED makes known to its home (R130), until one as PLAIN or APPEND. -/
def State.noteFrame (s : State) (base size cls md leaf : Nat) : State :=
  if cls = 3 then { s with frames := s.frames.put base { size := size, leaf := leaf, md := md } }
  else if cls ≤ 1 then { s with frames := s.frames.del base }
  else s

/-- What a page walker has found for a page: its frame, which a RECLAIM of the page names (R128), in place of what was found before. -/
def State.noteWalk (s : State) (ctx va size frame leaf : Nat) : State :=
  let w : Found := ⟨ctx, va, size, frame, leaf⟩
  if s.walked.contains w then s else { s with walked := w :: s.walked.filter fun x => !(x.ctx = ctx && x.va = va) }

/-- The size of the page that a pointer lies in, as walkers found it. -/
def State.pageSize (s : State) (ctx ptr : Nat) : Nat :=
  ((s.walked.find? fun w => w.ctx = ctx && decide (w.va ≤ vaOf ptr) && decide (vaOf ptr < w.va + w.size)).map (·.size)).getD 65536

/-- The valid leaves below a table, each with its level: `n` levels are left. -/
def State.leavesBelow (s : State) : Nat → Nat → List (Nat × Nat)
  | 0, _ => []
  | n + 1, tbl =>
    (s.phys.cells.filter fun (a, b) => tbl ≤ a && a < tbl + 4096 && (a - tbl) % 16 = 0 && b.toNat % 2 = 1).flatMap fun (e, _) =>
      let tw := s.homeNat e 8
      if (entryReason n tw (s.homeNat (e + 8) 8)).isSome then []
      else if bit tw 1 then [(e, n)] else leavesBelow s n (bits tw 47 12 * 4096)

/-- COMPRESSED leaves of every context's tables (R130), as the frames their homes know. -/
def State.compressedFrames (s : State) : FMap FrameInfo :=
  ((s.contexts.flatMap fun (_, c) => s.leavesBelow 5 c.ptroot).filter fun (e, _) => s.homeNat (e + 8) 1 % 4 = 3).foldl
    (fun m (e, n) => m.put (bits (s.homeNat e 8) 47 12 * 4096) { size := leafSize n, leaf := e, md := mdOf (s.homeNat (e + 8) 8) }) []

/-- Whether something still holds a frame as COMPRESSED though its leaf does not: a cached translation, a dirty byte of a view, a pending access (R131). -/
def State.stillCompressed (s : State) (base : Nat) (f : FrameInfo) : Bool :=
  let inside (a : Nat) : Bool := decide (base ≤ a) && decide (a < base + f.size)
  let held (e : Tlb) : Bool := e.cls = 3 && inside e.pa
  s.cores.any (fun (_, c) => c.tlb.any held || c.lastPage.any fun x => held x.2)
    || s.l1.any (fun (k, c) => c.dirty && inside (k % 2 ^ 80))
    || s.pend.any fun o => o.place = 0 && inside o.pa

/-- When entries that software wrote take effect (R117, R131), homes learn which frames are COMPRESSED. -/
def State.noteTables (s : State) : State :=
  let new := s.compressedFrames
  { s with frames := new.foldl (fun m (b, f) => m.put b f) (s.frames.filter fun (b, f) => (new.look b).isSome || s.stillCompressed b f) }

/-- The failure that a peer's error word and D1 stand for (R413): CODE in bits 15:0, GROUP in 23:16, REASON in 31:24, LVL in 34:32. -/
def remoteErr (err aux : Nat) : MemErr :=
  { group := bits err 23 16, code := err % 2 ^ 16, reason := bits err 31 24, lvl := bits err 34 32, d1 := aux, rem := true }
def MemErr.word (e : MemErr) : Nat := e.code + e.group * 2 ^ 16 + e.reason * 2 ^ 24 + e.lvl * 2 ^ 32

/-- The translation of one access by the tables (R113 to R116), with the entry a TLB would keep. -/
def State.walkAccess (s : State) (core ctx ptr n : Nat) (k : Need) : State × Except MemErr (Tr × Option Tlb) :=
  match s.contexts.look ctx with
  | none => (s, .error { code := 2, reason := 1 })
  | some c =>
    let b := s.boundsOf c.btab (regionOf ptr)
    let s := s.touchHome (dieOfWho core c.btab) (c.btab + 32 * regionOf ptr)
    match b.check (vaOf ptr) n k with
    | some f => (s, .error f)
    | none =>
      if bit b.ctl 6 then (s, .ok ({ pa := remoteAddr ptr, remote := some (bits b.ctl 28 16, bits b.ctl 15 8) }, none))
      else
        match walk core ctx (vaOf ptr) k 5 c.ptroot s with
        | (s, .error f) => (s, .error f)
        | (s, .ok w) =>
          let size := leafSize w.lvl
          let frame := bits w.tw 47 12 * 4096
          let pa := frame + vaOf ptr % size
          let s := if k.writes then s.orByte (w.leaf + 1) 1 else s
          if reservedPa pa then (s, .error { code := 7, d1 := pa })
          else
            let cls := w.aw % 4
            let s := (s.noteFrame frame size cls (mdOf w.aw) w.leaf).noteWalk ctx (vaOf ptr / size * size) size frame w.leaf
            let e : Tlb :=
              { ctx := ctx, va := ptr / size * size, size := size, base := b.base, limit := b.limit, ctl := b.ctl, pa := frame,
                tw := w.tw, cls := cls, owner := bit w.aw 5, md := mdOf w.aw, leaf := w.leaf }
            (s, .ok ({ pa := pa, cls := cls, owner := bit w.aw 5, md := mdOf w.aw, leaf := w.leaf, psize := size, base := b.base, limit := b.limit, ctl := b.ctl }, some e))

/-- The translation of a lane's access (R118): its last-page register first, then the TLB where the model lets it be used (log 8), then the tables. -/
def State.translate (s : State) (core lane ctx ptr n : Nat) (k : Need) : State × Except MemErr Tr :=
  let c := s.core core
  match (c.lastPage.look lane).filter (·.matches ctx ptr) with
  | some e => (s, e.use ptr n k)
  | none =>
    let fromTables (s : State) : State × Except MemErr Tr :=
      match s.walkAccess core ctx ptr n k with
      | (s, .error f) => (s, .error f)
      | (s, .ok (tr, none)) => (s, .ok tr)
      | (s, .ok (tr, some e)) =>
        let c := s.core core
        (s.setCore core { c with tlb := e :: c.tlb, lastPage := c.lastPage.put lane e }, .ok tr)
    match c.tlb.find? (·.matches ctx ptr) with
    | none => fromTables s
    | some e =>
      let (f, s) := s.tick
      if Config.tlbUse f then
        (s.setCore core { s.core core with lastPage := (s.core core).lastPage.put lane e }, e.use ptr n k)
      else fromTables s

/-- The translation of any thread's access: a queue core and an engine have no last-page register. -/
def State.translateFor (s : State) (tid ptr n : Nat) (k : Need) : State × Except MemErr Tr :=
  if isQueueTid tid then
    match s.walkAccess (whoOf tid) (s.ctxOf tid) ptr n k with
    | (s, .error f) => (s, .error f)
    | (s, .ok (tr, _)) => (s, .ok tr)
  else s.translate (coreOf tid) (laneOf tid) (s.ctxOf tid) ptr n k

/-- The translation of an access no lane makes, on behalf of a core: engines, spills, fetches. It walks the tables (log 57). -/
def State.translateEngine (s : State) (core ctx ptr n : Nat) (k : Need) : State × Except MemErr Tr :=
  match s.walkAccess core ctx ptr n k with
  | (s, .error f) => (s, .error f)
  | (s, .ok (tr, _)) => (s, .ok tr)

end Sys2Proof.Machine
end

