-- ==== Sys2Proof/Machine/Ops.lean ====
section
/-! DEFINITION. Registers, fault records, releases and acquires, phasers, window moves, and taking a trap: the operations that every family shares. -/

namespace Sys2Proof.Machine

/-! ### Registers (R51, R59) -/

def Thread.reg (x : Thread) (i : Nat) : RVal := x.regs.lookD (x.wb + i) {}
/-- A write of a register replaces what its word held, an error with it. -/
def Thread.setPos (x : Thread) (p : Nat) (v : RVal) : Thread := { x with regs := x.regs.put p v, latent := x.latent.filter (· ≠ p) }
def Thread.setReg (x : Thread) (i : Nat) (v : RVal) : Thread := x.setPos (x.wb + i) v
def Thread.areg' (x : Thread) (k : Nat) : RVal := x.areg.lookD k {}
def Thread.setAreg (x : Thread) (k : Nat) (v : RVal) : Thread := { x with areg := x.areg.put k v, latent := x.latent.filter (· ≠ 4096 + k) }

/-- Writes words to consecutive stack positions. -/
def Thread.setWords (x : Thread) : Nat → List RVal → Thread
  | _, [] => x
  | p, v :: r => (x.setPos p v).setWords (p + 1) r

/-- The 32-bit words of a number, lowest first. -/
def words : Nat → Nat → List Word
  | 0, _ => []
  | n + 1, v => BitVec.ofNat 32 v :: words n (v / 2 ^ 32)

/-- The elapsed time of a thread's core or queue core (R43, R45). -/
def State.etimeOf (s : State) (t : Nat) : Nat := s.etimeAt (whoOf t)
/-- WHERE of a record about a thread (R370, R378). -/
def whereField (s : State) (t : Nat) : Nat :=
  if isQueueTid t then (0x3f8 + queueOf t / 8) * 2 ^ 22 + s.ctxOf t
  else coreValue (coreOf t) * 2 ^ 22 + slotOf t * 2 ^ 15 + laneOf t * 2 ^ 8 + s.ctxOf t
/-! ### Releases and acquires (R139, R140) -/

/-- The dirty bytes of a line that its home does not take are discarded, with one record (R404, R433). -/
def State.discardLine (s : State) (core ctx line group code d0 d1 : Nat) : State :=
  let as := s.l1Select core ctx fun a c => c.dirty && lineOf a = line
  if as.isEmpty then s
  else
    let s := as.foldl (fun s a => s.l1Remove core ctx a 1) s
    let r : Rec :=
      { addr := line, etime := (s.core core).etime.toNat, wher := whereNoThread core ctx, d1 := d1,
        cause := causeWord false false false 0 group code, d0 := if group = 9 then d0 else d0 + as.length * 2 ^ 32 }
    (s.logFault ctx r).1

/-- Why a home does not take a write-back: its die is fenced, or the frame is that of an APPEND page, which a leaf still maps (R404, R406, R433). -/
def State.refuses (s : State) (a : Nat) : Option (Nat × Nat × Nat × Nat) :=
  if inHbm a && (s.die (dieOfPa a)).fenced then some (9, 3, dieOfPa a, 0)
  else (s.appendFrame a).map fun (b, leaf) => (2, if s.sealedAt b leaf then 0xb else 0xa, 7 * 2 ^ 44 + 6 * 2 ^ 40, s.tailOf b leaf)

/-- Whether a write of a DUAL copy not yet matched, or of a SAMPLED shadow, keeps a byte of a view from its home (R298, R299). -/
def State.withheld (s : State) (core ctx a : Nat) : Bool :=
  s.duals.any fun d => d.op.core = core && d.op.ctx = ctx && decide (d.op.pa ≤ a) && decide (a < d.op.pa + d.op.size)

/-- Whether a home holds the write-back of a byte, whose line a pending mapping names (R409). -/
def State.homeHolds (s : State) (a : Nat) : Bool := a < 2 ^ 64 && s.mapPending (lineOf a)

/-- Whether a release from a core waits: for the comparator (R298), or for a home that holds a write-back (R409). -/
def State.unmatched (s : State) (core ctx : Nat) : Bool :=
  s.duals.any (fun d => !d.shadow && d.op.core = core && d.op.ctx = ctx)
    || (s.cores.any (fun (_, k) => k.maps.any (·.2.pending)) && !(s.l1Select core ctx fun a c => c.dirty && s.homeHolds a).isEmpty)

/-- One dirty byte written back to its home (R137). -/
def State.writeBackByte (s : State) (core ctx a : Nat) : State :=
  let k := l1Key core ctx a
  match s.l1.look k with
  | none => s
  | some c =>
    if !c.dirty || 2 ^ 64 ≤ a || s.withheld core ctx a || s.homeHolds a then s
    else ((s.touchHome (dieOfCore core) a).homeWrite a [(c.val, s.l1psn.lookD (k / 8) false)]).l1Clean core ctx a 1

/-- The dirty bytes of one naturally aligned 8-byte unit, written back as one step where they fill the unit (R138); a poisoned unit is recorded (R375). -/
def State.writeBackUnit (s : State) (core ctx u : Nat) : State :=
  let dirtyAt (a : Nat) : Bool := ((s.l1.look (l1Key core ctx a)).map (·.dirty)).getD false
  if s.homeHolds u then s
  else match s.refuses u with
  | some (g, c, d0, d1) => s.discardLine core ctx (lineOf u) g c d0 d1
  | none =>
    let s := if s.l1psn.lookD (l1Key core ctx u / 8) false && (List.range 8).any (fun i => dirtyAt (u + i) && !s.withheld core ctx (u + i)) then
        s.logPoison core ctx 3 u
      else s
    if 2 ^ 64 ≤ u || !(List.range 8).all (fun i => dirtyAt (u + i) && !s.withheld core ctx (u + i)) then
      (List.range 8).foldl (fun s i => s.writeBackByte core ctx (u + i)) s
    else ((s.touchHome (dieOfCore core) u).homeWrite u (s.l1Bytes core ctx u 8)).l1Clean core ctx u 8

/-- One dirty byte alone (R137): refused or recorded as the bytes of a unit are. -/
def State.writeBackOne (s : State) (core ctx a : Nat) : State :=
  if !((s.l1.look (l1Key core ctx a)).any (·.dirty)) || s.withheld core ctx a || s.homeHolds a then s
  else match s.refuses a with
    | some (g, c, d0, d1) => s.discardLine core ctx (lineOf a) g c d0 d1
    | none => (if s.l1psn.lookD (l1Key core ctx a / 8) false then s.logPoison core ctx 3 (a / 8 * 8) else s).writeBackByte core ctx a

/-- Writes back every dirty byte of a context on a core that is homed on this device (R139). -/
def State.writeBackAll (s : State) (core ctx : Nat) (p : Nat → Bool := fun _ => true) : State :=
  let units := ((s.l1Select core ctx fun a c => c.dirty && a < 2 ^ 64 && p a).map (· / 8 * 8)).eraseDups
  units.foldl (fun s u => s.writeBackUnit core ctx u) s

/-! ### Room in an L1 (R15, R101) -/

/-- Whether a dirty byte must stay in its L1: another device or the comparator has still to take it, or its home holds its write-back. -/
def State.staysDirty (s : State) (core k : Nat) : Bool :=
  2 ^ 64 ≤ k % 2 ^ 80 || s.withheld core (k / 2 ^ 80 % 256) (k % 2 ^ 80) || s.homeHolds (k % 2 ^ 80)

/-- Lines a full L1 may evict at once: no dirty byte that must stay. -/
def State.evictable (s : State) (core : Nat) : List Nat :=
  (s.l1Lines core).filter fun g => s.l1.all fun (k, c) => k / 128 ≠ g || !c.dirty || !s.staysDirty core k

/-- Whether a line has or can get a frame of its core's L1. -/
def State.l1Roomy (s : State) (core ctx a : Nat) : Bool := s.l1HasLine core ctx a || !s.l1Full core || !(s.evictable core).isEmpty

/-- Whether lines of a context's view have or can get frames of their core's L1 together: the lines that must stay leave them room. -/
def State.l1RoomFor (s : State) (core ctx : Nat) (lines : List Nat) : Bool :=
  s.l1.length + lines.length ≤ Config.l1Lines
    || ((s.l1Lines core).filter (fun g => !(s.evictable core).contains g) ++ lines.map fun a => l1Key core ctx a / 128).eraseDups.length ≤ Config.l1Lines

/-- A line that needs a frame of a full L1 evicts another, whose dirty bytes reach their homes (R101). -/
def State.l1Room (s : State) (core ctx a : Nat) : State :=
  if s.l1HasLine core ctx a || !s.l1Full core then s
  else match s.evictable core with
    | [] => s
    | g :: r =>
      let (f, s) := s.tick
      let v := (g :: r).getD (Config.l1Victim f % (r.length + 1)) g * 128
      (s.writeBackAll core (v / 2 ^ 80 % 256) fun x => lineOf x = v % 2 ^ 80).l1Remove core (v / 2 ^ 80 % 256) (v % 2 ^ 80) 128

/-- A store into a view, and a fill of a line of it: each takes a frame where the line has none. -/
def State.l1Store (s : State) (core ctx a : Nat) (bs : List MByte) : State := (s.l1Room core ctx a).l1Write core ctx a bs
def State.l1Take (s : State) (core ctx line : Nat) (bs : List MByte) : State := (s.l1Room core ctx line).l1Fill core ctx line bs

/-! ### Reads through an L1 view (R137) -/

/-- The line of an address is filled from its home where a byte of the access is absent; a sealed page's line from a replica on the reading die (R127). `pg` is the leaf and size of an APPEND page. -/
def State.l1Ensure (s : State) (core ctx pa n : Nat) (pg : Option (Nat × Nat) := none) : State :=
  if s.l1Has core ctx pa n then s
  else
    let die := dieOfCore core
    match pg with
    | none => (s.touchHome die pa).l1Take core ctx (lineOf pa) (s.homeLine (lineOf pa) none)
    | some (leaf, size) =>
      let base := pa / size * size
      let tv := some (base, s.tailOf base leaf)
      let s := s.touchHome die leaf
      if s.sealedAt base leaf && inHbm pa then
        let (bs, s) := s.replicaRead die (lineOf pa) 128 tv
        s.l1Take core ctx (lineOf pa) bs
      else (s.touchHome die pa).l1Take core ctx (lineOf pa) (s.homeLine (lineOf pa) tv)

/-- A read of bytes of one line through a core's L1 view. -/
def State.l1Read (s : State) (core ctx pa n : Nat) (pg : Option (Nat × Nat) := none) : List MByte × State :=
  let s := s.l1Ensure core ctx pa n pg
  (s.l1Bytes core ctx pa n, s)

/-! ### Releases and acquires on this device (R139, R140) -/

/-- ReleaseAction (R139), the part on this device: scopes 0 core, 1 cluster, 2 die, 3 device, 4 system. -/
def State.release (s : State) (scope core ctx : Nat) : State :=
  if scope = 0 then s else s.writeBackAll core ctx

/-- Whether nothing of a context on a core waits for a remote or host acknowledgement, for a system release (R139). -/
def State.remoteQuiet (s : State) (core ctx : Nat) : Bool :=
  s.remotes.all (fun r => !(r.op.core = core && r.op.ctx = ctx && (r.wb || match r.op.op with
    | .store | .atomic .. | .bred _ | .append | .sealing => true
    | .load _ | .binfin | .pref | .cinv _ => false)))
    && (s.l1Select core ctx fun a c => c.dirty && 2 ^ 64 ≤ a).isEmpty

/-- AcquireAction (R140): at die scope and wider the clean bytes homed here, the host window's among them (R100), are dropped, at system scope all. -/
def State.acquire (s : State) (scope core ctx : Nat) : State :=
  if scope ≤ 1 then s
  else s.l1Drop core ctx fun a => scope = 4 || a < 2 ^ 64

/-! ### Parking and waking (R39) -/

def State.park (s : State) (t : Nat) (p : Park) : State := s.setThread t { s.thread t with run := .parked p }
/-- A parked thread becomes ready at the instruction after the one it parked at. -/
def State.unpark (s : State) (t : Nat) : State :=
  let x := s.thread t
  s.setThread t { x with run := .ready, pc := pcAdd x.pc 4 }

/-- Writes a result to a resolved destination. -/
def State.writeDest (s : State) (t : Nat) (d : Dest) (v : Nat) (psn : Bool) : State :=
  match d with
  | .none => s
  | .reg p n => s.setThread t ((s.thread t).setWords p ((words n v).map fun w => ⟨w, psn⟩))
  | .scratch b n => s.scratchWrite b ((leBytes n v).map fun x => (x, psn))

/-! ### Phasers (R230 to R234) -/

/-- A core phaser's key: its holder and its number. A device phaser's: 2^50 plus its record's physical address. -/
def corePhaser (core n : Nat) : Nat := core * 64 + n
def devPhaser (pa : Nat) : Nat := 2 ^ 50 + pa
def isDevPhaser (k : Nat) : Bool := 2 ^ 50 ≤ k

def State.phaser (s : State) (k : Nat) : Phaser :=
  if isDevPhaser k then
    let b := (s.homeRead (k - 2 ^ 50) 16).map (·.1)
    ⟨BitVec.ofNat 32 (le32 b 0), BitVec.ofNat 32 (le32 b 1), BitVec.ofNat 32 (le32 b 2), BitVec.ofNat 32 (le32 b 3), none⟩
  else (s.core (k / 64)).phasers.lookD (k % 64) {}

def State.setPhaser (s : State) (k : Nat) (p : Phaser) : State :=
  if isDevPhaser k then
    s.homeWrite (k - 2 ^ 50) (clean (leBytes 4 p.phase.toNat ++ leBytes 4 p.nsig.toNat ++ leBytes 4 p.nwait.toNat ++ leBytes 4 p.arr.toNat))
  else
    let c := s.core (k / 64)
    s.setCore (k / 64) { c with phasers := c.phasers.put (k % 64) p }

def Thread.member (x : Thread) (k : Nat) : Option Member := x.phas.find? (·.key = k)
def Thread.setMember (x : Thread) (m : Member) : Thread :=
  { x with phas := x.phas.map fun y => if y.key = m.key then m else y }

/-- Threads parked on a phaser, in ascending index. -/
def State.phaserWaiters (s : State) (k : Nat) : List Nat :=
  s.threads.filterMap fun (t, x) =>
    match x.run with
    | .parked (.phaser k' _ _ _) => if k' = k then some t else none
    | _ => none

/-- What a parked phaser operation does next: a step of the thread, and whether the phase advances. -/
inductive PhStep where
  | stay
  | go (s : State) (advance : Bool)

/-- Signal(m) of R232 where it does not park: the new NX, ARR, and whether every signaller has signalled. -/
def State.phSignal (s : State) (t k : Nat) : Option (State × Bool) :=
  let x := s.thread t
  let p := s.phaser k
  match x.member k with
  | none => none
  | some m =>
    if m.nx ≠ p.phase then none
    else
      let s := s.setThread t (x.setMember { m with nx := m.nx + 1 })
      let p := { p with arr := p.arr + 1 }
      some (s.setPhaser k p, p.arr = p.nsig)

/-- Wait(m) of R232 where it does not park: LP advances and D receives it. -/
def State.phWait (s : State) (t k : Nat) (d : Dest) : Option State :=
  let x := s.thread t
  match x.member k with
  | none => none
  | some m =>
    if (s.phaser k).phase = m.lp then none
    else
      let s := s.setThread t (x.setMember { m with lp := m.lp + 1 })
      some (s.writeDest t d (m.lp + 1).toNat false)

/-- The scope of a phaser's releases and acquires (R141). -/
def State.phaserScope (s : State) (t k : Nat) : Nat :=
  if isDevPhaser k then 3
  else if (s.crewOf t).any (·.paired) then 2 else 0

/-- A wait that returns is an acquire at the phaser's scope (R141). -/
def State.phAcquire (s : State) (t k : Nat) : State := s.acquire (s.phaserScope t k) (coreOf t) (s.ctxOf t)
/-- A signal is a release at the phaser's scope (R141); a checked copy's waits for the comparator (R298). -/
def State.phRelease (s : State) (t k : Nat) : Option State :=
  if 1 ≤ s.phaserScope t k && s.unmatched (coreOf t) (s.ctxOf t) then none else some (s.release (s.phaserScope t k) (coreOf t) (s.ctxOf t))

/-- Before a device-scope atomic on the record of a device phaser the issuing core's dirty bytes of it go home, and its clean copies are dropped (R142, R234); the home access fills its slice (R445). -/
def State.ownRecord (s : State) (t k : Nat) : State :=
  if !isDevPhaser k then s
  else
    let a := k - 2 ^ 50
    let here (b : Nat) : Bool := decide (a ≤ b) && decide (b < a + 64)
    if isQueueTid t then s.touchHome (dieOfPa a % 4) a
    else ((s.writeBackAll (coreOf t) (s.ctxOf t) here).l1Drop (coreOf t) (s.ctxOf t) here).touchHome (dieOfCore (coreOf t)) a

/-- A woken thread continues its phaser operation as far as it can: signal, then wait, then the next instruction. A saved thread continues when its crew is placed again. -/
def State.phResume (s : State) (t : Nat) : PhStep :=
  if isSavedTid t then .stay
  else match (s.thread t).run with
  | .parked (.phaser k sig wait d) =>
    let s := s.ownRecord t k
    let finish (s : State) : PhStep :=
      if wait then
        match s.phWait t k d with
        | some s => .go ((s.phAcquire t k).unpark t) false
        | none => .go (s.park t (.phaser k false true d)) false
      else .go (s.unpark t) false
    if sig then
      match (s.phRelease t k).bind fun s => s.phSignal t k with
      | none => .stay
      | some (s, all) =>
        match finish s with
        | .go s _ => .go s all
        | .stay => .stay
    else
      match s.phWait t k d with
      | some s => .go ((s.phAcquire t k).unpark t) false
      | none => .stay
  | _ => .stay

/-- PHASE and ARR of an Advance (R232). -/
def State.phAdvanceCount (s : State) (k : Nat) : State :=
  let p := s.phaser k
  s.setPhaser k { p with phase := p.phase + 1, arr := 0 }

/-- Continues the listed threads parked on a phaser; an Advance by one of them continues the rest again, at most `n` times. -/
def State.phWake : Nat → Nat → List Nat → State → State
  | 0, _, _, s => s
  | _ + 1, _, [], s => s
  | n + 1, k, t :: r, s =>
    match s.phResume t with
    | .stay => phWake n k r s
    | .go s adv => if adv then let s := s.phAdvanceCount k; phWake n k (r ++ s.phaserWaiters k) s else phWake n k r s

/-- Clusters of threads, in the order the slew limiter takes them from die `d0` (R302). -/
def slewOrder (d0 : Nat) (cl : Nat) : Nat := (cl + 48 - 12 * d0) % 48

/-- The grid that a core thread belongs to. -/
def State.gridIdOf (s : State) (t : Nat) : Option Nat := (s.crewOf t).map (·.grid)

/-- Whether any reduction buffer holds contributions of a grid (R300). -/
def State.holdsContributions (s : State) (g : Nat) : Bool := s.cores.any fun (_, c) => c.redbuf.any fun r => r.grid = g

/-- The ordered grid whose flush point an Advance of a device phaser is (R301): its signalling members are every non-exited thread of the grid, all of whose crews have started. -/
def State.flushPoint (s : State) (k : Nat) : Option Nat :=
  let signallers := s.threads.filter fun (_, x) => x.run ≠ .exited && (match x.member k with
    | some m => m.mode ≠ 2
    | none => false)
  s.grids.findSome? fun (g, gr) =>
    if gr.flag 0 && gr.started = gr.total && !signallers.isEmpty
      && signallers.all (fun (t, _) => s.gridIdOf t = some g)
      && s.threads.all (fun (t, x) => x.run = .exited || s.gridIdOf t ≠ some g || (signallers.any fun y => y.1 = t)) then some g
    else none

/-- Advance (R232): the phase moves, then waiters go on, through the slew limiter for a device phaser (R302). -/
def State.phAdvanceNow (s : State) (k : Nat) : State :=
  let s := s.phAdvanceCount k
  let w := s.phaserWaiters k
  if isDevPhaser k then
    if w.isEmpty then s
    else { s with slews := s.slews ++ [{ first := 12 * (s.slewCount % 4), left := w }], slewCount := s.slewCount + 1 }
  else s.phWake (4 * (w.length + 1) * (w.length + 1)) k w

/-- The drain's order (R301). -/
def Contribution.before (a b : Contribution) : Bool :=
  if a.index ≠ b.index then a.index < b.index
  else if a.wave ≠ b.wave then a.wave < b.wave
  else if a.lane ≠ b.lane then a.lane < b.lane
  else if a.order ≠ b.order then a.order < b.order
  else a.copy ≤ b.copy

/-- A flush point: every core drains what it holds of the grid at that moment (R301). -/
def State.beginFlush (s : State) (g : Nat) (k : Option Nat) : State :=
  let all := (s.cores.flatMap fun x => x.2.redbuf.filter fun r => r.grid = g).mergeSort Contribution.before
  let at' := all.map (·.core) ++ (s.crews.filter fun x => x.2.grid = g).flatMap fun x => if x.2.paired then [x.2.core, x.2.core + 1] else [x.2.core]
  { s with
    flushes := s.flushes ++ [{ grid := g, phaser := k, cores := at'.eraseDups, left := all }]
    cores := s.cores.map fun x => (x.1, { x.2 with redbuf := x.2.redbuf.filter fun r => r.grid ≠ g }) }

/-- An Advance; at a flush point it follows the drain (R301). -/
def State.phAdvance (s : State) (k : Nat) : State :=
  if s.flushes.any (fun f => f.phaser = some k) then s
  else match (if isDevPhaser k then s.flushPoint k else none) with
  | some g => s.beginFlush g (some k)
  | none => s.phAdvanceNow k

/-- PHDROP for a member (R233). -/
def State.phDrop (s : State) (t k : Nat) : State :=
  let x := s.thread t
  match x.member k with
  | none => s
  | some m =>
    let p := s.phaser k
    let p := if m.mode ≠ 2 then { p with nsig := p.nsig - 1, arr := if m.nx ≠ p.phase then p.arr - 1 else p.arr } else p
    let p := if m.mode ≠ 1 then { p with nwait := p.nwait - 1 } else p
    let p := if p.nsig = 0 && p.nwait = 0 then { p with crew := none } else p
    let s := s.setThread t { x with phas := x.phas.filter (·.key ≠ k) }
    let s := s.setPhaser k p
    if m.mode ≠ 2 && p.arr = p.nsig then s.phAdvance k else s

/-- Drops every membership of a thread (R209, R233). -/
def State.phDropAll (s : State) (t : Nat) : State :=
  (s.thread t).phas.foldl (fun s m => (s.ownRecord t m.key).phDrop t m.key) s

/-! ### Causes of faults (R362, R376, R399) -/

/-- D0 of a memory record but for LANES (R398). -/
def memD0 (e : MemErr) (region kind size : Nat) : Nat :=
  e.reason * 2 ^ 56 + region * 2 ^ 48 + e.rem.toNat * 2 ^ 47 + e.lvl * 2 ^ 44 + kind * 2 ^ 40 + size * 2 ^ 32

/-- The cause of a failed access of a thread (R398 to R401): `load` for a load lane, which is poisoned and does not trap. -/
def MemErr.cause (e : MemErr) (space ptr kind size : Nat) (load : Bool) : Cause :=
  { group := e.group, code := e.code, addr := ptr, d1 := if e.group = 9 then 0 else e.d1, trap := !load, psn := load,
    d0 := if e.group = 9 then e.d1 else memD0 e (if space = 0 then regionOf ptr else 0) kind size,
    key := some (space, if space = 0 then regionOf ptr else 0, if space = 0 then vaOf ptr / 65536 else 0) }

/-! ### Window moves (R53 to R55, R386, R388, R444) -/

def Grid.depth (g : Grid) : Nat := 32 * g.field 35 1
def Grid.zspill (g : Grid) : Nat := g.field 32 2
def Grid.spa (g : Grid) : Nat := g.field 16 8

/-- Stack positions whose blocks a move to `wb` spills and fills (R54), each from a structural bound. -/
def spillBlocks (d wb : Nat) : Nat → Nat → List Nat
  | 0, _ => []
  | n + 1, rb => if rb + d < wb + 64 then rb :: spillBlocks d wb n (rb + 32) else []
def fillBlocks (wb : Nat) : Nat → Nat → List Nat
  | 0, _ => []
  | n + 1, rb => if wb < rb then (rb - 32) :: fillBlocks wb n (rb - 32) else []

/-- Translates every block of a move of a thread (R444): the blocks with their physical addresses, or the first failure. -/
def State.translateBlocks (s : State) (core ctx : Nat) (addr : Nat → Nat) (k : Need) :
    List Nat → State × Except (Nat × MemErr) (List (Nat × Nat))
  | [] => (s, .ok [])
  | p :: r =>
    if addr p % 128 ≠ 0 then (s, .error (p, { code := 1 }))
    else
      match s.translateEngine core ctx (addr p) 128 k with
      | (s, .error e) => (s, .error (p, e))
      | (s, .ok tr) =>
        if tr.cls = 1 || tr.cls = 2 then (s, .error (p, { code := 9, d1 := tr.cls }))
        else match (if tr.remote.isSome then none else s.fencedErr tr.pa) with
          | some e => (s, .error (p, e))
          | none =>
            match s.translateBlocks core ctx addr k r with
            | (s, .error e) => (s, .error e)
            | (s, .ok l) => (s, .ok ((p, tr.pa) :: l))

/-- A block's registers as stored bytes: each register poisons the unit that holds it (R444). -/
def blockBytes (x : Thread) (p : Nat) : List MByte :=
  (List.range 32).flatMap fun i =>
    let v := x.regs.lookD (p + i) {}
    (leBytes 4 v.val.toNat).map fun b => (b, v.psn)

def dropPositions (r : FMap RVal) (lo hi : Nat) : FMap RVal := r.filter fun (p, _) => !(lo ≤ p && p < hi)

/-- D0 of a record about a register (log 14): its word in the core's register file. -/
def registerWord (t key : Nat) : Nat := (slotOf t * 128 + laneOf t) * 2 ^ 15 + 4 * key

/-- A spilled block; errors first found in its registers are recorded (R375). Of a DUAL copy it is written back uncompared, its copies' spill areas differing (log 50, DESIGN CHOICE). -/
def State.spillBlock (s : State) (t p pa : Nat) : State :=
  let x := s.thread t
  let s := (x.latent.filter fun k => p ≤ k && k < p + 32).foldl (fun s k => s.logPoison (coreOf t) (s.ctxOf t) 1 (registerWord t k)) s
  let s := s.l1Store (coreOf t) (s.ctxOf t) pa (blockBytes x p)
  s.setThread t { x with regs := dropPositions x.regs p (p + 32), latent := x.latent.filter fun k => !(p ≤ k && k < p + 32) }

/-- SpillAddr of R55. -/
def State.spillAddr (s : State) (t p : Nat) : Nat :=
  let g := s.gridOf t
  let x := ((s.waveAt t).map (·.spillX)).getD 0
  ptrAdd ((g.map (·.spa)).getD 0) ((x * 128 + laneOf t) * (g.map (·.zspill)).getD 0 + 4 * p : Nat)

/-- A record at level 0 about a fill of the moving thread (R375, R411, R444). -/
def State.fillRec (s : State) (t p insn group code d0 d1 : Nat) : State :=
  let x := s.thread t
  (s.logFault (s.ctxOf t) { pc := x.pc.toNat, addr := s.spillAddr t p, etime := s.etimeOf t, insn := insn, wher := whereField s t, grid := s.gridField t,
                            cause := causeWord false true x.trap.inh 0 group code, d0 := d0, d1 := d1 }).1

/-- A filled block: registers of poisoned units are poisoned, each unit with its record (R444), and metadata that cannot be read with its own (R411). -/
def State.fillBlock (s : State) (t insn p pa : Nat) : State :=
  let core := coreOf t
  let ctx := s.ctxOf t
  let code (s : State) (a : Nat) : Nat := if s.l1Has core ctx a 8 then 3 else s.homeCode (dieOfCore core) a
  let codes := (List.range 16).map fun u => code s (pa + 8 * u)
  let e : MemErr := { code := 0x10, d1 := pa }
  let s := if !s.l1Has core ctx pa 128 && s.metaBad pa then
      s.fillRec t p insn 2 0x10 (memD0 e (regionOf (s.spillAddr t p)) 0 128 + 2 ^ (laneOf t % 32)) pa
    else s
  let (bs, s) := s.l1Read core ctx pa 128
  let s := (List.range 16).foldl (fun s u =>
    if (bs.getD (8 * u) (0, false)).2 then s.fillRec t p insn 10 (codes.getD u 3) (s.homePa core ctx pa + 8 * u) 0 else s) s
  let vs := (List.range 32).map fun i =>
    ({ val := BitVec.ofNat 32 (le32 (bs.map (·.1)) i), psn := (bs.getD (4 * i) (0, false)).2 } : RVal)
  s.setThread t ((s.thread t).setWords p vs)

/-- Stack positions whose blocks a move to `wb` spills, then fills (R54). -/
def Thread.moved (x : Thread) (d wb : Nat) : List Nat × List Nat :=
  let spills := spillBlocks d wb 130 x.rb
  (spills, fillBlocks wb 130 (x.rb + 32 * spills.length))

/-- The first block that a move fills from a remote region and that the view does not hold: pointer and line. -/
def State.farFill (s : State) (t : Nat) (newWb : Int) : Option (Nat × Nat) :=
  if isQueueTid t then none
  else
    let fills := ((s.thread t).moved (((s.gridOf t).map (·.depth)).getD 64) newWb.toNat).2
    fills.findSome? fun p =>
      match s.translateEngine (coreOf t) (s.ctxOf t) (s.spillAddr t p) 128 .read with
      | (_, .ok tr) => if tr.remote.isSome && !s.l1Has (coreOf t) (s.ctxOf t) tr.pa 128 then some (s.spillAddr t p, tr.pa) else none
      | (_, .error _) => none

/-- Whether a move's blocks can all be stored and loaded now: their lines have frames of the L1 together (R15), and no home holds a fill (R409). A move that fails is not held up. -/
def State.moveRoomy (s : State) (t : Nat) (newWb : Int) : Bool :=
  if isQueueTid t then true
  else
    let core := coreOf t
    let ctx := s.ctxOf t
    let (spills, fills) := (s.thread t).moved (((s.gridOf t).map (·.depth)).getD 64) newWb.toNat
    let line (k : Need) (p : Nat) : Option Nat := match s.translateEngine core ctx (s.spillAddr t p) 128 k with
      | (_, .ok tr) => some tr.pa
      | (_, .error _) => none
    let fl := fills.filterMap (line .read)
    s.l1RoomFor core ctx (spills.filterMap (line .write) ++ fl) && fl.all fun a => !s.homeHolds a || s.l1Has core ctx a 128

/-- Moves the window to a signed new base (R53, R54) by an instruction, or answers the cause that R386, R388 or R444 gives and no effect. -/
def State.moveWindow (s : State) (t : Nat) (newWb : Int) (insn : Nat) : Except Cause State :=
  let x := s.thread t
  let range : Cause := { group := 1, code := 0xa, d0 := trunc newWb 64, d1 := x.wb }
  if isQueueTid t then
    if newWb < 0 || 192 < newWb then .error range
    else
      let wb := newWb.toNat
      .ok (s.setThread t { x with wb := wb, regs := dropPositions x.regs (wb + 64) 4096 })
  else if newWb < 0 || 4032 < newWb then .error range
  else
    let wb := newWb.toNat
    let g := s.gridOf t
    let d := (g.map (·.depth)).getD 64
    let z := (g.map (·.zspill)).getD 0
    let (spills, fills) := x.moved d wb
    let rb := x.rb + 32 * spills.length
    match spills.find? (fun p => z < 4 * (p + 32)) with
    | some p => .error { group := 1, code := 0xb, d0 := p, d1 := z }
    | none =>
      let addr := s.spillAddr t
      let ctx := s.ctxOf t
      let fail (w : Nat) (e : Nat × MemErr) : Except Cause State := .error (e.2.cause 0 (addr e.1) w 128 false)
      match s.translateBlocks (coreOf t) ctx addr .write spills with
      | (_, .error e) => fail 1 e
      | (s, .ok sp) =>
        match s.translateBlocks (coreOf t) ctx addr .read fills with
        | (_, .error e) => fail 0 e
        | (s, .ok fl) =>
          let s := sp.foldl (fun s (p, pa) => s.spillBlock t p pa) s
          let s := fl.foldl (fun s (p, pa) => s.fillBlock t insn p pa) s
          let x := s.thread t
          let s := s.setThread t
            { x with wb := wb, rb := rb - 32 * fills.length, regs := dropPositions x.regs (wb + 64) 4096 }
          let c := s.core (coreOf t)
          .ok (s.setCore (coreOf t)
            { c with spilling := c.spilling + sp.length, filling := c.filling + fl.length })

/-! ### Ending work (R209, R364, R285) -/

/-- Removes a thread's registrations at the homes (R229). -/
def State.dropWaiters (s : State) (p : Nat → Bool) : State :=
  { s with waiters := (s.waiters.map fun w => { w with tids := w.tids.filter fun t => !p t }).filter fun w => !w.tids.isEmpty }

/-- A pending operation once a thread has ended (R209): its loads are discarded; one that other threads share (R65) stays theirs. Engine operations run on. -/
def PendOp.without (t : Nat) (o : PendOp) : Option PendOp :=
  let rest := o.bcast.filter fun x => x.1 ≠ t
  let load := match o.op with
    | .load _ | .binfin | .pref => true
    | .store | .atomic .. | .bred _ | .append | .sealing | .cinv _ => false
  if o.tid ≠ t then some { o with bcast := rest }
  else if !load || 2 ^ 62 ≤ o.id then some o
  else match rest, o.dst with
    | (u, p) :: r, .reg _ n => some { o with tid := u, dst := .reg p n, bcast := r }
    | _, _ => none

/-- A thread's ending: pending loads and undelivered entries are discarded (R209). -/
def State.endThread (s : State) (t : Nat) : State :=
  let x := s.thread t
  let s := s.setThread t { x with run := .exited, mxs := [], trh := [], sms := [], gdn := [], loads := 0 }
  { s with
    pend := s.pend.filterMap (PendOp.without t)
    heldPops := s.heldPops.filter fun h => h.tid ≠ t }

/-- Threads of a crew that have not exited. -/
def State.crewThreads (s : State) (k : Nat) : List Nat :=
  s.threads.filterMap fun (t, x) => if s.crewIdOf t = some k && x.run ≠ .exited then some t else none

/-- Writes a mapping's rows to their homes and removes it (R239). -/
def State.unmapRows (s : State) (core num : Nat) : State :=
  let c := s.core core
  match c.maps.look num with
  | none => s
  | some m =>
    let rows := m.pas.map fun pa => (pa, s.homeLine pa none)
    let s := m.pas.foldl (fun s pa => s.touchHome (dieOfCore core) pa) s
    let s := s.setCore core { c with maps := c.maps.del num }
    if m.pending then s else rows.foldl (fun s (pa, bs) => s.homeWrite pa bs) s

/-- As `unmapRows`, by no thread's instruction: the poisoned granules of the rows are recorded so (R375). -/
def State.unmap (s : State) (core num : Nat) : State :=
  let bad := match (s.core core).maps.look num with
    | none => []
    | some m => if m.pending then [] else m.pas.flatMap fun pa => match s.mappedLine pa with
      | some (_, _, a) => (List.range 32).filterMap fun i => if s.scratch.poisoned (a / 4 + i) then some ((a + 4 * i) % 2 ^ 20, m.crew) else none
      | none => []
  let ctx (k : Nat) : Nat := ((s.crews.look k).bind fun c => (s.grids.look c.grid).map (·.ctx)).getD 0
  (bad.foldl (fun (s : State) (x : Nat × Nat) => s.logPoison core (ctx x.2) 2 x.1) s).unmapRows core num

/-- Closes a crew's windows and mappings on a core (R236, R239). -/
def State.closeShared (s : State) (k core : Nat) : State :=
  let c := s.core core
  let s := s.setCore core { c with windows := c.windows.map fun (n, w) => if w.crew = k then (n, { w with v := false }) else (n, w) }
  (c.maps.filter (fun (_, m) => m.crew = k)).foldl (fun s (n, _) => s.unmap core n) s

def Crew.cores (c : Crew) : List Nat := if c.paired then [c.core, c.core + 1] else [c.core]
/-- Which core of a crew's pair a core is; 0 for a crew on one core. -/
def Crew.parity (c : Crew) (core : Nat) : Nat := if c.paired then core % 2 else 0
/-- The core that serves a parity of a crew. -/
def Crew.coreAt (c : Crew) (par : Nat) : Nat := if c.paired then c.core + par else c.core

/-- Crews placed on a core that hold its banks, or are to get them back there (R110). -/
def State.bankHolders (s : State) (core : Nat) : List Nat :=
  (s.crews.filter fun (_, c) => c.run ≠ .saved && c.run ≠ .ended && c.cores.contains core && c.holdsBanks.contains (c.parity core)).map (·.1)

/-- A thread whose stream is open closes it (R279): after the last of its records that wait in prm, or at once. -/
def State.endStream (s : State) (t : Nat) : State :=
  match (s.ops.filter fun o => o.kind = .emit && o.tid = t && o.step = 0).getLast? with
  | some o => { s with ops := s.ops.map fun x => if x.id = o.id then { o with flag := true } else x }
  | none =>
    match s.streams.look t with
    | some x => { s with streams := s.streams.put t { x with closing := true } }
    | none => s

/-- An abort begins (R364 step 1): the crew issues nothing more; its pending loads and its pop entries are discarded, and its open streams end as at EXIT. What follows its engine operations comes with CREW_END. -/
def State.abortCrew (s : State) (k : Nat) : State :=
  match s.crews.look k with
  | none => s
  | some c =>
    if c.run = .aborted || c.run = .ended then s
    else
      let ts := s.crewThreads k
      let s : State := { s with
        pend := s.pend.filter fun o => !(ts.contains o.tid && o.pkt < 2 ^ 59 && (match o.op with | .load _ | .binfin | .pref => true | _ => false))
        heldPops := s.heldPops.filter fun h => !ts.contains h.tid }
      let s := ts.foldl (fun s t => s.endStream t) s
      s.setCrew k { c with run := .aborted }

/-- Steps 3 and 4 of an abort (R364), once the crew's engine operations have completed. -/
def State.endAborted (s : State) (k : Nat) : State :=
  match s.crews.look k with
  | none => s
  | some c =>
    let ts := s.crewThreads k
    let s := ts.foldl (fun (s : State) t =>
      if isSavedTid t || c.saved.phasers ≠ [] then let x := s.thread t; s.setThread t { x with phas := x.phas.filter fun m => isDevPhaser m.key } else s) s
    let s := ts.foldl (fun s t => s.phDropAll t) s
    let s := s.dropWaiters fun t => ts.contains t
    let s := c.cores.foldl (fun s core => s.closeShared k core) s
    let ctx := ((s.grids.look c.grid).map (·.ctx)).getD 0
    let s := c.cores.foldl (fun s core => s.release 3 core ctx) s
    ts.foldl (fun s t => s.endThread t) s

/-- A fault stops a queue program (R285): FLT set, RUN clear. -/
def State.stopProgram (s : State) (q : Nat) (fault : Bool) : State :=
  let x := s.queue q
  let s := s.endThread (Config.coreThreads + q)
  s.setQueue q { x with run := false, flt := x.flt || fault }

/-! ### Taking a trap (R363, R372) -/

/-- How a thread that traps fares (R363). -/
inductive Fate where
  | program
  | nested
  | noHandler
  | handler
  deriving DecidableEq, Repr

def State.fateOf (s : State) (t : Nat) : Fate :=
  if isQueueTid t then .program
  else
    let x := s.thread t
    if x.trap.inh then .nested
    else if ((s.contexts.look (s.ctxOf t)).map (·.thnd)).getD 0 = 0 || 4032 < x.wb + 64 then .noHandler
    else .handler

/-- The record of a cause as a thread's packet writes it. -/
def Cause.record (c : Cause) (s : State) (t insn lanes level : Nat) (nest : Bool) : Rec :=
  { pc := c.pc.getD (s.thread t).pc.toNat, addr := c.addr, etime := s.etimeOf t, insn := if c.noInsn then 0 else insn,
    cause := causeWord c.trap c.psn nest level c.group c.code, wher := whereField s t, grid := s.gridField t,
    d0 := c.d0 + (if c.key.isSome && c.group ≠ 9 then lanes else 0), d1 := c.d1 }

/-- The bits of TPSN (R372). -/
def Thread.windowPoison (x : Thread) : Nat :=
  (List.range 64).foldl (fun m i => if (x.reg i).psn then m + 2 ^ i else m) 0

/-- LANES of a record (R398): bit j for a thread 32q + j. -/
def laneMask (ts : List Nat) : Nat := ((ts.map fun t => laneOf t % 32).eraseDups).foldl (fun m l => m + 2 ^ l) 0

/-- The threads of a packet whose move to their handler fails with the same key (R401, R444). -/
def State.sameMove (s : State) (c : Cause) (ts : List Nat) : List Nat :=
  ts.filter fun u => match s.moveWindow u ((s.thread u).wb + 64 : Nat) 0 with
    | .error d => d.group = c.group && d.code = c.code && d.key = c.key
    | .ok _ => false

/-- The threads whose operation a pending access is: with U = 1 every thread of the packet that shares it (R65; log 57). An engine's access is no thread's. -/
def PendOp.threads (o : PendOp) : List Nat := if 2 ^ 59 ≤ o.pkt then [] else o.tid :: o.bcast.map (·.1)

/-- Whether the thread has a result pending anywhere (R54). -/
def State.anyPending (s : State) (t : Nat) : Bool :=
  s.pend.any fun o => (o.tid = t || o.bcast.any (·.1 = t)) && o.dst ≠ .none

/-- Enters the trap handler (R372) with ADDR, CAUSE, INSN and SEQ of its record: the trap state is saved, the window moves up by 64, MODE is cleared, and PC becomes THND. `after` is 4 for TRAP. A move that fails writes a second record and aborts the crew (R388, R444), `ts` being the packet's threads that trap. -/
def State.enterNow (s : State) (ts : List Nat) (t addr cause insn seq : Nat) (lost : Bool) (after : Nat) : State :=
  let x := s.thread t
  let tr : TrapRegs :=
    { tpc := pcAdd x.pc (after : Nat), taddr := BitVec.ofNat 64 addr, tseq := BitVec.ofNat 64 seq,
      tcause := BitVec.ofNat 32 cause, tinsn := BitVec.ofNat 32 insn, inh := true, lost := lost, tmode := x.mode,
      tpsn := BitVec.ofNat 64 x.windowPoison, twb := x.wb }
  match s.moveWindow t (x.wb + 64 : Nat) insn with
  | .error c =>
    let s := (s.logFault (s.ctxOf t) (c.record s t insn (laneMask (t :: s.sameMove c ts)) 2 false)).1
    match s.crewIdOf t with
    | some k => s.abortCrew k
    | none => s
  | .ok s =>
    let y := s.thread t
    let ctx := s.ctxOf t
    let s := s.acquire 3 (coreOf t) ctx
    s.setThread t { y with trap := tr, mode := 0, pc := ((s.contexts.look ctx).map (·.thnd)).getD 0, run := .ready, joined := false, early := [] }

/-- A trapping thread enters its handler, once its pending results are written and its spills find frames of the L1: the entry moves the window as R54 states. -/
def State.enterHandler (s : State) (ts : List Nat) (t : Nat) (r : Rec) (seq : Nat) (lost : Bool) (after : Nat) : State :=
  if s.anyPending t || !s.moveRoomy t ((s.thread t).wb + 64 : Nat) then s.park t (.entry r.addr r.cause r.insn seq lost after ts)
  else s.enterNow ts t r.addr r.cause r.insn seq lost after

/-- One record for the threads that share it, and their fate (R363): `ts` ascending, the first named in WHERE. -/
def State.takeTrap (s : State) (ts : List Nat) (c : Cause) (insn lanes after : Nat) : State :=
  match ts with
  | [] => s
  | t :: _ =>
    let ctx := s.ctxOf t
    let abort (s : State) : State :=
      match s.crewIdOf t with
      | some k => s.abortCrew k
      | none => s
    match s.fateOf t with
    | .program =>
      ((s.logFault ctx (c.record s t insn lanes 4 false)).1).stopProgram (queueOf t) true
    | .nested =>
      let s := (s.logFault ctx (c.record s t insn lanes 1 true)).1
      abort (s.logFault ctx (c.record s t insn lanes 2 true)).1
    | .noHandler => abort (s.logFault ctx (c.record s t insn lanes 2 false)).1
    | .handler =>
      let r := c.record s t insn lanes 1 false
      let (s, seq, lost) := s.logFault ctx r
      ts.foldl (fun s t => if (s.thread t).run = .exited || (s.crewOf t).any (·.run = .aborted) then s else s.enterHandler ts t r seq lost after) s

/-- Return from a trap handler (R374): MODE and the window come back, then the PC. A failed move is the cause it answers. -/
def State.returnFromHandler (s : State) (t insn : Nat) : Except Cause State :=
  let x := s.thread t
  match s.moveWindow t (x.trap.twb : Nat) insn with
  | .error c => .error c
  | .ok s =>
    let y := s.thread t
    .ok (s.setThread t { y with mode := x.trap.tmode, trap := { y.trap with inh := false }, pc := x.trap.tpc })

/-! ### A packet's records (R401, R402) -/

/-- Two threads' causes that share one record: the same key or whole-packet cause, the same packet and fate. A cross-thread instruction issues one packet on each quarter's pipeline (R38); any other word issues one packet. -/
def sameRecord (s : State) (insn : Nat) (a b : Nat × Cause) : Bool :=
  a.2.group = b.2.group && a.2.code = b.2.code && a.2.trap = b.2.trap && (laneOf a.1 / 32 = laneOf b.1 / 32 || bits insn 30 25 ≠ 0x24)
    && (a.2.whole && b.2.whole || a.2.key.isSome && a.2.key = b.2.key || a.2.group = 10 && a.2.d0 = b.2.d0)
    && (!a.2.trap || s.fateOf a.1 = s.fateOf b.1)


/-- Whether the abort of a thread's crew has begun: it takes no further instruction fault (R397). -/
def State.aborting (s : State) (t : Nat) : Bool := (s.crewOf t).any fun c => c.run = .aborted

/-- Writes the records of a packet in ascending order of the lowest lane of each, at most 32 by memory key, and takes the traps. `n` bounds the list. -/
def State.reportAll : Nat → List (Nat × Cause) → Nat → Nat → State → State
  | 0, _, _, _, s => s
  | _ + 1, [], _, _, s => s
  | n + 1, (t, c) :: r, insn, after, s =>
    if (s.thread t).run = .exited && c.trap then reportAll n r insn after s
    else
      let ts := t :: (r.filter fun x => sameRecord s insn (t, c) x).map (·.1)
      let rest := r.filter fun x => !sameRecord s insn (t, c) x
      let s := if c.trap then s.takeTrap ts c insn (laneMask ts) after
        else (s.logFault (s.ctxOf t) (c.record s t insn (laneMask ts) 0 (s.thread t).trap.inh)).1
      reportAll n rest insn after s

/-- The records and traps of a packet (R401, R402): threads whose crew's abort has begun take no instruction fault (R397); an abort that a record of the packet brings about leaves its later records to be written. -/
def State.report (s : State) (n : Nat) (cs : List (Nat × Cause)) (insn after : Nat) : State :=
  s.reportAll n (cs.filter fun x => !(s.aborting x.1 && (x.2.trap || x.2.group = 1))) insn after

end Sys2Proof.Machine
end

