-- ==== Sys2Proof/Machine/Operands.lean ====
section
/-! DEFINITION. Every operand form: constants and special registers by position kind, scratchpad operands with post-increment, pops, groups and masks (R57 to R64), and the poison each instruction consumes (R368). -/

namespace Sys2Proof

/-- Stack registers that a position names: how many from its code. -/
def Pos.regs (p : Pos) : Nat :=
  if 64 ≤ p.code then 0
  else match p.kind with
    | .grp n _ => n
    | .mask => 4
    | .i64 | .f64 | .ptr => 2
    | .i32 | .f32 | .pkf16 | .pkbf16 | .h16 | .b16 | .off | .cond => 1
    | .queue _ _ => 0

/-- Whether a position is a scratchpad operand (R57), and its size (R59). -/
def Pos.isScratch (p : Pos) : Bool :=
  64 ≤ p.code && p.code < 80 && (match p.kind with
    | .grp _ _ | .mask | .ptr | .off | .queue _ _ => false
    | .i32 | .i64 | .f32 | .f64 | .pkf16 | .pkbf16 | .h16 | .b16 | .cond => true)

def Pos.size (p : Pos) : Nat := if p.kind.wide then 8 else 4

/-- Whether a position reads a value before the instruction acts. -/
def Pos.reads (p : Pos) : Bool := p.role ≠ .dst

def Pos.isPop (p : Pos) : Bool := p.reads && 80 ≤ p.code && p.code < 96 && (match p.kind with | .queue _ _ => false | _ => true)

/-- Whether an instruction writes a poisoned result where a source is poisoned (R367): the majors up to RNGK. -/
def Instr.computes (i : Instr) : Bool := (encode i).toNat / 2 ^ 25 % 64 ≤ 0x23

end Sys2Proof

namespace Sys2Proof.Machine

/-- A source value: its bits (a group's registers lowest first) and poison. -/
structure OpVal where
  val : Nat
  psn : Bool := false
  deriving DecidableEq, Repr

/-! ### Constants (R64) -/

/-- A constant code in a 32-bit integer position. -/
def constI32 (c : Nat) : Nat :=
  if c = 112 then 0
  else if c ≤ 119 then 2 ^ (c - 113)
  else if c = 120 then 0xffffffff
  else if c = 121 then 0xff
  else if c = 122 then 0xffff
  else if c = 123 then 0x80000000
  else if c = 124 then 0x3f000000
  else if c = 125 then 0x3f800000
  else if c = 126 then 0x40000000
  else 0xbf800000

/-- A constant code in a 64-bit integer position. -/
def constI64 (c : Nat) : Nat := if c = 120 then 0xffffffffffffffff else constI32 c

/-- A constant code in a floating position of `e` exponent and `m` fraction bits. -/
def constFloat (e m c : Nat) : Nat :=
  let bias := 2 ^ (e - 1) - 1
  let sign := 2 ^ (e + m)
  let pow (k : Int) : Nat := (k + bias).toNat * 2 ^ m
  if c = 112 then 0
  else if c ≤ 119 then pow (c - 113 : Nat)
  else if c = 120 then sign + pow 0
  else if c = 121 then 0xff
  else if c = 122 then 0xffff
  else if c = 123 then 0x80000000 % 2 ^ (e + m + 1)
  else if c = 124 then pow (-1)
  else if c = 125 then pow 0
  else if c = 126 then pow 1
  else sign + pow 0

/-- The value of a constant code by the kind of its position. A mask takes the pattern in each of its four words (R197). -/
def constOf (k : Kind) (c : Nat) : Nat :=
  match k with
  | .i64 | .ptr => constI64 c
  | .f32 => constFloat 8 23 c
  | .f64 => constFloat 11 52 c
  | .h16 => constFloat 5 10 c
  | .b16 => constFloat 8 7 c
  | .pkf16 => constFloat 5 10 c * 65537
  | .pkbf16 => constFloat 8 7 c * 65537
  | .mask => constI32 c * (1 + 2 ^ 32 + 2 ^ 64 + 2 ^ 96)
  | .i32 | .off | .cond | .grp _ _ | .queue _ _ => constI32 c

/-! ### Special registers (R63, R26, R314) -/

/-- Completion bits of a crew's tags from `lo` (R225). -/
def Crew.doneBits (c : Crew) (lo n : Nat) : Nat :=
  (List.range n).foldl (fun m i => if lo + i < c.ntags && (c.tags.lookD (lo + i) {}).done then m + 2 ^ i else m) 0

/-- Commands that hold a slot of mxc (R310): all but completed ones whose status entry has been pushed. -/
def State.mxSlots (s : State) (core : Nat) : List MxCmd :=
  (s.core core).mxc.filter fun m => m.stage ≠ 2 || s.heldPops.any fun h => h.ent.src = m.op

/-- Whether a crew holds the banks of a core, or takes them (R110). -/
def State.holdsBanks (s : State) (core : Nat) (k : Option Nat) : Bool :=
  k.isSome && (match (s.core core).bankTaker with
    | some j => k = some j
    | none => (s.core core).bankCrew = k)

/-- PBANK (R314): the bank once every MXSWAP of the crew accepted so far has taken effect. -/
def State.pbank (s : State) (core : Nat) (k : Option Nat) : Nat :=
  let c := s.core core
  ((if c.bankTaker.isSome then 0 else c.bank) + (c.mxc.filter fun m => m.swap && some m.crew = k).length) % 2

/-- %mxst (R314): bank state as the reading thread's crew sees it. -/
def State.mxst (s : State) (t : Nat) : Nat :=
  let core := coreOf t
  let c := s.core core
  let k := s.crewIdOf t
  let held := s.holdsBanks core k
  held.toNat * 2 ^ 31 + (if held then (if c.bankTaker.isSome then 0 else c.bank) * 2 ^ 30 + s.pbank core k * 2 ^ 29 else 0)
    + (c.mxc.any (fun m => !m.swap && m.stage = 1)).toNat * 2 ^ 28
    + (s.mxSlots core).length * 2 ^ 16 + c.mxDone.toNat % 65536

/-- A special register as a 64-bit value; only %argp uses the upper half. -/
def State.special (s : State) (t c : Nat) : Nat :=
  if isQueueTid t then
    if c = 103 then 0x3f8 + queueOf t / 8
    else if c = 104 then (s.qcore (queueOf t / 8)).cyc.toNat % 2 ^ 32
    else if c = 105 then (s.qcore (queueOf t / 8)).cyc.toNat * 1000 % 2 ^ 64 / 16 % 2 ^ 32
    else 0
  else
    let w := (s.waves.look (waveOf t)).map (·.index)
    let k := s.crewOf t
    let g := s.gridOf t
    let idx := (k.map (·.index)).getD 0
    let gx := (g.map fun g => g.field 24 4 + 1).getD 1
    let gy := (g.map fun g => g.field 28 2 + 1).getD 1
    let core := s.core (coreOf t)
    match c with
    | 96 => (w.getD 0) * 128 + laneOf t
    | 97 => laneOf t
    | 98 => w.getD 0
    | 99 => idx % 2 ^ 32
    | 100 => idx % gx
    | 101 => idx / gx % gy
    | 102 => idx / gx / gy
    | 103 => coreValue (coreOf t)
    | 104 => core.cyc.toNat % 2 ^ 32
    | 105 => core.etime.toNat / 16 % 2 ^ 32
    | 106 => (k.map fun k => k.doneBits 0 32).getD 0
    | 107 => (k.map fun k => k.doneBits 32 32).getD 0
    | 108 => (s.thread t).slb.toNat
    | 109 => s.mxst t
    | 110 => (g.map fun g => g.field 8 8).getD 0
    | 111 => (k.map fun k => k.alloc / 1024 * 2 ^ 20 + (k.scratchByte (coreOf t) 0) % 2 ^ 20).getD 0
    | _ => 0

/-! ### Reading and resolving -/

/-- Registers from a window index as one number, and whether any is poisoned. -/
def Thread.group (x : Thread) : Nat → Nat → OpVal
  | _, 0 => ⟨0, false⟩
  | i, n + 1 =>
    let v := x.reg i
    let r := x.group (i + 1) n
    ⟨v.val.toNat + 2 ^ 32 * r.val, v.psn || r.psn⟩

/-- The pop view that a queue code names (R61). -/
def Thread.view (x : Thread) (c : Nat) : List PopEntry :=
  if c = 81 then x.mxs else if c = 87 then x.trh else if c = 89 then x.sms else if c = 92 then x.gdn else []
def Thread.pop (x : Thread) (c : Nat) : Thread :=
  if c = 81 then { x with mxs := x.mxs.tail }
  else if c = 87 then { x with trh := x.trh.tail }
  else if c = 89 then { x with sms := x.sms.tail }
  else { x with gdn := x.gdn.tail }

/-- The scratchpad byte of each position in order, with the address registers as they move (R59); the cause of the first invalid one. -/
def resolveScratch (x : Thread) (alloc : Nat) (base : Nat) : List Pos → Except Cause (Thread × List (Option Nat))
  | [] => .ok (x, [])
  | p :: r =>
    if p.isScratch then
      let k := (p.code - 64) % 8
      let a := (x.areg' k).val.toNat
      if a % p.size ≠ 0 || alloc < a + p.size then
        .error { group := 1, code := 9, d0 := a, d1 := p.code + p.size * 256 }
      else
        let x := if 72 ≤ p.code then x.setAreg k ⟨BitVec.ofNat 32 (a + p.size), (x.areg' k).psn⟩ else x
        match resolveScratch x alloc base r with
        | .error c => .error c
        | .ok (x, l) => .ok (x, some (base + a) :: l)
    else
      match resolveScratch x alloc base r with
      | .error c => .error c
      | .ok (x, l) => .ok (x, none :: l)

/-- The value of a source position (R57): `a` is its scratchpad byte where it has one. A pop reads the view's next entry. -/
def State.source (s : State) (t : Nat) (p : Pos) (a : Option Nat) : OpVal :=
  let x := s.thread t
  match a with
  | some b =>
    let bs := s.scratchRead b p.size
    ⟨leNat (bs.map (·.1)), bs.any (·.2)⟩
  | none =>
    if p.code < 64 then x.group p.code p.regs
    else if p.code < 96 then
      match x.view p.code with
      | e :: _ => ⟨if p.kind.wide then e.val.toNat else e.val.toNat % 2 ^ 32, e.psn⟩
      | [] => ⟨0, false⟩
    else if p.code < 112 then
      let v := s.special t p.code
      ⟨if p.kind.wide then v else v % 2 ^ 32, false⟩
    else ⟨constOf p.kind p.code, false⟩

/-- The resolved destination of a position (R59). -/
def Thread.dest (x : Thread) (p : Pos) (a : Option Nat) : Dest :=
  match a with
  | some b => .scratch b p.size
  | none => if p.code < 64 then .reg (x.wb + p.code) p.regs else .none

/-! ### Poison consumption (R368) -/

/-- The position code of R368 under which an instruction consumes a poisoned value of one of its fields; none where poison propagates. -/
def poisonCode (i : Instr) (p : Pos) : Option Nat :=
  match i with
  | .st .. => if p.field = 0 then some 1 else some 2
  | .ld .. | .lds .. => if p.field = 0 then some 1 else none
  | .atom32 .. | .atom64 .. | .red32 .. | .red64 .. => if p.field = 0 then some 1 else some 4
  | .bredF32 .. | .bredF64 .. => if p.field = 0 then some 1 else if p.field = 1 then some 4 else none
  | .appendB32 .. | .appendB64 .. | .appendB128 .. | .appendB256 .. => if p.field = 0 then some 1 else if p.field = 1 then some 2 else none
  | .pref .. | .cinvCore .. | .cinvClu .. | .cinvDie .. | .cinvDev .. | .cinvSys .. | .binfin .. | .sealPage .. => if p.field = 0 then some 1 else none
  | .waita .. | .wake .. | .phregDev .. | .spmap .. => if p.field = 0 then some 1 else if p.field = 1 then some 5 else none
  | .phdropDev .. | .phsigDev .. | .phwtDev .. | .pharvDev .. => if p.field = 0 then some 1 else none
  | .phreg .. | .wopen .. => if p.field = 2 then none else some 5
  | .phdrop .. | .phsig .. | .phwt .. | .pharv .. | .wshut .. | .spunmap .. => if p.field = 0 then some 5 else none
  | .tres .. | .mxop .. | .bload .. | .copy .. | .gath .. | .scat .. | .trace .. | .tdecCont .. | .tdecAcc .. | .tdecTerm ..
  | .march .. | .launch .. => if p.field = 0 then some 1 else none
  | .emit .. | .trel .. | .gwait .. | .qsig .. => if p.field = 0 then some 5 else none
  | .br .. | .brx .. | .callx .. => some 3
  | .mts .. => some 6
  | .shflIdx .. | .shflUp .. | .shflDown .. | .shflXor .. | .voteAll .. | .voteAny .. | .voteEq .. | .ballot ..
  | .wredAddI32 .. | .wredMinI32 .. | .wredMaxI32 .. | .wredAddF32 .. | .wredAnd .. | .wredOr .. | .wredXor .. =>
    if p.field = 0 then some 7 else none
  | .twany .. | .twall .. | .tffr .. => if p.field = 0 then some 7 else none
  | _ => none

def poisonCause (code opcode : Nat) : Cause := { group := 12, code := code, d0 := opcode }

/-- The first poisoned address register of a scratchpad operand, or poisoned register of a consumed position: the latter where the thread's own values are used. -/
def poisonedReg (i : Instr) (x : Thread) (own : Bool := true) : Option Cause :=
  i.positions.findSome? fun p =>
    if p.isScratch then
      if (x.areg' ((p.code - 64) % 8)).psn then some (poisonCause 1 p.code) else none
    else if own && p.reads && p.code < 64 then
      match poisonCode i p with
      | some c => if (x.group p.code p.regs).psn then some (poisonCause c p.code) else none
      | none => none
    else none

/-- The values that a thread's instruction uses: its own, or with U = 1 those of the packet's lowest thread (R65). -/
def usedValues (i : Instr) (lead : Option (List OpVal)) (own : List (Pos × OpVal)) : List (Pos × OpVal) :=
  match lead with
  | some w => (i.positions.filter (·.reads)).zip w
  | none => own

/-- The first poisoned value of a consumed position. -/
def poisonedValue (i : Instr) : List (Pos × OpVal) → Option Cause
  | [] => none
  | (p, v) :: r =>
    match poisonCode i p with
    | some c => if v.psn then some (poisonCause c p.code) else poisonedValue i r
    | none => poisonedValue i r

/-! ### Readiness (R34, R54, R60, R62) -/

/-- Whether a pending result is to be written into stack positions [lo, lo + n). -/
def State.pendingOn (s : State) (t lo n : Nat) : Bool :=
  s.pend.any fun o => match o.dst with
    | .reg p k => ((o.tid, p) :: o.bcast).any fun x => x.1 = t && decide (lo < x.2 + k) && decide (x.2 < lo + n)
    | .scratch .. | .none => false

/-- What an operation does to its location for R136: PREF counts as a read (R213), CINV only touches its line (R214). -/
def MemOp.reads : MemOp → Bool
  | .load _ | .atomic .. | .bred _ | .binfin | .append | .pref => true
  | .store | .sealing | .cinv _ => false
def MemOp.writes : MemOp → Bool
  | .store | .atomic .. | .bred _ | .append | .sealing => true
  | .load _ | .binfin | .pref | .cinv _ => false
def MemOp.rel : MemOp → Bool
  | .atomic _ _ r _ _ => r
  | .sealing => true
  | .load _ | .store | .bred _ | .binfin | .append | .pref | .cinv _ => false
def MemOp.acq : MemOp → Bool
  | .atomic _ _ _ a _ => a
  | .load _ | .store | .bred _ | .binfin | .append | .sealing | .pref | .cinv _ => false
def MemOp.isPref : MemOp → Bool
  | .pref => true
  | .load _ | .store | .atomic .. | .bred _ | .binfin | .append | .sealing | .cinv _ => false
def MemOp.isLoad : MemOp → Bool
  | .load _ | .binfin => true
  | .store | .atomic .. | .bred _ | .append | .sealing | .pref | .cinv _ => false
/-- Operations of a packet that R217 and R221 group. -/
def MemOp.isRmw : MemOp → Bool
  | .atomic .. | .bred _ | .append => true
  | .load _ | .store | .binfin | .sealing | .pref | .cinv _ => false

/-- Whether the thread holds operations not yet performed. -/
def State.hasPend (s : State) (t : Nat) : Bool := s.pend.any fun o => o.threads.contains t
/-- Whether a thread has anything pending that an acquire follows: reads and RMWs (R136 rule 5), and accesses of space 01 (rule 6). -/
def State.readsPending (s : State) (t : Nat) : Bool := s.pend.any fun o => o.threads.contains t && (o.op.reads || o.space = 1)

/-- A thread takes part in its packet when its views hold what it pops, an acquire that follows its reads (R141; on a queue core every operation, R148), no named register awaits a result, and a scratchpad operand follows every earlier operation (R136 rule 6). -/
def laneReady (i : Instr) (s : State) (t : Nat) : Bool :=
  let x := s.thread t
  let ps := i.positions
  ps.all fun p =>
    (!p.isPop || ((ps.filter fun y => y.isPop && y.code = p.code).length ≤ (x.view p.code).length
        && !(if isQueueTid t then s.hasPend t else s.readsPending t)))
      && (p.regs = 0 || !s.pendingOn t (x.wb + p.code) p.regs)
      && (!p.isScratch || !s.hasPend t)

/-- Marks a batch status as popped for its MARCH (R276). -/
def State.notePop (s : State) (e : PopEntry) : State :=
  { s with ops := s.ops.map fun o => if o.kind = .march && o.id = e.src then { o with popped := o.popped + 1 } else o }

/-- Pops the entries that an instruction's positions take, in order. -/
def State.popAll (s : State) (t : Nat) : List Pos → State
  | [] => s
  | p :: r =>
    if p.isPop then
      let x := s.thread t
      let s := match x.view p.code with
        | e :: _ => if p.code = 89 then s.notePop e else s
        | [] => s
      (s.setThread t (x.pop p.code)).popAll t r
    else s.popAll t r

/-- Values of pops: each position after the first of one view reads the entry after it. -/
def State.sources (s : State) (t : Nat) : List (Pos × Option Nat) → List (Pos × OpVal)
  | [] => []
  | (p, a) :: r =>
    if p.reads then
      let v := s.source t p a
      let s := if p.isPop then s.setThread t ((s.thread t).pop p.code) else s
      (p, v) :: s.sources t r
    else s.sources t r

/-- The records of poisoned scratchpad granules that operands read (R375): D0 is the granule's byte in the core's scratchpad (log 14), ADDR the operand's offset in the allocation that begins at `base`. -/
def State.scratchNotes (s : State) (base : Nat) : List (Pos × Option Nat) → List Cause
  | [] => []
  | (p, some b) :: r =>
    let here := if !p.reads then [] else (List.range (p.size / 4)).filterMap fun i =>
      if s.scratch.poisoned (b / 4 + i) then
        some { group := 10, code := 2, d0 := (b + 4 * i) / 4 * 4 % 2 ^ 20, addr := b - base, trap := false, psn := true }
      else none
    here ++ s.scratchNotes base r
  | (_, none) :: r => s.scratchNotes base r

/-- A scratchpad destination in a window that another core alone may write (R60, R107, R408). -/
def State.scratchRefusal (s : State) (t : Nat) (p : Pos) (b : Nat) : Option Cause :=
  match s.crewOf t, s.crewIdOf t with
  | some c, some id =>
    let core := coreOf t
    let off := b - c.scratchByte core 0
    ((s.core core).windows.find? fun (_, w) => w.v && w.sw && w.crew = id && w.row = off / 128 && w.wcore ≠ core % 4).map fun (_, w) =>
      ({ group := 3, code := 2, d1 := w.wcore + core % 4 * 256 } : MemErr).cause 1 off 1 p.size false
  | _, _ => none

/-- A thread's scratchpad allocation: its size and its first byte (R104). -/
def State.allocOf (s : State) (t : Nat) : Nat × Nat :=
  match s.crewOf t with
  | some k => (k.alloc, k.scratchByte (coreOf t) 0)
  | none => (0, 0)

/-- What an instruction reads of its thread, as `Thread.recent` names it: stack positions of sources, with RET those of its link; 4096 + k for an address register that a scratchpad operand names (R59, R185, R206). -/
def readKeys (i : Instr) (wb : Nat) : List Nat :=
  (i.positions.flatMap fun p =>
    if p.isScratch then [4096 + (p.code - 64) % 8] else if p.reads then (List.range p.regs).map (wb + p.code + ·) else [])
    ++ (match i with
      | .ret => [wb + 61, wb + 62, wb + 63]
      | _ => [])

/-- Errors that an instruction is the first to find in the registers it reads (R375). -/
def latentRead (i : Instr) (x : Thread) : List Nat := x.latent.filter fun k => (readKeys i x.wb).contains k
/-- Their records: ADDR 0. -/
def registerNotes (t : Nat) (ks : List Nat) : List Cause :=
  ks.map fun k => { group := 10, code := 1, d0 := registerWord t k, trap := false, psn := true }
/-- The errors have been found. -/
def State.foundErrors (s : State) (t : Nat) (ks : List Nat) : State :=
  if ks.isEmpty then s else let x := s.thread t; s.setThread t { x with latent := x.latent.filter fun k => !ks.contains k }

/-- The source values of an instruction where every source operand names a place (R65, R393). -/
def State.sourceValues (s : State) (t : Nat) (i : Instr) : Option (List (Pos × OpVal)) :=
  let ps := i.positions.filter (·.reads)
  match resolveScratch (s.thread t) (s.allocOf t).1 (s.allocOf t).2 ps with
  | .ok (_, as) => some (s.sources t (ps.zip as))
  | .error _ => none

/-- The poison marks of each source operand, granule by granule (R393). -/
def State.poisonMarks (s : State) (t : Nat) (i : Instr) : List (List Bool) :=
  let x := s.thread t
  let ps := i.positions.filter (·.reads)
  match resolveScratch x (s.allocOf t).1 (s.allocOf t).2 ps with
  | .ok (_, as) => (ps.zip as).map fun (p, a) => match a with
    | some b => (List.range ((p.size + 3) / 4)).map fun k => s.scratch.poisoned (b / 4 + k)
    | none => (List.range p.regs).map fun k => (x.reg (p.code + k)).psn
  | .error _ => []

/-- The code in a destination field, for the record of R368. -/
def dstCode (i : Instr) : Nat :=
  match i.positions.find? (fun p => p.field = 2) with
  | some p => p.code
  | none => 0

/-- A poisoned result that a scratchpad destination would store, consumed before the offset of that destination is checked (R368, R377). -/
def storedPoison (i : Instr) (vs : List (Pos × OpVal)) : Option Cause :=
  if i.computes && (i.positions.any fun p => p.field = 2 && p.role ≠ .src && p.isScratch) && vs.any (·.2.psn) then some (poisonCause 2 (dstCode i)) else none

/-- The positions that name a place, each with its scratchpad byte, the address registers moving on past each (R59): an invalid one moves none. -/
def resolveEach (x : Thread) (alloc base : Nat) : List Pos → List (Pos × Option Nat)
  | [] => []
  | p :: r =>
    match resolveScratch x alloc base [p] with
    | .ok (x', as) => (p, as.head?.join) :: resolveEach x' alloc base r
    | .error _ => resolveEach x alloc base r

/-- The source operands of an instruction that name a place. -/
def State.sourcePlaces (s : State) (t : Nat) (i : Instr) : List (Pos × Option Nat) :=
  resolveEach (s.thread t) (s.allocOf t).1 (s.allocOf t).2 (i.positions.filter (·.reads))

/-- The poison that an instruction consumes although an offset of it is invalid (R377): among the source operands that name a place. -/
def State.poisonFirst (s : State) (t : Nat) (i : Instr) (lead : Option (List OpVal)) : Option Cause :=
  let vs := usedValues i lead (s.sources t (s.sourcePlaces t i))
  (poisonedValue i vs).orElse fun _ => storedPoison i vs

/-- The records of poisoned granules that a thread reads although it traps: where a poisoned value is what it traps on (R368, R375). -/
def State.trapReads (s : State) (t : Nat) (i : Instr) (lead : Option (List OpVal)) (c : Cause) : List Cause :=
  if c.group = 12 && (poisonedReg i (s.thread t) lead.isNone).isNone then s.scratchNotes (s.allocOf t).2 (s.sourcePlaces t i) else []

/-- Steps 3 and 4 of R377, the check of a scratchpad destination, and the reading of every operand: the thread with its address registers moved, its values by position, the destination; or the cause. With U = 1 the values whose poison is consumed are those of the packet's lowest thread, `lead` (R65, R368). -/
def operands (i : Instr) (s : State) (t : Nat) (lead : Option (List OpVal) := none) : Except Cause (Thread × List (Pos × OpVal) × Dest × List Cause) :=
  let x := s.thread t
  match poisonedReg i x lead.isNone with
  | some c => .error c
  | none =>
    match resolveScratch x (s.allocOf t).1 (s.allocOf t).2 i.positions with
    | .error c => .error ((s.poisonFirst t i lead).getD c)
    | .ok (x', as) =>
      let l := i.positions.zip as
      let vs := s.sources t l
      let used := usedValues i lead vs
      match poisonedValue i used with
      | some c => .error c
      | none =>
        let notes := s.scratchNotes (s.allocOf t).2 l
        match l.find? (fun (p, _) => p.field = 2 && p.role ≠ .src) with
        | none => .ok (x', vs, .none, notes)
        | some (p, a) =>
          match a.bind (s.scratchRefusal t p) with
          | some c => .error ((storedPoison i used).getD c)
          | none => .ok (x', vs, x.dest p a, notes)

end Sys2Proof.Machine
end

