-- ==== Sys2Proof/Machine/Packet.lean ====
section
/-! DEFINITION. One packet's instruction: the word checks, each lane's operands and faults in the order of R377, the uniform bit (R65, R393), and the records and traps that follow; and the shared meaning of instructions that compute a result (R173 to R177). -/

namespace Sys2Proof.Machine

/-- What one lane is given: source values in the order A, B, D (its leader's where U = 1), its own destination, the thread whose values they are and that thread's MODE. -/
structure Given where
  vals : List OpVal
  dst : Dest
  lead : Nat
  mode : Word
  /-- With U = 1, the thread that has performed the instruction for the packet (R65). -/
  doer : Option Nat := none
  deriving DecidableEq, Repr

def Given.v (a : Given) (i : Nat) : Nat := (a.vals.getD i ⟨0, false⟩).val
def Given.anyPsn (a : Given) : Bool := a.vals.any (·.psn)

/-- What one lane's part of an instruction comes to. -/
inductive LaneOut where
  /-- Performed, with records at level 0. -/
  | done (s : State) (notes : List Cause)
  /-- Left out of the packet (R34, R62): nothing happens and the thread stays ready. -/
  | wait
  /-- The instruction has not happened in the thread, which stays at its PC, parked or ready; of the state what the attempt began is kept. -/
  | stay (s : State) (p : Option Park)
  /-- As `stay`, of the thread's own record too: it is ready at its PC. -/
  | leave (s : State)
  /-- The thread traps; of the state only what checks themselves change is kept. -/
  | trap (s : State) (c : Cause)

/-- What a packet's lanes have come to so far. -/
structure Acc where
  s : State
  /-- The scratchpads as the packet finds them: every source is read before any destination is written (R174). -/
  start : PMem := s.scratch
  causes : List (Nat × Cause) := []
  /-- The packet's lowest-index thread with its source values and their poison marks (R65). -/
  lead : Option (Nat × List OpVal) := none
  marks : List (List Bool) := []
  /-- Threads that differ from the lowest one, with the first differing position (R393). -/
  differ : List (Nat × Nat) := []
  /-- The first thread that has performed the instruction (R65, R377). -/
  doer : Option Nat := none

/-- The state in which a thread of the packet reads its operands. -/
def Acc.before (a : Acc) : State := { a.s with scratch := a.start }

/-- Whether a core thread's crew lets it run: running, or stopping while the ordered grid's running wave goes on (R297, R46). -/
def State.crewRuns (s : State) (t : Nat) : Bool :=
  match s.crewOf t with
  | some c => c.run = .running || (c.run = .stopping && s.orderedGrid t && ((s.waveAt t).map (·.running)).getD false)
  | none => false

/-- A packet's thread that can issue: ready, still at the packet's PC, its crew running, or aborted after the packet was chosen (R364 step 1), or its queue program started, no APPEND of it before a comparator (R298). -/
def State.canIssue (s : State) (t : Nat) : Bool :=
  (s.thread t).run = .ready && (s.cur.pc.all fun p => (s.thread t).pc = p) && !(s.pend.any fun o => o.tid = t && o.op = .append) &&
    (if isQueueTid t then (s.queue (queueOf t)).run else s.crewRuns t || (s.cur.pc.isSome && (s.crewOf t).any (·.run = .aborted)))

def State.advance (s : State) (t : Nat) : State :=
  let x := s.thread t
  s.setThread t { x with pc := pcAdd x.pc 4, joined := false }

/-- The first position whose values differ, as R393 numbers them. -/
def firstDiff : List (Pos × OpVal) → List OpVal → Option Nat
  | (p, v) :: r, w :: l => if v = w then firstDiff r l else some p.field
  | _, _ => none

/-- The first position whose poison marks differ (R393). -/
def firstMark : List Pos → List (List Bool) → List (List Bool) → Option Nat
  | p :: r, v :: l, w :: m => if v = w then firstMark r l m else some p.field
  | _, _, _ => none

/-- The lower of two positions in the order A, B, D. -/
def lowerOf (a b : Option Nat) : Option Nat :=
  match a, b with
  | some x, some y => some (min x y)
  | some x, none => some x
  | none, y => y

/-- A thread of the packet is compared with the lowest-index one, or becomes it (R65, R393): `s` is the state before it acts. -/
def Acc.compare (a : Acc) (u : Bool) (i : Instr) (s : State) (t : Nat) (vs : List (Pos × OpVal)) : Acc :=
  match a.lead with
  | none => { a with lead := some (t, vs.map (·.2)), marks := s.poisonMarks t i }
  | some (_, w) =>
    if !u then a
    else match lowerOf (firstDiff vs w) (firstMark (vs.map (·.1)) (s.poisonMarks t i) a.marks) with
      | some p => { a with differ := a.differ ++ [(t, p)] }
      | none => a

/-- As `compare`, for a thread that traps on its operands: where its sources have values. A lowest thread whose sources have none gives no value, and the next thread's are used (log 24, DESIGN CHOICE: R177 is silent there). -/
def Acc.compareBad (a : Acc) (u : Bool) (i : Instr) (s : State) (t : Nat) : Acc :=
  match s.sourceValues t i with
  | some vs => a.compare u i s t vs
  | none => a

/-- The uses of the trap state that a thread outside its handler may not make (R384): MTS to TPC or TMODE, and ERET. -/
def trapStateCause (i : Instr) (x : Thread) : Option Cause :=
  if x.trap.inh then none
  else match i with
    | .mts _ sel => if sel.toNat = 32 || sel.toNat = 43 then some { group := 1, code := 8, d0 := 0x7ff, d1 := sel.toNat, whole := true } else none
    | .eret => some { group := 1, code := 8, d0 := 0x1e00000, d1 := 0, whole := true }
    | _ => none

/-- Steps 2 to 4 of R377 for one thread. -/
def laneOperands (i : Instr) (s : State) (t : Nat) (lead : Option (List OpVal) := none) : Except Cause (Thread × List (Pos × OpVal) × Dest × List Cause) :=
  match trapStateCause i (s.thread t) with
  | some c => .error c
  | none => operands i s t lead

/-- Result registers may be read from the third cycle after issue (R34, R175). -/
def State.noteRecent (s : State) (t p n : Nat) : State :=
  if isQueueTid t then s
  else
    let x := s.thread t
    let now := (s.core (coreOf t)).cyc.toNat
    s.setThread t { x with recent := (List.range n).map (fun i => (p + i, now + 3)) ++ x.recent.filter fun r => now < r.2 }

/-- The address registers that an instruction's operands move. -/
def bumps (i : Instr) : List Nat := i.positions.filterMap fun p => if p.isScratch && 72 ≤ p.code then some (p.code - 72) else none

/-- Address registers that an arithmetic instruction moves are results of it (R34, R59). -/
def State.noteBumps (s : State) (t : Nat) (i : Instr) : State :=
  if i.computes || (encode i).toNat / 2 ^ 25 % 64 = 0x24 then (bumps i).foldl (fun s k => s.noteRecent t (4096 + k) 1) s else s

/-- The operands of a thread's instruction are taken: address registers moved, popped entries gone. -/
def State.took (s : State) (i : Instr) (t : Nat) (x' : Thread) : State := ((s.setThread t x').popAll t i.positions).noteBumps t i

/-- One lane (R377 steps 2 to 6): left out, faulting, or performed. -/
def laneStep (i : Instr) (u : Bool) (act : State → Nat → Given → LaneOut) (a : Acc) (t : Nat) : Acc :=
  if !(a.s.canIssue t && laneReady i a.s t) then a
  else
    let bad := latentRead i (a.s.thread t)
    let w := if u then a.lead.map (·.2) else none
    match laneOperands i a.before t w with
    | .error c => { a.compareBad u i a.before t with s := a.s.foundErrors t bad, causes := a.causes ++ (registerNotes t bad ++ a.before.trapReads t i w c ++ [c]).map fun c => (t, c) }
    | .ok (x', vs, d, reads) =>
      let own := vs.map (·.2)
      let (lead, vals) := match a.lead with
        | some (l, v) => if u then (l, v) else (t, own)
        | none => (t, own)
      match act (a.s.took i t x') t { vals := vals, dst := d, lead := lead, mode := (a.s.thread lead).mode, doer := if u then a.doer else none } with
      | .wait => a
      | .stay s2 p =>
        let x := a.s.thread t
        { a with s := { s2.setThread t { x with run := match p with | some p => .parked p | none => x.run } with ops := a.s.ops } }
      | .leave s2 => { a with s := { s2 with ops := a.s.ops } }
      | .trap s2 c =>
        { a.compare u i a.before t vs with s := { (s2.setThread t (a.s.thread t)).foundErrors t bad with ops := a.s.ops }, causes := a.causes ++ (registerNotes t bad ++ reads ++ [c]).map fun c => (t, c) }
      | .done s2 notes =>
        { a.compare u i a.before t vs with s := s2.foundErrors t bad, causes := a.causes ++ (registerNotes t bad ++ reads ++ notes).map fun c => (t, c), doer := some (a.doer.getD t) }

/-- The record of R393 for the threads of one packet that differ. -/
def uniformCause (differ : List (Nat × Nat)) : List (Nat × Cause) :=
  match differ with
  | [] => []
  | (t, p) :: r =>
    let pos := r.foldl (fun m x => min m x.2) p
    [(t, { group := 1, code := 0x80, d0 := laneMask (differ.map (·.1)), d1 := pos, trap := false })]

/-- The cause of a word check (R376). -/
def wordCause (f : WordFault) : Cause :=
  { group := 1, code := f.code, d0 := f.mask, d1 := f.d1, whole := true }

/-- The thread whose PC a packet fetches at. -/
def State.lead (s : State) : Option Nat := s.cur.tids.head?

/-- Whether the packet's threads are of a queue core. -/
def State.onQueue (s : State) : Bool := s.cur.tids.any isQueueTid

/-- The PC of the current packet, before its threads move on. -/
def State.leadPc (s : State) : Option Nat := s.lead.map fun t => (s.thread t).pc.toNat

/-- Writes the records of a packet, which name the PC it issued at, and takes its traps. A streamed packet is one (R37), its lanes marked as in LANES (log 14). -/
def Acc.finish (a : Acc) (insn after : Nat) (pc : Option Nat := none) : State :=
  let late := if a.doer.isSome then uniformCause a.differ else []
  let all := (a.causes ++ late).map fun (t, c) => (t, { c with pc := pc })
  a.s.report (all.length + 1) all insn after

/-- The records of a cross-thread group's packet on pipeline `q` (R38): after those of the packets of the core's cycle that are on lower pipelines (R377). -/
def State.quarterRecords (s : State) (core insn : Nat) (cs : List (Nat × Cause)) (q : Nat) : State :=
  let lower (p : Packet) : Bool := p.pipe < q && (p.tids ++ p.late.map (·.1)).any fun t => !isQueueTid t && coreOf t = core
  let pos := (s.picks.zipIdx.filter fun x => lower x.1).foldl (fun m x => max m (x.2 + 1)) 0
  if cs = [] then s
  else if pos = 0 then s.report (cs.length + 1) cs insn 0
  else { s with picks := s.picks.take pos ++ { pipe := q, late := cs, insn := insn } :: s.picks.drop pos }

/-- As `finish`, for a cross-thread group, which is a packet on each pipeline whose quarter holds threads of it, compared packet by packet (R38, R393). -/
def Acc.finishGroup (a : Acc) (insn core : Nat) (pc : Option Nat) : State :=
  let here (q : Nat) (t : Nat) : Bool := laneOf t / 32 = q
  let causes (q : Nat) : List (Nat × Cause) :=
    ((a.causes.filter fun x => here q x.1) ++ if a.doer.isSome then uniformCause (a.differ.filter fun x => here q x.1) else []).map fun (t, c) => (t, { c with pc := pc })
  (List.range 4).foldl (fun s q => s.quarterRecords core insn (causes q) q) a.s

/-- Records that have waited for those of lower pipelines. -/
def State.lateRecords (s : State) : State := s.report (s.cur.late.length + 1) s.cur.late s.cur.insn 0

/-- An instruction of the current packet (R377): `act` performs it in one lane. -/
def runPacket (i : Instr) (u : Bool) (act : State → Nat → Given → LaneOut) (s : State) :
    Host.Outcome State Fault Refusal :=
  let insn := (encode i).toNat
  match i.check s.onQueue with
  | some f =>
    let ts := s.cur.tids.filter s.canIssue
    .next (({ s := s, causes := ts.map fun t => (t, wordCause f) } : Acc).finish insn 0)
  | none => .next ((s.cur.tids.foldl (laneStep i u act) { s := s }).finish insn 0 s.leadPc)

/-! ### Results -/

/-- Sticky flags are set and never cleared (R68). -/
def State.setFlags (s : State) (t : Nat) (f : Flags) : State :=
  let x := s.thread t
  s.setThread t { x with mode := x.mode ||| f.bits }

/-- Bits of a poisoned result, which R367 leaves unspecified (log 9): `n` words. -/
def State.freeWords (s : State) : Nat → List Word × State
  | 0 => ([], s)
  | n + 1 =>
    let (k, s) := s.tick
    let (l, s) := s.freeWords n
    (Config.freeWord k :: l, s)

/-- Writes an arithmetic result: words to registers, or bytes to the scratchpad. -/
def State.writeResult (s : State) (t : Nat) (d : Dest) (v : Nat) : State :=
  match d with
  | .reg p n => (s.writeDest t d v false).noteRecent t p n
  | .scratch .. | .none => s.writeDest t d v false

/-- A poisoned result (R367): registers with unspecified bits. -/
def State.writePoison (s : State) (t : Nat) (d : Dest) : State :=
  match d with
  | .reg p n =>
    let (ws, s) := s.freeWords n
    (s.setThread t ((s.thread t).setWords p (ws.map fun w => ⟨w, true⟩))).noteRecent t p n
  | .scratch .. | .none => s

/-- One lane of an instruction that computes: `f` takes the source values and MODE to the result and flags. A poisoned source poisons the result without flags; a poisoned scratchpad result is store data consumed (R368). -/
def computeLane (i : Instr) (f : Given → Nat × Flags) (s : State) (t : Nat) (a : Given) : LaneOut :=
  if a.anyPsn then
    match a.dst with
    | .scratch .. => .trap s (poisonCause 2 (dstCode i))
    | .reg .. | .none => .done ((s.writePoison t a.dst).advance t) []
  else
    let (v, fl) := f a
    .done (((s.writeResult t a.dst v).setFlags t fl).advance t) []

/-- An instruction that computes a result from its sources (R174 to R177). -/
def compute (i : Instr) (u : Bool) (f : Given → Nat × Flags) (s : State) : Host.Outcome State Fault Refusal :=
  runPacket i u (computeLane i f) s

end Sys2Proof.Machine
end

