-- ==== Sys2Proof/Machine/Registers.lean ====
section
/-! DEFINITION. The device register space (R338): where each register lies and what it reads. -/

namespace Sys2Proof.Machine

/-- Offsets in the register space (R338, R120, R287, R309, R345, R349, R437). -/
def offHscmd : Nat := 0x20000
def offHsring : Nat := 0x20008
def offInvva : Nat := 0x20010
def offInvcmd : Nat := 0x20018
def offWdcfg : Nat := 0x21000
def offSlot : Nat := 0x22000
def offBudget : Nat := 0x30000
def offAttreq : Nat := 0x40000
def offLock : Nat := 0x40008
def offBootst : Nat := 0x40010
def offDevid : Nat := 0x50000
def offRoute : Nat := 0x51000

def State.regVal (s : State) (off : Nat) : Nat := (s.regs.lookD off 0).toNat
def State.setRegVal (s : State) (off v : Nat) : State := { s with regs := s.regs.put off (BitVec.ofNat 64 v) }

/-- Unfinished grids of a queue (R284). -/
def State.gridsOf (s : State) (q : Nat) : Nat := (s.grids.filter fun (_, g) => g.queue = q).length

/-- QC_QSTAT (R284). -/
def State.qstat (s : State) (q : Nat) : Nat :=
  let x := s.queue q
  x.qctx * 2 ^ 32 + s.gridsOf q * 2 ^ 16 + x.flt.toNat * 4 + x.rej.toNat * 2 + x.run.toNat

/-- A slot-table entry's fields (R287). -/
structure Slot where
  cmask : Nat
  ctx : Nat
  pcap : Nat
  share : Nat
  ctl : Nat
  res : Nat
  deriving DecidableEq, Repr

def State.slotBytes (s : State) (q lo n : Nat) : Nat := leNat ((List.range n).map fun i => s.slots.lookD (32 * q + lo + i) 0)
def State.slot (s : State) (q : Nat) : Slot :=
  ⟨s.slotBytes q 0 24, s.slotBytes q 24 1, s.slotBytes q 25 1, s.slotBytes q 26 1, s.slotBytes q 27 1, s.slotBytes q 28 4⟩

/-- A core leaves every CMASK (R362, R433). -/
def State.leaveMask (s : State) (core : Nat) : State :=
  { s with slots := (List.range Config.queues).foldl (fun m q =>
      let k := 32 * q + core / 8
      let b := (m.lookD k 0).toNat
      if bit b (core % 8) then m.put k (BitVec.ofNat 8 (b - 2 ^ (core % 8))) else m) s.slots }

/-- V, where the entry is not malformed (R287). -/
def Slot.valid (e : Slot) : Bool := e.ctl = 1 && e.pcap ≤ 63 && 1 ≤ e.share && e.share ≤ 64 && e.res = 0

/-- The register in the 8 bytes at an offset (R338): an address that no register occupies reads 0. MX_BUSUM of core 191 lies at +0x08 of its registers as R309's table puts it, beyond the end that R309 states (log 60). -/
def State.regWord (s : State) (off : Nat) : Nat :=
  if off < 0x1000 then
    let q := off / 64
    if off % 64 = 0 then (s.queue q).entry.toNat / 4 * 4
    else if off % 64 = 8 then s.qstat q
    else if off % 64 = 16 then (s.queue q).sigCount.toNat * 2 ^ 32 + (s.queue q).sigValue.toNat
    else 0
  else if 0x10000 ≤ off && off < 0x10000 + 0x40 * Config.cores then
    let c := s.core ((off - 0x10000) / 64)
    if off % 64 = 0 then c.cadence else if off % 64 = 8 then c.busum.toNat else 0
  else if off = offInvcmd then s.regVal offInvcmd + (if s.invBusy.isSome then 2 ^ 63 else 0)
  else if offSlot ≤ off && off < offSlot + 2048 then s.slotBytes 0 (off - offSlot) 8
  else if off = offLock then s.locked.toNat
  else if off = offHscmd then 0
  else s.regVal off

/-- A read of register bytes. -/
def State.regRead (s : State) (pa n : Nat) : List Byte :=
  (List.range n).map fun i =>
    let off := pa - Config.regBase + i
    BitVec.ofNat 8 (s.regWord (off / 8 * 8) / 256 ^ (off % 8))

/-- LK_ROUTE of a device (R338): its link mask. -/
def State.route (s : State) (dev : Nat) : Nat :=
  s.regVal (offRoute + dev / 4 * 8) / 2 ^ (16 * (dev % 4)) % 2 ^ 12

end Sys2Proof.Machine
end

