-- ==== Sys2Proof/Machine/Access.lean ====
section
/-! DEFINITION. Memory accesses of threads: the checks of each space (R97 to R131, R202, R399, R400), the order of pending operations (R136), and what issuing an access records. -/

namespace Sys2Proof.Machine

/-! ### Checks -/

/-- Where a checked access goes. -/
structure Target where
  space : Nat
  ptr : Nat
  pa : Nat
  /-- 0 HBM or host window, 1 scratchpad byte, 2 remote, 3 device register. -/
  place : Nat
  cls : Nat := 0
  leaf : Nat := 0
  psize : Nat := 65536
  md : Nat := 0
  /-- The bounds entry of its region (R112). -/
  bounds : Bounds := ⟨0, 0, 0⟩
  deriving DecidableEq, Repr

/-- What the checks of an access come to. -/
inductive Checked where
  | ok (t : Target)
  | bad (e : MemErr)
  /-- A host-owned HOSTSHARE page (R129). -/
  | hostOwned (page : HostPage)
  deriving DecidableEq, Repr

/-- A slot record as R106 lays it out. -/
def Window.word (w : Window) : Nat := w.v.toNat * 2 ^ 31 + w.sw.toNat * 2 ^ 30 + w.wcore * 2 ^ 28 + w.row * 2 ^ 7

/-- Whether a read finds its line of a sealed page in a replica that the reading die holds: it stays readable when the home's die is fenced (R127, R433). -/
def State.replicaHeld (s : State) (t pa cls leaf psize : Nat) (k : Need) : Bool :=
  k = .read && cls = 1 && !isQueueTid t && s.sealedAt (pa / psize * psize) leaf
    && s.replicaLines.contains (dieOfCore (coreOf t) * 2 ^ 48 + lineOf pa)

/-- Checks of a global access (R113 to R119, R129, R116 at the home). -/
def State.checkGlobal (s : State) (t p n : Nat) (k : Need) : State × Checked :=
  match s.translateFor t p n k with
  | (s, .error e) => (s, .bad e)
  | (s, .ok tr) =>
    if tr.remote.isSome then (s, .ok { space := 0, ptr := p, pa := tr.pa, place := 2 })
    else if inRegs tr.pa then (s, .ok { space := 0, ptr := p, pa := tr.pa, place := 3 })
    else match (if s.replicaHeld t tr.pa tr.cls tr.leaf tr.psize k then none else s.fencedErr tr.pa) with
      | some e => (s, .bad e)
      | none =>
        if tr.cls = 2 && tr.owner then (s, .hostOwned ⟨tr.pa / tr.psize * tr.psize, tr.psize, tr.leaf⟩)
        else
          let s := if tr.cls = 1 then s.touchHome (dieOfWho (whoOf t) tr.leaf) tr.leaf else s -- the home reads the attribute word (R116, R445)
          if tr.cls = 1 && s.badAppend tr.leaf tr.psize then (s, .bad { code := 4, reason := 7, d1 := s.homeNat tr.leaf 8 })
          else (s, .ok { space := 0, ptr := p, pa := tr.pa, place := 0, cls := tr.cls, leaf := tr.leaf, psize := tr.psize, md := tr.md, bounds := ⟨tr.base, tr.limit, tr.ctl⟩ })

/-- Why bytes of a crew's own allocation on a core take no write of a core, numbered within its cluster: a single-writer window of another core lies there (R107, R408). -/
def State.singleWriter (s : State) (core crew off by' : Nat) : Option MemErr :=
  ((s.core core).windows.find? fun (_, w) => w.v && w.sw && w.crew = crew && w.row = off / 128 && w.wcore ≠ by').map fun (_, w) =>
    { group := 3, code := 2, d1 := w.wcore + by' * 256 }

/-- Checks of a space-01 access (R104, R107). -/
def State.checkScratch (s : State) (t off n : Nat) (k : Need) : Checked :=
  match s.crewOf t, s.crewIdOf t with
  | some c, some id =>
    let core := coreOf t
    if c.alloc < off + n then .bad { code := 8, d1 := c.alloc }
    else match (if k.writes then s.singleWriter core id off (core % 4) else none) with
      | some e => .bad e
      | none => .ok { space := 1, ptr := off, pa := c.scratchByte core off, place := 1 }
  | _, _ => .bad { code := 8 }

/-- Checks of a space-10 access (R106, R107). -/
def State.checkWindow (s : State) (t a : Nat) (k : Need) : Checked :=
  let home := coreOf t / 4 * 4 + bits a 14 13
  let w := (s.core home).windows.lookD (bits a 12 7) {}
  if a / 2 ^ 15 ≠ 0 then .bad { group := 3, code := 1, reason := 1, d1 := w.word }
  else if !w.v then .bad { group := 3, code := 1, reason := 2, d1 := w.word }
  else if k.writes && w.sw && w.wcore ≠ coreOf t % 4 then .bad { group := 3, code := 2, d1 := w.wcore + coreOf t % 4 * 256 }
  else match s.crews.look w.crew with
    | none => .bad { group := 3, code := 1, reason := 2, d1 := w.word }
    | some c => .ok { space := 2, ptr := a, pa := c.scratchByte home (w.row * 128 + a % 128), place := 1 }

/-- Checks of a space-11 access (R98, R99, R211). -/
def State.checkSystem (s : State) (t p : Nat) : Checked :=
  let granted := (s.thread t).trap.inh && ((s.contexts.look (s.ctxOf t)).map (·.sys)).getD false
  if !granted then .bad { code := 6 }
  else if 2 ^ 48 ≤ p || reservedPa p then .bad { code := 7, d1 := p }
  else if inRegs p then .ok { space := 3, ptr := p, pa := p, place := 3 }
  else match s.fencedErr p with
    | some e => .bad e
    | none => .ok { space := 3, ptr := p, pa := p, place := 0 }

/-- Every check of one access (R377 step 5): alignment to `al` first. -/
def State.check (s : State) (t space p n al : Nat) (k : Need) : State × Checked :=
  if p % al ≠ 0 then (s, .bad { code := 1 })
  else match space with
    | 0 => s.checkGlobal t p n k
    | 1 => (s, s.checkScratch t p n k)
    | 2 => (s, s.checkWindow t p k)
    | _ => (s, s.checkSystem t p)

/-- The address of a lane (R211): base, offset in bytes, space. In space 11 the sum is taken modulo 2^64 as R211 has it, where R154 keeps bits 63:56 (log 60). -/
def laneAddr (space base : Nat) (off : Int) : Nat :=
  match space with
  | 0 => ptrAdd base off
  | 3 => trunc ((base : Int) + off) 64
  | _ => trunc ((base : Int) + off) 32

/-! ### Order of pending operations (R136) -/

/-- The bytes that an operation touches for R136, from an address: APPEND and SEAL touch their page, a remote one of at most 16 MiB (R116, R221, R222; log 57), PREF every byte of its line (R213). -/
def PendOp.reach (o : PendOp) : Nat × Nat :=
  match o.op with
  | .append | .sealing => if o.place = 2 then (o.pa / 2 ^ 24 * 2 ^ 24, 2 ^ 24) else (o.pa, o.size)
  | .pref => (lineOf o.pa, 128)
  | .load _ | .store | .atomic .. | .bred _ | .binfin | .cinv _ => (o.pa, o.size)

/-- Two operations touch a common location. -/
def PendOp.overlaps (x y : PendOp) : Bool :=
  (x.place = 1) = (y.place = 1) && decide (x.reach.1 < y.reach.1 + y.reach.2) && decide (y.reach.1 < x.reach.1 + x.reach.2)

/-- X, earlier in program order of the same thread, is ordered before Y (R136); a queue core's operations are in program order (R148). -/
def orderedBefore (x y : PendOp) : Bool :=
  isQueueTid x.tid || x.overlaps y || y.op.rel || x.op.acq || (x.op.rel && y.op.writes)
    || (y.op.acq && x.op.reads) || x.space = 1 || y.space = 1

/-- Stores and atomics of one packet to one location go in ascending thread index (R212, R217). -/
def packetBefore (x y : PendOp) : Bool :=
  x.pkt = y.pkt && x.tid < y.tid && x.overlaps y && x.op.writes && y.op.writes

/-- Whether an operation must wait for another that is pending; one that has failed is as if absent (R401). -/
def State.blocked (s : State) (y : PendOp) : Bool :=
  s.pend.any fun x => x.id < y.id && x.err.isNone && ((x.threads.any (y.threads.contains ·) && x.grp ≠ y.grp && orderedBefore x y) || packetBefore x y)

/-- Whether a thread has any operation pending (a release's reach, R136 rule 2). -/
def State.busy (s : State) (t : Nat) : Bool := s.hasPend t

/-! ### Issue -/

/-- Threads of a DUAL grid, and of a SAMPLED shadow. -/
def State.dualOf (s : State) (t : Nat) : Bool :=
  match s.crewOf t with
  | some c => c.copy = 1 || (c.copy = 0 && c.twin.isSome)
  | none => false
def State.shadowOf (s : State) (t : Nat) : Bool :=
  match s.crewOf t with
  | some c => c.copy = 2
  | none => false
def State.sampledOf (s : State) (t : Nat) : Bool :=
  match s.crewOf t with
  | some c => 2 ≤ c.copy
  | none => false

/-- The thread's index in its crew (%tid, R26). -/
def State.crewLane (s : State) (t : Nat) : Nat := ((s.waveAt t).map (·.index)).getD 0 * 128 + laneOf t

/-- An access about to be recorded: fields every operation of an instruction shares. -/
def State.newOp (s : State) (t : Nat) (g : Target) (op : MemOp) (size : Nat) (insn : Nat) : PendOp :=
  { id := s.uid, grp := s.uid, tid := t, core := coreOf t, ctx := s.ctxOf t, op := op, space := g.space, ptr := g.ptr,
    pa := g.pa, place := g.place, cls := g.cls, leaf := g.leaf, psize := g.psize, md := g.md, size := size,
    pc := (s.thread t).pc.toNat, insn := insn, pkt := s.cur.num, seq := (s.thread t).seq }

/-- A read that is part of an instruction's issue (R242, R280): its number names the thread, so that a fill for it is asked for once. -/
def State.issueRead (s : State) (t : Nat) (g : Target) (n insn : Nat) : PendOp := { s.newOp t g (.load false) n insn with id := 2 ^ 60 + t }

def State.pushOp (s : State) (o : PendOp) : State := { s with pend := s.pend ++ [o], uid := s.uid + 1 }

/-- Divides an access wider than 8 bytes into its 8-byte units (R138), each with its part of the data and of the destination. -/
def PendOp.units (o : PendOp) : List PendOp :=
  if o.size ≤ 8 then [o]
  else (List.range (o.size / 8)).map fun i =>
    { o with
      id := o.id + i, ptr := o.ptr + 8 * i, pa := o.pa + 8 * i, size := 8, data := (o.data.drop (8 * i)).take 8
      dst := match o.dst with
        | .reg p _ => .reg (p + 2 * i) 2
        | .none => .none
        | .scratch b n => .scratch b n }

def State.pushUnits (s : State) (o : PendOp) : State :=
  let us := o.units
  { s with pend := s.pend ++ us, uid := s.uid + us.length }

/-- A write operation counts in the thread's sequence of global writes (R298). -/
def State.bumpSeq (s : State) (t : Nat) : State :=
  let x := s.thread t
  s.setThread t { x with seq := x.seq + 1 }

def State.addLoads (s : State) (t : Nat) : State := let x := s.thread t; s.setThread t { x with loads := x.loads + 1 }
def State.addStores (s : State) (t : Nat) : State := let x := s.thread t; s.setThread t { x with stores := x.stores + 1 }

/-- Marks a destination poisoned; its bits stay (R366). -/
def Thread.poisonRegs (x : Thread) (p : Nat) : Nat → Thread
  | 0 => x
  | n + 1 => (x.setPos p { x.regs.lookD p {} with psn := true }).poisonRegs (p + 1) n
def State.poisonDest (s : State) (t : Nat) (d : Dest) : State :=
  match d with
  | .none => s
  | .reg p n => s.setThread t ((s.thread t).poisonRegs p n)
  | .scratch b n => { s with scratch := (List.range ((n + 3) / 4)).foldl (fun m i => m.mark (b / 4 + i) true) s.scratch }

/-- A refused write to an APPEND page (R124, R403): append-write, or write-after-seal. -/
def State.appendRefusal (s : State) (g : Target) : MemErr :=
  let base := g.pa / g.psize * g.psize
  if s.sealedAt base g.leaf then { code := 0xb, d1 := s.tailOf base g.leaf }
  else { code := 0xa, d1 := s.tailOf base g.leaf }

/-- Stack position of a register destination. -/
def Dest.pos : Dest → Nat
  | .reg p _ => p
  | .scratch .. | .none => 0
def Dest.count : Dest → Nat
  | .reg _ n => n
  | .scratch .. | .none => 0

/-! ### HOSTSHARE migrations (R129, R339) -/

/-- Bytes of a ring entry. -/
def HsEntry.bytes (e : HsEntry) : List Byte :=
  leBytes 8 e.va ++ [BitVec.ofNat 8 e.ctx, BitVec.ofNat 8 e.kind] ++ leBytes 2 (e.seq % 4096) ++ List.replicate 20 0

/-- The physical address of a host address: itself in the host window, else its place there. -/
def hostPa (a : Nat) : Nat := if inHost a then a else Config.hostBase + a % (Config.hostEnd - Config.hostBase)

/-- Writes a ring entry and raises vector 64; not while 256 entries are unacknowledged (R339). -/
def State.postEntry (s : State) (e : HsEntry) : State :=
  if 256 ≤ s.hsRing.length then s
  else
    let e := { e with seq := s.hsSeq }
    let ring := s.regVal offHsring / 8192 * 8192
    { s.homeWrite (hostPa ring + 32 * (s.hsSeq % 256)) (clean e.bytes) with hsRing := s.hsRing ++ [e], hsSeq := s.hsSeq + 1 }.raise 64

/-- Whether a release request for a page is outstanding, or the page is on its way to the host. -/
def State.migrating (s : State) (page : Nat) : Bool := s.hsRing.any (fun e => e.page = page && e.kind = 1) || s.toHost.any fun e => e.page = page

/-- MIGRATION_REQUEST (R129): a release request for the host-owned page of a pointer, where none is outstanding. -/
def State.wantPage (s : State) (t ctx ptr : Nat) (h : HostPage) : State :=
  if s.migrating h.page then s
  else s.postEntry { seq := 0, kind := 1, ctx := ctx, va := vaOf ptr / h.psize * h.psize, page := h.page, psize := h.psize, leaf := h.leaf,
                     tid := t, since := s.etimeOf t }

/-- Asks again for the pages that parked threads wait for and nobody has asked for. -/
def State.wantParked (s : State) : State :=
  s.threads.foldl (fun s (t, x) => match x.run with
    | .parked (.hostshare page ptr _ _ _ _ _) => s.wantPage t (s.ctxOf t) ptr page
    | _ => s) s

/-- A thread parks on a host-owned page (R129), and its instruction runs again afterwards. -/
def hostPark (page : HostPage) (ptr kind size insn : Nat) (load : Bool) (d : Dest) : Option Park :=
  some (.hostshare page ptr kind size insn load d)

end Sys2Proof.Machine
end

