-- ==== Sys2Proof/Machine/Perform.lean ====
section
/-! DEFINITION. Performing pending operations: loads, stores, atomics, bin records, seals, write-backs and drops (R135 to R142, R216 to R222, R92 to R94, R367, R375, R411). -/

namespace Sys2Proof.Machine

/-! ### Counters (R223, R224) -/

def Thread.countersMet (x : Thread) (l st c t : Nat) : Bool := x.loads ≤ l && x.stores ≤ st && x.copies ≤ c && x.tiles ≤ t

/-- A thread parked by WAITC goes on when its counters are low enough (R224). -/
def State.wakeCounters (s : State) (t : Nat) : State :=
  match (s.thread t).run with
  | .parked (.counters l st c tl) => if (s.thread t).countersMet l st c tl then s.unpark t else s
  | _ => s

def State.subLoads (s : State) (t : Nat) : State :=
  let x := s.thread t; (s.setThread t { x with loads := x.loads - 1 }).wakeCounters t
def State.subStores (s : State) (t : Nat) : State :=
  let x := s.thread t; (s.setThread t { x with stores := x.stores - 1 }).wakeCounters t

/-- Removes a performed operation; the counter falls with the last of its units. -/
def State.completeOp (s : State) (o : PendOp) : State :=
  let s := { s with pend := s.pend.filter fun x => x.id ≠ o.id }
  if 2 ^ 59 ≤ o.pkt || s.pend.any fun x => x.grp = o.grp then s
  else match o.op with
    | .load _ | .binfin | .append => (o.tid :: o.bcast.map (·.1)).foldl (fun s t => s.subLoads t) s
    | .atomic _ ret _ _ _ => (o.tid :: o.bcast.map (·.1)).foldl (fun s t => if ret then s.subLoads t else s.subStores t) s
    | .store | .bred _ | .sealing => (o.tid :: o.bcast.map (·.1)).foldl (fun s t => s.subStores t) s
    | .pref | .cinv _ => s

/-! ### Records of performed operations -/

/-- The pointer of the access that an operation is a unit of (R138, R398). -/
def PendOp.access (o : PendOp) : Nat := if o.pkt < 2 ^ 59 then o.ptr - 8 * (o.id - o.grp) else o.ptr

/-- SIZE of the access that an operation is a unit of (R398). -/
def PendOp.accessSize (o : PendOp) : Nat :=
  match o.op with
  | .append | .bred _ => o.data.length
  | .sealing => 1
  | .binfin => 8
  | .load _ | .store | .atomic .. | .pref | .cinv _ =>
    match decode (BitVec.ofNat 32 o.insn) with
    | some (.ld _ _ _ w _ _) | some (.st _ _ _ w _ _) => if o.pkt < 2 ^ 59 then 2 ^ w.toNat else o.size
    | _ => o.size

/-- KIND of an operation (R398). -/
def MemOp.kind : MemOp → Nat
  | .load _ | .binfin | .pref | .cinv _ => 0
  | .store => 1
  | .atomic .. | .bred _ => 2
  | .append | .sealing => 7

/-- NEST of a record about an instruction's operation (R370); an engine's operations are numbered from 2^59. -/
def State.nestOf (s : State) (o : PendOp) : Nat := if o.pkt < 2 ^ 59 && (s.thread o.tid).trap.inh then 2 ^ 28 else 0

/-- A record that names an operation's instruction and thread. -/
def State.opRec (s : State) (o : PendOp) (cause d0 d1 : Nat) : State :=
  (s.logFault o.ctx { pc := o.pc, addr := o.access, etime := s.etimeOf o.tid, insn := o.insn, cause := cause + s.nestOf o, wher := whereField s o.tid / 256 * 256 + o.ctx,
                      grid := if o.grid = 0 then s.gridField o.tid else o.grid, d0 := d0, d1 := d1 }).1

/-- Whether what a number names still writes records of one packet or operation: the packet itself, its pending accesses, an engine's operation, a matrix command. -/
def State.stillReads (s : State) (pkt n : Nat) : Bool :=
  n = pkt || s.pend.any (fun x => x.pkt = n) || s.ops.any (fun x => engId x.id 0 = n)
    || (2 ^ 62 ≤ n && s.cores.any fun (_, c) => c.mxc.any fun m => 2 ^ 62 + m.op = n)

/-- The lowest thread of an operation's packet that reads some of `n` bytes from an address of its place. -/
def State.lowestReader (s : State) (o : PendOp) (a n : Nat) : PendOp :=
  (s.pend.filter fun x => x.pkt = o.pkt && x.op.reads && x.place = o.place && decide (x.pa < a + n) && decide (a < x.pa + x.size)).foldl
    (fun (m : PendOp) x => if x.tid < m.tid then x else m) o

/-- The record of a poisoned granule that a packet's operation reads, once for each packet (R375); it names the lowest thread of the packet that reads there. `a` is the granule's place as the operation has it, `g` its address in the record. -/
def State.noteGranule (s : State) (o : PendOp) (code gran a g : Nat) : State :=
  let o := s.lowestReader o a gran
  if s.noted.contains (o.pkt, code * 2 ^ 90 + g) then s
  else
    { s.opRec o (causeWord false true false 0 10 code) g 0 with
      noted := (o.pkt, code * 2 ^ 90 + g) :: s.noted.filter fun n => s.stillReads o.pkt n.1 }

/-- Granules of `gran` bytes in bytes read from an address, those poisoned. -/
def poisonedGranules (gran a : Nat) (bs : List MByte) : List Nat :=
  ((bs.zipIdx.filter fun x => x.1.2).map fun x => (a + x.2) / gran * gran).eraseDups

/-- The records of the poisoned granules among bytes that an operation read, whose address in records is `a`. -/
def State.noteReads (s : State) (o : PendOp) (code gran a : Nat) (bs : List MByte) : State :=
  (poisonedGranules gran a bs).foldl (fun s g => s.noteGranule o code gran (o.pa + g - a) g) s

/-- The record of unreadable COMPRESSED metadata (R411, R399 code 0x0010), once a line and packet. A read of stored bytes (space 11) needs none. -/
def State.noteMeta (s : State) (o : PendOp) : State :=
  let line := lineOf o.pa
  if o.space = 3 || !s.metaBad line || s.noted.contains (o.pkt, 2 ^ 100 + line) then s
  else
    let e : MemErr := { code := 0x10, d1 := line }
    let all := o :: s.pend.filter fun x => x.pkt = o.pkt && x.op.reads && x.place = o.place && decide (lineOf x.pa = line)
    let low := s.lowestReader o line 128
    let lanes := ((all.map fun x => laneOf x.tid % 32).eraseDups).foldl (fun m l => m + 2 ^ l) 0
    let (kind, lanes) := if o.pkt < 2 ^ 59 then (o.op.kind, lanes) else (4, 16)
    { s.opRec low (causeWord false true false 0 2 0x10) (memD0 e (if low.space = 0 then regionOf low.ptr else 0) kind (min low.accessSize 32) + lanes) e.d1 with
      noted := (o.pkt, 2 ^ 100 + line) :: s.noted }

/-! ### Where an operation reads and writes -/

/-- The home view of an operation's page (R125). -/
def State.opTail (s : State) (o : PendOp) : TailView :=
  if o.cls = 1 then let b := o.pa / o.psize * o.psize; some (b, s.tailOf b o.leaf) else none

/-- Whether an access goes to the home and not to an L1 view: queue cores, space 11, and the mapping crew's own lines (R148, R98, R108), on the core that holds the mapping (log 60, DESIGN CHOICE: of a paired crew R108 says only 'its L1'). -/
def State.direct (s : State) (o : PendOp) : Bool :=
  isQueueTid o.tid || o.space ≠ 0 || match s.mappedLine (lineOf o.pa) with
    | some (c, k, _) => c = o.core && s.crewIdOf o.tid = some k
    | none => false

/-- The read at its home of `n` bytes from an operation's address (R135, R445), with the records of poisoned granules and of unreadable metadata. -/
def State.homeFetch (s : State) (o : PendOp) (n : Nat) : List MByte × State :=
  let die := if isQueueTid o.tid then dieOfPa o.pa % 4 else dieOfCore o.core
  let code := s.homeCode die o.pa
  let s := (s.noteMeta o).touchHome die o.pa
  let bs := if o.space = 3 then s.homeRaw o.pa n else s.homeRead o.pa n (s.opTail o)
  (bs, s.noteReads o code 8 o.pa bs)

/-- A read of an operation's bytes, with the records its poisoned granules write. -/
def State.readOp (s : State) (o : PendOp) : List MByte × State :=
  if o.place = 1 then
    let bs := s.scratchRead o.pa o.size
    (bs, s.noteReads o 2 4 (o.pa % 2 ^ 20) bs)
  else if o.place = 2 then
    let bs := s.l1Bytes o.core o.ctx o.pa o.size
    (bs, s.noteReads o 3 8 (s.homePa o.core o.ctx o.pa) bs)
  else if s.direct o then s.homeFetch o o.size
  else
    let hit := s.l1Has o.core o.ctx o.pa o.size
    let code := if hit then 3 else s.homeCode (dieOfCore o.core) o.pa
    let s := if hit then s else s.noteMeta o
    let (bs, s) := s.l1Read o.core o.ctx o.pa o.size (if o.cls = 1 then some (o.leaf, o.psize) else none)
    (bs, s.noteReads o code 8 o.pa bs)

/-- Whether an access can reach its place now: a pending mapping holds it (R409), a remote line must be present, and a line needs a frame of the L1 (R15). -/
def State.reachable (s : State) (o : PendOp) : Bool :=
  if o.place = 2 then s.l1Has o.core o.ctx o.pa o.size
  else o.place ≠ 0 || (!s.mapPending (lineOf o.pa) && (s.direct o || s.l1Roomy o.core o.ctx o.pa))

/-! ### Remote write-backs (R139, R149, R342) -/

/-- Target device and context of a remote pointer (R112). -/
def State.remTarget (s : State) (ctx ptr : Nat) : Nat × Nat :=
  match s.contexts.look ctx with
  | none => (0, 0)
  | some c => let b := s.boundsOf c.btab (regionOf ptr); (bits b.ctl 28 16, bits b.ctl 15 8)

/-- LK_ROUTE of a device without its fenced links (R338, R432) and those that joined with no peer (R346 step 5), as link numbers. -/
def State.linksTo (s : State) (dev : Nat) : List Nat :=
  (List.range 12).filter fun l => bit (s.route dev) l && !(s.links.lookD l {}).fenced && !(s.links.lookD l {}).alien

/-- Requests in flight on a link. -/
def State.linkLoad (s : State) (l : Nat) : Nat := (s.remotes.filter fun r => r.link = l).length

/-- The least-occupied link of a device's mask (R341); 12 where none is left (R432). Ties are log 26. -/
def State.pickLink (s : State) (dev : Nat) : Nat × State :=
  let ls := s.linksTo dev
  let best := ls.foldl (fun m l => min m (s.linkLoad l)) 10000000
  let ties := ls.filter fun l => s.linkLoad l = best
  match ties with
  | [] => (12, s)
  | [l] => (l, s)
  | l :: _ => let (f, s) := s.tick; (ties.getD (Config.linkPick f % ties.length) l, s)

/-- Sends a request to a pod peer (R342). -/
def State.sendRem (s : State) (o : PendOp) (wb psn : Bool) : State :=
  let (dev, tctx) := s.remTarget o.ctx o.ptr
  let (l, s) := s.pickLink dev
  { s with
    remotes := s.remotes ++ [{ id := s.uid, op := o, dev := dev, tctx := tctx, wb := wb, since := s.etimeOf o.tid, link := l, psn := psn }]
    uid := s.uid + 1 }

/-- Sends bytes of a remote line back to their device; they stay dirty until the acknowledgement. A poisoned unit is recorded (R375). -/
def State.sendBack (s : State) (core ctx a n : Nat) : State :=
  let bs := s.l1Bytes core ctx a n
  let s := if bs.any (·.2) then s.logPoison core ctx 3 (s.homePa core ctx (a / 8 * 8)) else s
  (s.l1Send core ctx a n).sendRem
    { id := s.uid, grp := s.uid, tid := tidOf core 0 0, core := core, ctx := ctx, op := .store, space := 0, ptr := a - 2 ^ 64, pa := a, place := 2,
      size := n, data := bs.map (·.1), pc := 0, insn := 0, pkt := 0 } true (bs.any (·.2))

/-- Whether a byte of a core's view is already on its way. -/
def State.inFlight (s : State) (core ctx a : Nat) : Bool :=
  s.remotes.any fun r => r.wb && r.op.core = core && r.op.ctx = ctx && decide (r.op.pa ≤ a) && decide (a < r.op.pa + r.op.size)

/-- Sends back the dirty bytes of remote lines that satisfy a test, by whole 8-byte units where they fill them (R138). -/
def State.sendBackAll (s : State) (core ctx : Nat) (p : Nat → Bool) : State :=
  let dirty := s.l1Select core ctx fun a c => c.dirty && decide (2 ^ 64 ≤ a) && p a && !s.inFlight core ctx a && !s.withheld core ctx a
  let units := (dirty.map (· / 8 * 8)).eraseDups
  units.foldl (fun s u =>
    let here := dirty.filter fun a => a / 8 * 8 = u
    if here.length = 8 then s.sendBack core ctx u 8 else here.foldl (fun s a => s.sendBack core ctx a 1) s) s

/-- A release at a scope (R139): whether it is complete, or waits for acknowledgements or for the comparator (R298); the state then holds what it has sent. -/
def State.tryRelease (s : State) (scope core ctx : Nat) : State × Bool :=
  if 1 ≤ scope && s.unmatched core ctx then (s, false)
  else if scope ≠ 4 then (s.release scope core ctx, true)
  else
    let s := (s.release scope core ctx).sendBackAll core ctx fun _ => true
    (s, s.remoteQuiet core ctx)

/-! ### Checked grids (R298, R299) -/

/-- Records a write of a DUAL copy or of a SAMPLED shadow, as it is sent to the comparator or digested. -/
def State.sendDual (s : State) (o : PendOp) : State :=
  match s.crewIdOf o.tid with
  | none => s
  | some k =>
    if s.dualOf o.tid || s.shadowOf o.tid then
      { s with
        duals := s.duals ++ [{ id := s.uid, crew := k, lane := s.crewLane o.tid, seq := o.seq, op := o, since := s.etimeOf o.tid,
                               shadow := s.shadowOf o.tid }]
        uid := s.uid + 1 }
    else s

/-- The encoding of a global write in a thread's digest input (R299): pointer, operation code (log 34), size, data. -/
def PendOp.digestBytes (o : PendOp) : List Byte :=
  let code : Nat := match o.op with
    | .store => 32
    | .atomic op _ _ _ _ => op
    | .bred w => 16 + w.toNat
    | .append => 33
    | .sealing => 34
    | .load _ | .binfin | .pref | .cinv _ => 0
  leBytes 8 o.ptr ++ [Config.digestCode code, BitVec.ofNat 8 (match o.op with | .atomic .. => o.size | _ => o.data.length)] ++ o.data

/-- Adds a write to its thread's digest input, keyed by crew and thread index, at its place in program order (R299). -/
def State.digest (s : State) (o : PendOp) : State :=
  if s.sampledOf o.tid then
    match s.crewIdOf o.tid with
    | some k =>
      let key := k * 2 ^ 16 + s.crewLane o.tid
      { s with digests := s.digests.put key (s.digests.lookD key [] ++ [((o.seq, o.id - o.grp), o.digestBytes)]) }
    | none => s
  else s

/-- Keeps a result of a sampled primary for its shadow (R299). -/
def State.noteSample (s : State) (o : PendOp) (v : Nat) (psn : Bool) : State :=
  match s.crewIdOf o.tid, s.crewOf o.tid with
  | some k, some c => if c.copy = 3 then { s with samples := ((k, s.crewLane o.tid, o.seq), (v, psn)) :: s.samples } else s
  | _, _ => s

/-! ### Loads and stores -/

/-- The 32-bit words a load writes for its bytes (R69, R212). -/
def loadValue (signed : Bool) (bs : List MByte) : Nat :=
  let v := leNat (bs.map (·.1))
  if signed && bs.length < 4 then trunc (signExtend v (8 * bs.length)) 32 else v

/-- The words that a load writes, each poisoned where a granule of its bytes is (R366, R367). -/
def loadWords (signed : Bool) (n : Nat) (bs : List MByte) : List RVal :=
  (words n (loadValue signed bs)).zipIdx.map fun (w, i) => ⟨w, ((bs.drop (4 * i)).take 4).any (·.2)⟩

/-- Writes what a load returns. -/
def State.writeLoaded (s : State) (t : Nat) (d : Dest) (signed : Bool) (bs : List MByte) : State :=
  match d with
  | .reg p n => s.setThread t ((s.thread t).setWords p (loadWords signed n bs))
  | .scratch .. | .none => s

/-- Delivers what a load returns to every receiver. -/
def State.deliverLoad (s : State) (o : PendOp) (signed : Bool) (bs : List MByte) : State :=
  match o.dst with
  | .reg p n => ((o.tid, p) :: o.bcast).foldl (fun (s : State) (x : Nat × Nat) => s.writeLoaded x.1 (.reg x.2 n) signed bs) s
  | .scratch .. | .none => s

/-- Delivers a value to every receiver of an operation. -/
def State.deliverOp (s : State) (o : PendOp) (v : Nat) (psn : Bool) : State :=
  match o.dst with
  | .reg p n => ((o.tid, p) :: o.bcast).foldl (fun (s : State) (x : Nat × Nat) => s.writeDest x.1 (.reg x.2 n) v psn) s
  | .scratch .. | .none => s.writeDest o.tid o.dst v psn

/-- The whole destination group of the access that an operation is a unit of. -/
def PendOp.group (o : PendOp) : PendOp :=
  match o.dst with
  | .reg p n =>
    let k := 2 * (o.id - o.grp)
    if o.op.isLoad && o.pkt < 2 ^ 59 && 8 < o.accessSize then { o with dst := .reg (p - k) (o.accessSize / 4), bcast := o.bcast.map fun x => (x.1, x.2 - k) } else { o with dst := .reg p n }
  | .scratch .. | .none => o

/-- Poisons where an operation's result goes; its bits stay (R366). -/
def State.poisonOp (s : State) (o : PendOp) : State :=
  match o.dst with
  | .reg p n => ((o.tid, p) :: o.bcast).foldl (fun (s : State) (x : Nat × Nat) => s.poisonDest x.1 (.reg x.2 n)) s
  | .scratch .. | .none => s.poisonDest o.tid o.dst

/-- Traps a thread at an instruction whose result a scratchpad takes no poison of, after issue (R368). -/
def State.trapLate (s : State) (o : PendOp) (c : Cause) : State :=
  let s := s.completeOp o
  let x := s.thread o.tid
  if x.run = .exited then s
  else (s.setThread o.tid { x with pc := BitVec.ofNat 64 o.pc }).report 2 [(o.tid, c)] o.insn 0

/-- The causes of an access that failed, one for each thread that shares it (R401). -/
def PendOp.causes (o : PendOp) (e : MemErr) : List (Nat × Cause) :=
  (o.tid :: o.bcast.map (·.1)).map fun t => (t, { e.cause o.space o.access o.op.kind (min o.accessSize 32) o.op.isLoad with pc := some o.pc })

/-- The thread goes back to an instruction that traps after issue. -/
def State.backTo (s : State) (pc : Nat) (x : Nat × Cause) : State :=
  let y := s.thread x.1
  if !x.2.trap || y.run = .exited then s else s.setThread x.1 { y with pc := BitVec.ofNat 64 pc }

/-- Once every operation of a packet has been performed or has failed, the failed ones end: load lanes are poisoned, other lanes trap, and each key has one record (R401, R402; log 60). -/
def State.settleFailed (s : State) (pkt : Nat) : State :=
  let bad := s.pend.filter fun x => x.pkt = pkt
  match bad with
  | [] => s
  | b :: _ =>
    if bad.any (·.err.isNone) then s
    else
      let firsts := bad.filter fun x => bad.all fun y => y.grp ≠ x.grp || x.id ≤ y.id
      let cs := (firsts.flatMap fun x => (x.err.map x.causes).getD []).mergeSort fun x y => x.1 ≤ y.1
      let s := bad.foldl (fun (s : State) x => (if x.op.isLoad then s.poisonOp x.group else s).completeOp x) s
      (cs.foldl (fun (s : State) x => s.backTo b.pc x) s).report (cs.length + 1) cs b.insn 0

/-- An operation fails at its home after issue, and with it its whole access: it is not performed (R401). -/
def State.failPend (s : State) (o : PendOp) (e : MemErr) : State :=
  { s with pend := s.pend.map fun (x : PendOp) => if x.grp = o.grp then { x with err := some e } else x }.settleFailed o.pkt

/-- BINFIN's result arrives: poison is not stored into the scratchpad but traps (R368). -/
def State.deliverBin (s : State) (o : PendOp) (v : Nat) (psn : Bool) : State :=
  match o.dst, psn with
  | .scratch .., true => s.trapLate o (poisonCause 2 (((decode (BitVec.ofNat 32 o.insn)).map dstCode).getD 0))
  | _, _ => (s.deliverOp o v psn).completeOp o

/-- A store's bytes enter the L1 view, the single copy or the home (R137). -/
def State.performStore (s : State) (o : PendOp) : State :=
  let bs := o.data.map fun b => (b, o.psn)
  if o.place = 1 then (s.scratchWrite o.pa bs).completeOp o
  else if o.place = 2 then ((s.l1Store o.core o.ctx o.pa bs).sendDual o).completeOp o
  else if s.direct o then ((s.touchHome (dieOfCore o.core % 4) o.pa).homeWrite o.pa bs).completeOp o
  else ((s.l1Store o.core o.ctx o.pa bs).sendDual o).completeOp o

/-! ### Atomics (R216) -/

/-- The value an atomic stores, on `8 × size` bits: old value, first operand, second operand of cas. -/
def atomicNew (op size old x y : Nat) : Nat :=
  let w := 8 * size
  let lt (a b : Nat) : Bool := signExtend a w < signExtend b w
  match op with
  | 0 => (old + x) % 2 ^ w
  | 1 => if lt x old then x else old
  | 2 => min old x
  | 3 => if lt old x then x else old
  | 4 => max old x
  | 5 => old &&& x
  | 6 => old ||| x
  | 7 => old ^^^ x
  | 8 => x
  | 9 => if old = x then y else old
  | _ => ((if size = 4 then f32 else f64).add .rne old x).1

/-- Whether an atomic writes its location: a cas that differs does not. -/
def atomicWrites (op old x : Nat) : Bool := op ≠ 9 || old = x

def PendOp.operand (o : PendOp) (i : Nat) : Nat := leNat ((o.data.drop (i * o.size)).take o.size)

/-- The atomic on bytes that were read: what is stored, if anything, with its poison (log 13). -/
def PendOp.rmw (o : PendOp) (op : Nat) (bs : List MByte) : Option (List MByte) :=
  let old := leNat (bs.map (·.1))
  if atomicWrites op old (o.operand 0) then
    some ((leBytes o.size (atomicNew op o.size old (o.operand 0) (o.operand 1))).map fun b => (b, bs.any (·.2)))
  else none

/-- WriteBackOwn (R142, R227): the issuing core's dirty bytes of a location are written back. -/
def State.writeBackOwn (s : State) (o : PendOp) : State :=
  if isQueueTid o.tid then s else s.writeBackAll o.core o.ctx fun a => decide (o.pa ≤ a) && decide (a < o.pa + o.size)

/-- Drops the clean copies of a location from the issuing core's view (R142, R146). -/
def State.dropOwn (s : State) (o : PendOp) : State :=
  if isQueueTid o.tid then s else s.l1Drop o.core o.ctx fun a => decide (o.pa ≤ a) && decide (a < o.pa + o.size)

/-- The threads of the other copy for which a matched operation of a DUAL crew also stands (R298). -/
def State.partnersOf (s : State) (o : PendOp) : List Nat := (o.bcast.filter fun x => s.crewIdOf x.1 ≠ s.crewIdOf o.tid).map (·.1)

/-- Whether an operation of a DUAL copy has met its partner: it then stands for both copies. -/
def State.matched (s : State) (o : PendOp) : Bool := !(s.partnersOf o).isEmpty

/-- Whether an atomic is performed in the core's L1 view (R142). -/
def State.inView (s : State) (o : PendOp) (scope : Nat) : Bool := scope = 0 && o.space = 0 && !s.direct o

/-- What an atomic stores into its thread's L1 view, and that of a matched pair into both views, each as a write of its copy (R142, R298). -/
def State.viewStore (s : State) (o : PendOp) (new : List MByte) : State :=
  (o.tid :: s.partnersOf o).foldl (fun (s : State) t =>
    let w := { o with op := .store, tid := t, core := coreOf t, bcast := [], data := new.map (·.1), psn := new.any (·.2) }
    (s.l1Store w.core w.ctx w.pa new).sendDual w) s

/-- The read and write of one atomic, and the old value with its poison. -/
def State.rmwAt (s : State) (o : PendOp) (op scope : Nat) : State × List MByte :=
  if o.place = 1 then
    let (bs, s) := s.readOp o
    (match o.rmw op bs with
      | some new => s.scratchWrite o.pa new
      | none => s, bs)
  else if s.inView o scope then
    let (bs, s) := s.readOp o
    match o.rmw op bs with
    | some new => (s.viewStore o new, bs)
    | none => (s, bs)
  else
    let (bs, s) := (s.writeBackOwn o).homeFetch o o.size
    let s := match o.rmw op bs with
      | some new => s.homeWrite o.pa new
      | none => s
    (s.dropOwn o, bs)

/-- The contention record of a line after a wider-scope atomic of a core (R303): placement changes no value. One of a queue core or of a pod peer, which has no L1 view, leaves the line without an owner; its time is that of the home die's first core. -/
def State.noteLine (s : State) (pa : Nat) (by' : Option Nat) : State :=
  let line := lineOf pa
  let owner := match by', s.contention.look line with
    | none, _ => none
    | some c, none => some c
    | some c, some r => if r.owner = some c then some c else none
  let c := by'.getD (48 * (dieOfPa pa % 4))
  { s with contention := s.contention.put line { owner := owner, core := c, time := (s.core c).etime.toNat } }

/-- The contention record after a thread's or an engine's atomic (R303; for queue cores and peers log 60). -/
def State.noteAtomic (s : State) (o : PendOp) (scope : Nat) : State :=
  if scope = 0 || o.place ≠ 0 || s.orderedGrid o.tid then s else s.noteLine o.pa (if isQueueTid o.tid then none else some o.core)

/-- An atomic performed (R142, R216): its release, the read and write, its acquire, its result. -/
def State.performAtomic (s : State) (o : PendOp) : State :=
  match o.op with
  | .atomic op ret rel acq scope =>
    let s := if rel then s.release scope o.core o.ctx else s
    let s := s.noteAtomic o scope
    let (s, bs) := s.rmwAt o op scope
    let s := if acq then s.acquire scope o.core o.ctx else s
    let s := if ret then (s.deliverOp o (leNat (bs.map (·.1))) (bs.any (·.2))).noteSample o (leNat (bs.map (·.1))) (bs.any (·.2)) else s
    s.completeOp o
  | _ => s

/-! ### Bin records (R92 to R94) -/

/-- Bits of the header (R92). -/
def hdrSet (h b : Nat) : Nat := if bit h b then h else h + 2 ^ b

/-- A bin after adding `g × q`: the truncated sum and whether it overflowed. -/
def binAdd (bin : Nat) (v : Int) : Nat × Bool :=
  let sum := signExtend bin 64 + v
  (trunc sum 64, decide (sum < -(2 ^ 63)) || decide (2 ^ 63 ≤ sum))

/-- The update of R93 on the words HDR, BIN0, BIN1, BIN2, COUNT. -/
def bredUpdate (w : List Nat) (x : FVal) : List Nat :=
  let h := w.getD 0 0
  let emax := signExtend h 16
  match x with
  | .nan _ => [hdrSet h 16] ++ w.drop 1
  | .inf n => [hdrSet h (if n then 18 else 17)] ++ w.drop 1
  | .fin n m e =>
    if m ≠ 0 && emax < e + Nat.log2 m then [hdrSet h 20] ++ w.drop 1
    else
      let (q, _) := roundAt .rne n m e (emax - 119)
      let sg (v : Nat) : Int := if n then -(v : Int) else v
      let b0 := binAdd (w.getD 1 0) (sg (q / 2 ^ 80))
      let b1 := binAdd (w.getD 2 0) (sg (q / 2 ^ 40 % 2 ^ 40))
      let b2 := binAdd (w.getD 3 0) (sg (q % 2 ^ 40))
      let h := if b0.2 || b1.2 || b2.2 then hdrSet h 19 else h
      [h, b0.1, b1.1, b2.1, min (w.getD 4 0 + 1) (2 ^ 64 - 1)]

/-- BRED performed at the record's home (R93, R142, R219), with the events of R395; `pc`, `insn` and WHERE are the operation's. -/
def State.bredAt (s : State) (o : PendOp) (wide : Bool) : State :=
  let (bs, s) := (s.writeBackOwn o).homeFetch o 40
  let w := (List.range 5).map fun i => leNat (((bs.map (·.1)).drop (8 * i)).take 8)
  let x := leNat o.data
  let new := bredUpdate w ((if wide then f64 else f32).decode x)
  let out := new.flatMap (leBytes 8)
  let s := s.homeWrite o.pa (out.zipIdx.map fun (b, i) => (b, (bs.getD i (0, false)).2))
  let s := s.dropOwn { o with size := 64 }
  let ev (s : State) (b code : Nat) : State :=
    if bit (new.getD 0 0) b && !bit (w.getD 0 0) b && (2 ^ 59 ≤ o.pkt || !s.aborting o.tid) then
      s.opRec o (causeWord false false false 0 1 code) x (new.getD 0 0)
    else s
  ev (ev s 20 0x82) 19 0x83

def State.performBred (s : State) (o : PendOp) (wide : Bool) : State :=
  ((s.noteAtomic o 3).bredAt o wide).completeOp o

/-- BINFIN's result (R94). -/
def binfinValue (w : List Nat) : Nat :=
  let h := w.getD 0 0
  let emax := signExtend h 16
  if bit h 16 || (bit h 17 && bit h 18) then f64.defaultNaN
  else if bit h 17 then f64.infBits
  else if bit h 18 then f64.withSign true f64.infBits
  else
    let v := signExtend (w.getD 1 0) 64 * 2 ^ 80 + signExtend (w.getD 2 0) 64 * 2 ^ 40 + signExtend (w.getD 3 0) 64
    (f64.roundInt .rne v (emax - 119) false).1

def State.performBinfin (s : State) (o : PendOp) : State :=
  let (bs, s) := (s.writeBackOwn { o with size := 64 }).homeFetch o 40
  let w := (List.range 5).map fun i => leNat (((bs.map (·.1)).drop (8 * i)).take 8)
  s.deliverBin o (binfinValue w) (bs.any (·.2))

/-! ### APPEND and SEAL (R122, R123, R126) -/

/-- The marker of an APPEND page at its home, loaded from its leaf at the first APPEND or SEAL (R122). -/
def State.markOf (s : State) (base leaf size : Nat) : Mark :=
  (s.appended.look base).getD { size := size, leaf := leaf, tail := s.leafTail leaf, shut := s.leafSst leaf = 1 }

/-- The home of a page takes its marker (R122, R405): the first time it reads the leaf, whose line is then in L2 (R445). -/
def State.setMark (s : State) (base leaf : Nat) (m : Mark) : State :=
  let s := if (s.appended.look base).isSome || !inHbm leaf then s else s.touchHome 0 leaf
  { s with appended := s.appended.put base m }

/-- The single step of R123: the offset returned, or the failure. -/
def State.appendAt (s : State) (base leaf size : Nat) (data : List Byte) : State × Except MemErr Nat :=
  let f := s.markOf base leaf size
  let s := s.setMark base leaf f
  let n := data.length
  let sz := 8 * ((n + 7) / 8)
  if f.shut then (s, .error { code := 0xb, d1 := f.tail })
  else if size < f.tail + sz then (s, .error { code := 0xc, d1 := f.tail + sz * 2 ^ 32 })
  else
    let s := { s with appended := s.appended.put base { f with tail := f.tail + sz } }.homeWrite (base + f.tail) (clean (data ++ List.replicate (sz - n) 0))
    (s, .ok f.tail)

/-- SEAL at the home (R126): SST and TAIL are written to the leaf. -/
def State.sealAt (s : State) (base leaf size : Nat) : State :=
  let f := s.markOf base leaf size
  let s := s.setMark base leaf f
  if f.shut then s
  else
    let s := { s with appended := s.appended.put base { f with shut := true } }
    let b := (s.homeNat (leaf + 8) 1) % 64 + 64
    let s := s.homeWrite (leaf + 8) (clean [BitVec.ofNat 8 b])
    let hi := s.homeNat (leaf + 15) 1 / 2 * 2
    s.homeWrite (leaf + 12) (clean (leBytes 4 (f.tail + hi * 2 ^ 24)))

def State.performSeal (s : State) (o : PendOp) : State :=
  let s := s.release 3 o.core o.ctx
  (s.sealAt (o.pa / o.psize * o.psize) o.leaf o.psize).completeOp o

/-- CINV performed (R214). -/
def State.performCinv (s : State) (o : PendOp) (scope : Nat) : State :=
  let line (a : Nat) : Bool := lineOf a = lineOf o.pa
  let s := if 2 ≤ scope then s.writeBackAll o.core o.ctx line else s
  (s.l1Drop o.core o.ctx line).completeOp o

/-- PREF performed: it fills its line as a read does (R213). -/
def State.performPref (s : State) (o : PendOp) : State :=
  let s := s.completeOp o
  if o.place = 0 && !isQueueTid o.tid && s.reachable o then
    s.l1Ensure o.core o.ctx o.pa 1 (if o.cls = 1 then some (o.leaf, o.psize) else none)
  else s

end Sys2Proof.Machine
end

