-- ==== Sys2Proof/Machine/Mem.lean ====
section
/-! DEFINITION. LD, LDS, ST, PREF and CINV at issue (R210 to R214): the address, the checks, the operations they leave pending. -/

namespace Sys2Proof.Machine

/-- Bytes(W) of R154. -/
def widthBytes (w : Nat) : Nat := 2 ^ w

/-- OFF6 × Bytes(W) (R211). -/
def offBytes (o : BitVec 6) (size : Nat) : Int := o.toInt * size

/-- A lane of a uniform load takes the result of the thread that performed it, when it arrives or now where it has (R65, R212): it is each sharing thread's operation (log 57). -/
def shareLoad (s : State) (t d : Nat) (dst : Dest) : State :=
  let mine (x : PendOp) : Bool := x.tid = d && x.pkt = s.cur.num && x.op.isLoad
  let lp := dst.pos - (s.thread t).wb + (s.thread d).wb
  if s.pend.any mine then
    { s with pend := s.pend.map fun x => if mine x then { x with bcast := x.bcast ++ [(t, dst.pos + (x.dst.pos - lp))] } else x }.addLoads t
  else
    s.setThread t ((s.thread t).setWords dst.pos ((List.range dst.count).map fun i => (s.thread d).regs.lookD (lp + i) {}))

/-- A lane of a uniform store shares the operation of the thread that performed it, until it is performed (R65, R223). -/
def shareStore (s : State) (t d : Nat) : State :=
  let mine (x : PendOp) : Bool := x.tid = d && x.pkt = s.cur.num && x.op = .store
  if s.pend.any mine then
    { s with pend := s.pend.map fun x => if mine x then { x with bcast := x.bcast ++ [(t, 0)] } else x }.addStores t
  else s

/-- One lane of a load (R210 to R212). A load of at most 8 bytes of the scratchpad returns as it issues where nothing is ordered before it, wider ones by their units (R138). -/
def loadLane (i : Instr) (u signed : Bool) (space size : Nat) (off : Int) (s : State) (t : Nat) (a : Given) : LaneOut :=
  let insn := (encode i).toNat
  if 255 ≤ (s.thread t).loads then .wait
  else match (if u then a.doer else none) with
  | some d => .done ((shareLoad s t d a.dst).advance t) []
  | none =>
    let p := laneAddr space (a.v 0) off
    match s.check t space p size size .read with
    | (s, .bad e) => .done ((s.poisonDest t a.dst).advance t) [e.cause space p 0 size true]
    | (s, .hostOwned page) => .stay (s.wantPage t (s.ctxOf t) p page) (hostPark page p 0 size insn true a.dst)
    | (s, .ok g) =>
      let o := { s.newOp t g (.load signed) size insn with dst := a.dst }
      if g.place = 3 then
        if s.busy t then .wait
        else .done ((s.writeLoaded t a.dst signed (clean (s.regRead g.pa size))).advance t) []
      else if g.space = 1 && size ≤ 8 && !s.blocked o then
        let (bs, s) := s.readOp o
        .done ((s.writeLoaded t a.dst signed bs).advance t) []
      else .done (((s.pushUnits o).addLoads t).advance t) []

/-- One lane of a store (R210 to R212). -/
def storeLane (i : Instr) (u : Bool) (space size : Nat) (off : Int) (s : State) (t : Nat) (a : Given) : LaneOut :=
  let insn := (encode i).toNat
  if 255 ≤ (s.thread t).stores then .wait
  else match (if u then a.doer else none) with
  | some d => .done ((shareStore s t d).advance t) []
  | none =>
    let p := laneAddr space (a.v 0) off
    match s.check t space p size size .write with
    | (s, .bad e) => .trap s (e.cause space p 1 size false)
    | (s, .hostOwned page) => .stay (s.wantPage t (s.ctxOf t) p page) (hostPark page p 1 size insn false .none)
    | (s, .ok g) =>
      let o := { s.newOp t g .store size insn with data := leBytes size (a.v 1) }
      if g.place = 3 then
        if s.busy t then .wait else .done (s.advance t) []
      else if g.cls = 1 then
        if s.blocked o then .wait else .trap s ((s.appendRefusal g).cause space p 1 size false)
      else if g.space = 1 && size ≤ 8 && !s.blocked o then .done ((s.scratchWrite g.pa (clean o.data)).advance t) []
      else if g.place = 1 then .done (((s.pushUnits o).addStores t).advance t) []
      else .done (((((s.digest o).pushUnits o).addStores t).bumpSeq t).advance t) []

/-- PREF (R213): it never faults and parks nothing. -/
def prefLane (i : Instr) (s : State) (t : Nat) (a : Given) : LaneOut :=
  match s.check t 0 (a.v 0) 1 1 .read with
  | (s, .ok g) => if g.place = 0 then .done ((s.pushOp (s.newOp t g .pref 1 (encode i).toNat)).advance t) [] else .done (s.advance t) []
  | (s, .bad _) => .done (s.advance t) []
  | (s, .hostOwned _) => .done (s.advance t) []

/-- CINV (R214): the faults of a 1-byte read; it touches every byte of its line. -/
def cinvLane (i : Instr) (scope : Nat) (s : State) (t : Nat) (a : Given) : LaneOut :=
  let insn := (encode i).toNat
  match s.check t 0 (a.v 0) 1 1 .read with
  | (s, .bad e) => .trap s (e.cause 0 (a.v 0) 0 1 false)
  | (s, .hostOwned page) => .stay (s.wantPage t (s.ctxOf t) (a.v 0) page) (hostPark page (a.v 0) 0 1 insn false .none)
  | (s, .ok g) =>
    if g.place = 3 then .done (s.advance t) []
    else .done ((s.pushOp { s.newOp t g (.cinv scope) 128 insn with pa := lineOf g.pa }).advance t) []

/-- Loads 8 to 256 bits from a memory space into a register group (R210). -/
def execLd (u : Bool) (d : BitVec 7) (a : BitVec 7) (w : BitVec 3) (p : BitVec 2) (o : BitVec 6) (s : State) : Host.Outcome State Fault Refusal :=
  runPacket (.ld u d a w p o) u (loadLane (.ld u d a w p o) u false p.toNat (widthBytes w.toNat) (offBytes o (widthBytes w.toNat))) s

/-- Sign-extending 8- or 16-bit load (R210). -/
def execLds (u : Bool) (d : BitVec 7) (a : BitVec 7) (w : BitVec 1) (p : BitVec 2) (o : BitVec 6) (s : State) : Host.Outcome State Fault Refusal :=
  runPacket (.lds u d a w p o) u (loadLane (.lds u d a w p o) u true p.toNat (widthBytes w.toNat) (offBytes o (widthBytes w.toNat))) s

/-- Stores 8 to 256 bits to a memory space (R210). -/
def execSt (u : Bool) (d : BitVec 7) (a : BitVec 7) (w : BitVec 3) (p : BitVec 2) (o : BitVec 6) (s : State) : Host.Outcome State Fault Refusal :=
  runPacket (.st u d a w p o) u (storeLane (.st u d a w p o) u p.toNat (widthBytes w.toNat) (offBytes o (widthBytes w.toNat))) s

/-- Prefetches a line into the L1 without faulting (R213). -/
def execPref (a : BitVec 7) (s : State) : Host.Outcome State Fault Refusal :=
  runPacket (.pref a) false (prefLane (.pref a)) s

/-- Drops clean bytes of one line from the L1 (R214). -/
def execCinvCore (a : BitVec 7) (s : State) : Host.Outcome State Fault Refusal :=
  runPacket (.cinvCore a) false (cinvLane (.cinvCore a) 0) s

/-- Drops clean bytes of one line, cluster scope (R214). -/
def execCinvClu (a : BitVec 7) (s : State) : Host.Outcome State Fault Refusal :=
  runPacket (.cinvClu a) false (cinvLane (.cinvClu a) 1) s

/-- Writes back then drops one line, die scope (R214). -/
def execCinvDie (a : BitVec 7) (s : State) : Host.Outcome State Fault Refusal :=
  runPacket (.cinvDie a) false (cinvLane (.cinvDie a) 2) s

/-- Writes back then drops one line, device scope (R214). -/
def execCinvDev (a : BitVec 7) (s : State) : Host.Outcome State Fault Refusal :=
  runPacket (.cinvDev a) false (cinvLane (.cinvDev a) 3) s

/-- Writes back then drops one line, system scope (R214). -/
def execCinvSys (a : BitVec 7) (s : State) : Host.Outcome State Fault Refusal :=
  runPacket (.cinvSys a) false (cinvLane (.cinvSys a) 4) s

end Sys2Proof.Machine
end

