-- ==== Sys2Proof/Machine/Atomic.lean ====
section
/-! DEFINITION. Atomics, bin records, APPEND and SEAL at issue (R215 to R222), and reductions held by an ordered grid (R147, R300). -/

namespace Sys2Proof.Machine

/-- Contributions a reduction buffer holds (R300). -/
def bufferSize : Nat := 8192

/-- A contribution of a lane held in its core's reduction buffer (R300, R301), or the trap of R391. -/
def holdLane (s : State) (t : Nat) (o : PendOp) (op size val : Nat) : LaneOut :=
  let core := coreOf t
  let c := s.core core
  if s.shadowOf t then .done (((s.digest o).bumpSeq t).advance t) []
  else if bufferSize ≤ c.redbuf.length then .trap s { group := 1, code := 0xd, d0 := 8192 }
  else match s.crewOf t with
    | none => .wait
    | some k =>
      let w := s.waveAt t
      let r : Contribution :=
        { grid := k.grid, index := k.index, copy := k.copy, tid := t, order := (s.thread t).seq, lane := laneOf t, wave := (w.map (·.index)).getD 0,
          ctx := s.ctxOf t, pc := (s.thread t).pc.toNat, insn := o.insn, core := core, space := o.space, ptr := o.ptr, pa := o.pa, place := o.place, op := op, size := size, val := val }
      .done ((((s.digest o).setCore core { c with redbuf := c.redbuf ++ [r] }).bumpSeq t).advance t) []

/-- Words of an atomic's result: 1 or 2 registers of its data group (R215). -/
def resultDest (d : Dest) (n : Nat) : Dest :=
  match d with
  | .reg p _ => .reg p n
  | .scratch .. | .none => .none

/-- Whether the read-modify-writes of the current packet may be performed as it issues: no thread of it has an operation pending, so that they follow one another (R217, R221); else they are left pending (log 7). -/
def State.together (s : State) : Bool := !s.cur.tids.any s.hasPend

/-- One lane of ATOM or RED (R215 to R218): `regs` is 1 or 2 for the width, `ord` the ORD field. -/
def atomLane (i : Instr) (ret : Bool) (regs scope space op ord : Nat) (s : State) (t : Nat) (a : Given) : LaneOut :=
  let insn := (encode i).toNat
  let size := 4 * regs
  let scope := if space = 3 then 4 else scope -- R98
  let p := laneAddr space (a.v 0) 0
  let x := s.thread t
  if 255 ≤ (if ret then x.loads else x.stores) then .wait
  else match s.check t space p size size .rmw with
    | (s, .bad e) => .trap s (e.cause space p 2 size false)
    | (s, .hostOwned page) => .stay (s.wantPage t (s.ctxOf t) p page) (hostPark page p 2 size insn false .none)
    | (s, .ok g) =>
      let rel := 2 ≤ ord
      let acq := ord % 2 = 1
      let data := leBytes (if op = 9 then 2 * size else size) (a.v 1)
      let o := { s.newOp t g (.atomic op ret rel acq scope) size insn with data := data, dst := if ret then resultDest a.dst regs else .none }
      if g.place = 3 then
        if s.busy t then .wait
        else match (if rel then s.tryRelease scope o.core o.ctx else (s, true)) with
          | (s, false) => .stay s none
          | (s, true) =>
            let v := leNat (s.regRead g.pa size)
            let s := if acq then s.acquire scope o.core o.ctx else s
            .done ((s.writeDest t o.dst v false).advance t) []
      else if g.cls = 1 then
        if s.blocked o then .wait else .trap s ((s.appendRefusal g).cause space p 2 size false)
      else if !ret && s.orderedGrid t then
        if rel then
          if s.busy t then .wait
          else
            match s.tryRelease scope o.core o.ctx with
            | (s, true) => holdLane s t o op size (leNat data)
            | (s, false) => .stay s none
        else holdLane s t o op size (leNat data)
      else if g.space = 1 && s.together && (!rel || (s.tryRelease scope o.core o.ctx).2) then
        let s := if rel then (s.tryRelease scope o.core o.ctx).1 else s
        let (s, bs) := s.rmwAt o op scope
        let s := if acq then s.acquire scope o.core o.ctx else s
        let s := s.writeDest t o.dst (leNat (bs.map (·.1))) (bs.any (·.2))
        .done (s.advance t) []
      else
        let s := s.pushOp o
        let s := if ret then s.addLoads t else s.addStores t
        if g.place = 1 then .done (s.advance t) [] else .done (((s.digest o).bumpSeq t).advance t) []

/-- One lane of BRED (R219): a record aligned to 64 bytes. -/
def bredLane (i : Instr) (wide : Bool) (s : State) (t : Nat) (a : Given) : LaneOut :=
  let insn := (encode i).toNat
  let p := a.v 0
  let n := if wide then 8 else 4
  if 255 ≤ (s.thread t).stores then .wait
  else match s.check t 0 p 64 64 .rmw with
    | (s, .bad e) => .trap s (e.cause 0 p 2 n false)
    | (s, .hostOwned page) => .stay (s.wantPage t (s.ctxOf t) p page) (hostPark page p 2 n insn false .none)
    | (s, .ok g) =>
      let o := { s.newOp t g (.bred wide) 64 insn with data := leBytes n (a.v 1) }
      if g.cls = 1 then
        if s.blocked o then .wait else .trap s ((s.appendRefusal g).cause 0 p 2 n false)
      else if g.place = 3 then .done (s.advance t) []
      else if s.orderedGrid t then holdLane s t o (16 + wide.toNat) n (leNat o.data)
      else .done (((((s.digest o).pushOp o).addStores t).bumpSeq t).advance t) []

/-- One lane of BINFIN (R220, R401). -/
def binfinLane (i : Instr) (s : State) (t : Nat) (a : Given) : LaneOut :=
  let insn := (encode i).toNat
  let p := a.v 0
  if 255 ≤ (s.thread t).loads then .wait
  else match s.check t 0 p 40 64 .read with
    | (s, .bad e) => .done ((s.poisonDest t a.dst).advance t) [e.cause 0 p 0 8 true]
    | (s, .hostOwned page) => .stay (s.wantPage t (s.ctxOf t) p page) (hostPark page p 0 8 insn true a.dst)
    | (s, .ok g) =>
      let o := { s.newOp t g .binfin 40 insn with dst := a.dst }
      if g.place = 3 then .done ((s.writeDest t a.dst 0 false).advance t) []
      else .done (((s.pushOp o).addLoads t).advance t) []

/-- The class fault of R221 and R222. -/
def classErr (cls : Nat) : MemErr := { code := 9, d1 := cls }

/-- One lane of APPEND (R123, R146, R221): the home decides before the thread's next instruction, at once where no thread of the packet has an operation pending (log 7). -/
def appendLane (i : Instr) (n : Nat) (s : State) (t : Nat) (a : Given) : LaneOut :=
  let insn := (encode i).toNat
  let p := a.v 0
  let bad (s : State) (e : MemErr) : LaneOut := .trap s (e.cause 0 p 7 n false)
  if 255 ≤ (s.thread t).loads then .wait
  else match s.check t 0 p 1 1 .append with
    | (s, .bad e) => bad s e
    | (s, .hostOwned _) => bad s (classErr 2)
    | (s, .ok g) =>
      let base := g.pa / g.psize * g.psize
      let o := { s.newOp t g .append g.psize insn with pa := base, data := leBytes n (a.v 1), dst := a.dst }
      if g.place = 2 then .done (((((s.digest o).pushOp { o with pa := g.pa, size := n }).addLoads t).bumpSeq t).advance t) []
      else if g.place ≠ 0 || g.cls ≠ 1 then bad s (classErr g.cls)
      else match g.bounds.check (vaOf p - vaOf p % g.psize) g.psize .append with -- the whole page lies within the region (R221)
        | some e => bad s e
        | none =>
          if !s.together || s.dualOf t || s.shadowOf t then .done (((((s.digest o).pushOp o).addLoads t).bumpSeq t).advance t) []
          else
            match (s.touchHome (dieOfWho (whoOf t) base) base).appendAt base g.leaf g.psize o.data with
            | (s, .error e) => bad s e
            | (s, .ok off) =>
              let s := (s.digest o).noteSample o off false
              let s := s.dropOwn { o with pa := base + off, size := n }
              .done (((s.writeDest t a.dst off false).bumpSeq t).advance t) []

/-- One lane of SEAL (R126, R222): its release and the seal are performed at the home as a store. -/
def sealLane (i : Instr) (s : State) (t : Nat) (a : Given) : LaneOut :=
  let insn := (encode i).toNat
  let p := a.v 0
  let bad (s : State) (e : MemErr) : LaneOut := .trap s (e.cause 0 p 7 1 false)
  if 255 ≤ (s.thread t).stores then .wait
  else match s.check t 0 p 1 1 .append with
    | (s, .bad e) => bad s e
    | (s, .hostOwned _) => bad s (classErr 2)
    | (s, .ok g) =>
      let base := g.pa / g.psize * g.psize
      let o := { s.newOp t g .sealing g.psize insn with pa := base }
      if g.place = 2 then .done (((((s.digest o).pushOp { o with pa := g.pa, size := 1 }).addStores t).bumpSeq t).advance t) []
      else if g.place ≠ 0 || g.cls ≠ 1 then bad s (classErr g.cls)
      else .done (((((s.digest o).pushOp o).addStores t).bumpSeq t).advance t) []

/-- Returning 32-bit atomic read-modify-write (R216). -/
def execAtom32 (d : BitVec 7) (a : BitVec 7) (s : BitVec 3) (p : BitVec 2) (o : BitVec 4) (r : BitVec 2) (σ : State) : Host.Outcome State Fault Refusal :=
  runPacket (.atom32 d a s p o r) false (atomLane (.atom32 d a s p o r) true 1 s.toNat p.toNat o.toNat r.toNat) σ

/-- Returning 64-bit atomic read-modify-write (R216). -/
def execAtom64 (d : BitVec 7) (a : BitVec 7) (s : BitVec 3) (p : BitVec 2) (o : BitVec 4) (r : BitVec 2) (σ : State) : Host.Outcome State Fault Refusal :=
  runPacket (.atom64 d a s p o r) false (atomLane (.atom64 d a s p o r) true 2 s.toNat p.toNat o.toNat r.toNat) σ

/-- Non-returning 32-bit atomic reduction (R218). -/
def execRed32 (d : BitVec 7) (a : BitVec 7) (s : BitVec 3) (p : BitVec 2) (o : BitVec 4) (r : BitVec 2) (σ : State) : Host.Outcome State Fault Refusal :=
  runPacket (.red32 d a s p o r) false (atomLane (.red32 d a s p o r) false 1 s.toNat p.toNat o.toNat r.toNat) σ

/-- Non-returning 64-bit atomic reduction (R218). -/
def execRed64 (d : BitVec 7) (a : BitVec 7) (s : BitVec 3) (p : BitVec 2) (o : BitVec 4) (r : BitVec 2) (σ : State) : Host.Outcome State Fault Refusal :=
  runPacket (.red64 d a s p o r) false (atomLane (.red64 d a s p o r) false 2 s.toNat p.toNat o.toNat r.toNat) σ

/-- Adds a binary32 contribution into a bin record at its home (R219). -/
def execBredF32 (a : BitVec 7) (b : BitVec 7) (s : State) : Host.Outcome State Fault Refusal :=
  runPacket (.bredF32 a b) false (bredLane (.bredF32 a b) false) s

/-- Adds a binary64 contribution into a bin record (R219). -/
def execBredF64 (a : BitVec 7) (b : BitVec 7) (s : State) : Host.Outcome State Fault Refusal :=
  runPacket (.bredF64 a b) false (bredLane (.bredF64 a b) true) s

/-- Converts a bin record to binary64 read at its home (R220). -/
def execBinfin (d : BitVec 7) (a : BitVec 7) (s : State) : Host.Outcome State Fault Refusal :=
  runPacket (.binfin d a) false (binfinLane (.binfin d a)) s

/-- Appends 4 bytes to an APPEND page at its home and returns the offset (R221). -/
def execAppendB32 (d : BitVec 7) (a : BitVec 7) (b : BitVec 7) (s : State) : Host.Outcome State Fault Refusal :=
  runPacket (.appendB32 d a b) false (appendLane (.appendB32 d a b) 4) s

/-- Appends 8 bytes to an APPEND page (R221). -/
def execAppendB64 (d : BitVec 7) (a : BitVec 7) (b : BitVec 7) (s : State) : Host.Outcome State Fault Refusal :=
  runPacket (.appendB64 d a b) false (appendLane (.appendB64 d a b) 8) s

/-- Appends 16 bytes to an APPEND page (R221). -/
def execAppendB128 (d : BitVec 7) (a : BitVec 7) (b : BitVec 7) (s : State) : Host.Outcome State Fault Refusal :=
  runPacket (.appendB128 d a b) false (appendLane (.appendB128 d a b) 16) s

/-- Appends 32 bytes to an APPEND page (R221). -/
def execAppendB256 (d : BitVec 7) (a : BitVec 7) (b : BitVec 7) (s : State) : Host.Outcome State Fault Refusal :=
  runPacket (.appendB256 d a b) false (appendLane (.appendB256 d a b) 32) s

/-- Releases at device scope then seals an APPEND page (R222). -/
def execSealPage (a : BitVec 7) (s : State) : Host.Outcome State Fault Refusal :=
  runPacket (.sealPage a) false (sealLane (.sealPage a)) s

end Sys2Proof.Machine
end

