-- ==== Sys2Proof/Machine/Area.lean ====
section
/-! DEFINITION. Exact signed areas of lines and Bézier curves over pixels, and the piece count of a curve (R330 to R334). Coordinates are integers in units of 1/256 pixel. -/

namespace Sys2Proof.Machine

/-- A point of R277. -/
abbrev Pt := Int × Int

/-! ### Lines (R330, R331) -/

/-- Twice the integral from 0 to u of Clamp(v, 0, h). -/
def clampArea (h u : Int) : Int := if u ≤ 0 then 0 else if u ≤ h then u * u else h * h + 2 * h * (u - h)

/-- Φ of a line for a pixel, as a quotient with a positive divisor. -/
def lineArea (p q : Pt) (px py : Int) : Int × Int :=
  let s : Int := if q.1 < p.1 then -1 else 1
  let (p, q) := if q.1 < p.1 then (q, p) else (p, q)
  let dx := q.1 - p.1
  let dy := q.2 - p.2
  let a := max p.1 (256 * px)
  let b := min q.1 (256 * px + 256)
  if b ≤ a then (0, 1)
  else
    let g (x : Int) : Int := (256 * (py + 1) - p.2) * dx - dy * (x - p.1)
    let h := 256 * dx
    if dy = 0 then (s * (b - a) * max 0 (min (g a) h), 65536 * dx)
    else
      let n := s * (clampArea h (g a) - clampArea h (g b))
      if dy < 0 then (-n, 2 * -dy * dx * 65536) else (n, 2 * dy * dx * 65536)

/-- RoundHalfEven(2^20 × n / d) for d > 0. -/
def roundArea (n d : Int) : Int :=
  let v := n * 2 ^ 20
  let q := Int.fdiv v d
  let r := v - q * d
  if 2 * r < d then q else if d < 2 * r then q + 1 else if q % 2 = 0 then q else q + 1

/-- Sum of quotients. -/
def addQuot (x y : Int × Int) : Int × Int := (x.1 * y.2 + y.1 * x.2, x.2 * y.2)

/-- Φ_T of a triangle (R332). -/
def triArea (a b c : Pt) (px py : Int) : Int × Int := addQuot (addQuot (lineArea a b px py) (lineArea b c px py)) (lineArea c a px py)

/-! ### Curves (R330, R331) -/

/-- Midpoints of neighbours, doubled. -/
def mids : List Pt → List Pt
  | p :: q :: r => (p.1 + q.1, p.2 + q.2) :: mids (q :: r)
  | _ => []

/-- Both halves of a curve at its middle parameter, on coordinates `2^n` times as fine, `n` being the degree: first and last points of de Casteljau's rows. -/
def halves (ps : List Pt) : List Pt × List Pt :=
  let n := ps.length - 1
  go n ps n
where
  go (n : Nat) (row : List Pt) : Nat → List Pt × List Pt
    | 0 =>
      let f : List Pt := row.take 1
      (f, f)
    | k + 1 =>
      let sc (p : Pt) : Pt := (p.1 * 2 ^ (k + 1), p.2 * 2 ^ (k + 1))
      let (l, r) := go n (mids row) k
      ((row.head?.map sc).toList ++ l, r ++ (row.getLast?.map sc).toList)

def chooseN : Nat → Nat → Nat
  | _, 0 => 1
  | 0, _ + 1 => 0
  | n + 1, k + 1 => chooseN n k + chooseN n (k + 1)

/-- 60 times the integral of y dx along a curve of degree 2 or 3. -/
def areaUnder (ps : List Pt) : Int :=
  let n := ps.length - 1
  let m := n - 1
  let at' (i : Nat) : Pt := ps.getD i (0, 0)
  (List.range (n + 1)).foldl (fun (s : Int) i => (List.range n).foldl (fun (s : Int) j =>
    s + ((60 * n * chooseN n i * chooseN m j / (chooseN (n + m) (i + j) * (n + m + 1)) : Nat) : Int) * (at' i).2 * ((at' (j + 1)).1 - (at' j).1)) s) 0

/-- An enclosure: 60 × 2^sc × 65536 × Φ lies within `w` of `v`. -/
structure Encl where
  v : Int := 0
  w : Int := 0
  deriving DecidableEq, Repr

/-- The part of Φ from a curve on coordinates `u` times finer than 1/256 pixel, by halving `k` times at most; sums are on `2^(2n)` finer areas for each halving left. -/
def curveArea (px py : Int) : Nat → Int → List Pt → Encl
  | k, u, ps =>
    let n := ps.length - 1
    let xs := ps.map (·.1)
    let ys := ps.map (·.2)
    let lo (l : List Int) : Int := l.foldl min (l.headD 0)
    let hi (l : List Int) : Int := l.foldl max (l.headD 0)
    let c := 256 * px * u
    let d := 256 * (px + 1) * u
    let y0 := 256 * py * u
    let y1 := 256 * (py + 1) * u
    let unit : Int := 2 ^ (2 * n * k)
    let dx := xs.getLastD 0 - xs.headD 0
    if hi xs ≤ c || d ≤ lo xs || y1 ≤ lo ys then {}
    else if c ≤ lo xs && hi xs ≤ d && hi ys ≤ y0 then { v := 60 * unit * dx * 256 * u }
    else if c ≤ lo xs && hi xs ≤ d && y0 ≤ lo ys && hi ys ≤ y1 then { v := unit * (60 * y1 * dx - areaUnder ps) }
    else match k with
      | 0 => { w := 60 * 256 * u * ((xs.zip xs.tail).foldl (fun (s : Int) (p : Int × Int) => s + ((p.2 - p.1).natAbs : Int)) 0) }
      | k + 1 =>
        let (l, r) := halves ps
        let a := curveArea px py k (u * 2 ^ n) l
        let b := curveArea px py k (u * 2 ^ n) r
        { v := a.v + b.v, w := a.w + b.w }

/-- Halvings after which an enclosure decides every Φ. At most 24 parts are then undecided (a part's control values straddle one of the four lines only where a complex root of a cubic lies in the disc on its parameter range), each with an x-extent below 2^(36 - k), so 32 × 65536 × Φ is known within 2^(53 - k). 60 D (2^21 Φ - m), D the sixth power of the leading coefficients of x and y, is an algebraic integer of degree at most 6^4 whose conjugates are below 2^721: it is 0 or above 2^-933696. Log 23. -/
def areaDepth : Nat := 2 ^ 20

/-- 2^20 × Φ rounded at both ends of an enclosure after `k` halvings; none where the enclosure holds 0. -/
def areaEnds (ps : List Pt) (px py : Int) (k : Nat) : Option (Int × Int) :=
  let e := curveArea px py k 1 ps
  let den : Int := 60 * 65536 * 2 ^ (2 * (ps.length - 1) * k)
  if e.v - e.w ≤ 0 && 0 ≤ e.v + e.w then none else some (roundArea (e.v - e.w) den, roundArea (e.v + e.w) den)

/-- The rounded 2^20 × Φ of a curve for a pixel, or none where Φ is 0 (R331), after `k` halvings where they decide it. -/
def curveSoon (ps : List Pt) (px py : Int) (k : Nat) : Option (Option Int) :=
  match areaEnds ps px py k with
  | none => if curveArea px py k 1 ps = {} then some none else none
  | some (a, b) => if a = b then some (some a) else none

/-- The same where they may not: an enclosure of `areaDepth` that still holds 0 is of Φ = 0, and one whose ends round apart is of a tie. -/
def curveLate (ps : List Pt) (px py : Int) : Option Int :=
  (areaEnds ps px py areaDepth).map fun (a, b) => if a % 2 = 0 then a else b

/-- What a curve adds to a pixel (R331). -/
def curveAdd (ps : List Pt) (px py : Int) : Option Int :=
  match [24, 96, 768].findSome? (curveSoon ps px py) with
  | some r => r
  | none => curveLate ps px py

/-! ### Degenerate segments and pieces (R333, R334) -/

def cross (o p q : Pt) : Int := (p.1 - o.1) * (q.2 - o.2) - (p.2 - o.2) * (q.1 - o.1)

/-- Whether points lie on one line. -/
def collinear (ps : List Pt) : Bool :=
  match ps with
  | [] => true
  | p :: r =>
    match r.find? (· ≠ p) with
    | none => true
    | some q => r.all fun x => cross p q x = 0

/-- Bits of the fixed point that parameters are held on, and the distance below which two of them are one (their separation bound is far larger). -/
def paramBits : Nat := 4096
def paramTol : Int := 2 ^ 2048

/-- Roots within (0, 1) of a t² + b t + c, on the fixed point. -/
def rootsIn (a b c : Int) : List Int :=
  let one : Int := 2 ^ paramBits
  let ok (t : Int) : Bool := paramTol < t && t < one - paramTol
  let l : List Int :=
    if a = 0 then (if b = 0 then [] else [Int.fdiv (-c * one) b])
    else
      let disc := b * b - 4 * a * c
      if disc < 0 then []
      else
        let r : Int := isqrt (disc.toNat * 2 ^ (2 * paramBits))
        [Int.fdiv (-b * one - r) (2 * a), Int.fdiv (-b * one + r) (2 * a)]
  l.filter ok

/-- Parameters in (0, 1) where a coordinate's derivative is zero. -/
def turning (cs : List Int) : List Int :=
  let at' (i : Nat) : Int := cs.getD i 0
  if cs.length = 3 then rootsIn 0 (at' 2 - 2 * at' 1 + at' 0) (at' 1 - at' 0)
  else
    let a := at' 1 - at' 0
    let b := at' 2 - at' 1
    let c := at' 3 - at' 2
    rootsIn (a - 2 * b + c) (2 * (b - a)) a

/-- Distinct values of a rising list. -/
def distinct : List Int → List Int
  | a :: b :: r => if b - a ≤ paramTol then distinct (a :: r) else a :: distinct (b :: r)
  | l => l

/-- x at a parameter, on 2^(n × paramBits). -/
def bezierAt (cs : List Int) (t : Int) : Int :=
  let n := cs.length - 1
  let u := (2 : Int) ^ paramBits - t
  (cs.zipIdx).foldl (fun s (c, i) => s + (chooseN n i : Int) * c * t ^ i * u ^ (n - i)) 0

/-- Adds the pieces of a part of a curve on which x is monotone to a count, which stops above 32. -/
def partPieces (cs : List Int) : Nat → Int → Int → Nat → Nat
  | 0, _, _, _ => 33
  | k + 1, t0, t1, acc =>
    if 32 < acc then acc
    else
      let n := cs.length - 1
      let ext := (bezierAt cs t1 - bezierAt cs t0).natAbs
      if (ext : Int) ≤ 4096 * 2 ^ (n * paramBits) + 2 ^ (n * paramBits - 1024) then acc + 1
      else
        let m := (t0 + t1) / 2
        partPieces cs k m t1 (partPieces cs k t0 m acc)

/-- Whether a curve needs more than 32 pieces. -/
def tooManyPieces (ps : List Pt) : Bool :=
  let xs := ps.map (·.1)
  let cuts := distinct ((turning xs ++ turning (ps.map (·.2))).mergeSort fun a b => a ≤ b)
  let ts := 0 :: cuts ++ [2 ^ paramBits]
  32 < (ts.zip ts.tail).foldl (fun n p => partPieces xs 33 p.1 p.2 n) 0

end Sys2Proof.Machine
end

