-- ==== Sys2Proof/Machine/Events.lean ====
section
/-! DEFINITION. Memory events: pending operations performed, write-backs and drops, the comparator of checked grids, the slew limiter, contention expiry, and the fencing of a core. -/

namespace Sys2Proof.Machine

def State.findPend (s : State) (id : Nat) : Option PendOp := s.pend.find? (·.id = id)

/-! ### Remote operations (R112, R149, R342) -/

/-- Whether a request for an operation, or a fill for it, is on its way. -/
def State.requested (s : State) (o : PendOp) : Bool := s.remotes.any fun r => !r.wb && r.op.id = o.id

def State.requestOnce (s : State) (o : PendOp) : State := if s.requested o then s else s.sendRem o false false

/-- Asks for the line of a remote access (R137). -/
def State.requestFill (s : State) (o : PendOp) : State :=
  if s.requested o then s
  else s.sendRem { o with asked := if o.asked = (0, 0) then (o.ptr, o.size) else o.asked, op := .load false, size := 128, ptr := o.ptr / 128 * 128, pa := lineOf o.pa, dst := .none, bcast := [], data := [] } false false

/-- Asks for the line of a window's remote block (R55). -/
def State.requestBlock (s : State) (t insn ptr pa : Nat) : State :=
  let n := 2 ^ 59 + 2 ^ 58 + t
  s.requestFill { id := n, grp := n, tid := t, core := coreOf t, ctx := s.ctxOf t, op := .load false, space := 0, ptr := ptr, pa := pa, place := 2,
                  size := 128, pc := (s.thread t).pc.toNat, insn := insn, pkt := n }

/-- WriteBackOwn of a remote location: whether no dirty byte of it is left, or it has been sent back. -/
def State.ownSentBack (s : State) (o : PendOp) (n : Nat) : State × Bool :=
  let here (a : Nat) : Bool := decide (o.pa ≤ a) && decide (a < o.pa + n)
  if (s.l1Select o.core o.ctx fun a c => c.dirty && here a).isEmpty then (s, true)
  else (s.sendBackAll o.core o.ctx here, false)

/-! ### Checked copies (R298, R299) -/


/-- Whether an operation of a DUAL copy has still to go through the comparator, instead of an L1 view. -/
def State.compared (s : State) (o : PendOp) : Bool :=
  s.dualOf o.tid && o.place ≠ 1 && !s.matched o && match o.op with
    | .store => s.direct o && o.place ≠ 2
    | .atomic .. | .bred _ | .append | .sealing => true
    | .load _ | .binfin | .pref | .cinv _ => false

/-- Unmatched lines of a cluster's comparator are at most 256 (R298). -/
def State.comparatorFull (s : State) (core : Nat) : Bool :=
  256 ≤ (((s.duals.filter fun d => !d.shadow && clusterOf d.op.core = clusterOf core).map fun d => (d.op.core, lineOf d.op.pa)).eraseDups).length

/-- Sends an operation to the comparator once. -/
def State.compareOnce (s : State) (o : PendOp) : State :=
  if s.duals.any (fun d => d.op.id = o.id) || s.comparatorFull o.core then s else s.sendDual o

/-- The primary's result for a shadow's operation (R299). -/
def State.sampleFor (s : State) (o : PendOp) : Option (Nat × Bool) :=
  match (s.crewOf o.tid).bind (·.twin) with
  | some k => (s.samples.find? fun x => x.1 = (k, s.crewLane o.tid, o.seq)).map (·.2)
  | none => none

/-- A SAMPLED shadow's global write that reaches a home: never performed; a returning one takes the primary's result. -/
def State.shadowWrite (s : State) (o : PendOp) : State × Bool :=
  let ret : Bool := match o.op with
    | .atomic _ r _ _ _ => r
    | .append => true
    | _ => false
  if ret then
    match s.sampleFor o with
    | none => (s, false)
    | some (v, p) =>
      let s := match o.op with
        | .atomic op _ _ _ scope => if s.inView o scope then (s.rmwAt o op scope).1 else s
        | _ => s
      ((s.deliverOp o v p).completeOp o, true)
  else
    match o.op with
    | .atomic op _ _ _ scope => ((if s.inView o scope then (s.rmwAt o op scope).1 else s).completeOp o, true)
    | _ => (s.completeOp o, true)

/-! ### One operation performed -/

/-- An operation whose home's die has been fenced since it was checked (R431): it is not performed. -/
def State.fencedOp (s : State) (o : PendOp) : Option MemErr :=
  if o.place ≠ 0 || (o.op.isLoad && s.replicaHeld o.tid o.pa o.cls o.leaf o.psize .read) then none else s.fencedErr o.pa

/-- Whether an operation is an addition of a stream of Carve. -/
def PendOp.ofStream (o : PendOp) : Bool := 2 ^ 62 ≤ o.id && o.size = 4 && (match decode (BitVec.ofNat 32 o.insn) with
  | some (.emit ..) => true
  | _ => false)

/-- A refused addition of a stream: its record, one for each key of the stream, and at most 32 (R424). -/
def State.refuseAdd (s : State) (o : PendOp) (e : MemErr) : State :=
  let key := (e.group, e.code, regionOf o.ptr, vaOf o.ptr / 65536)
  match s.streams.look o.tid with
  | none => s
  | some x =>
    if x.keys.contains key || 32 ≤ x.keys.length then s
    else
      { s.opRec { o with ptr := 0, pc := x.pc, insn := x.insn } (causeWord false false false 0 7 4) o.ptr (e.group * 65536 + e.code) with
        streams := s.streams.put o.tid { x with keys := x.keys ++ [key] } }

/-- A write of an engine operation that its home refuses after its other accesses: one record for each key of the operation (R401). -/
def State.refuseEng (s : State) (o : PendOp) (e : MemErr) : State :=
  let key := 2 ^ 140 + ((e.group * 2 ^ 16 + e.code) * 2 ^ 8 + regionOf o.ptr) * 2 ^ 56 + vaOf o.ptr / 65536
  if s.noted.contains (o.pkt, key) then s
  else
    let c := e.cause 0 o.ptr 5 (min o.size 32) false
    { s.opRec o (causeWord false false false 0 e.group e.code) (c.d0 + (if e.group = 9 then 0 else 1)) c.d1 with noted := (o.pkt, key) :: s.noted }

/-- An operation already issued that its home refuses: it has no effect (R401, R433). -/
def State.failOp (s : State) (o : PendOp) (e : MemErr) : State :=
  if o.pkt < 2 ^ 59 then s.failPend o e
  else (if o.ofStream then s.refuseAdd o e else s.refuseEng o e).completeOp o

/-- APPEND performed at its home after issue (R123). -/
def State.performAppend (s : State) (o : PendOp) : State :=
  match s.appendAt o.pa o.leaf o.psize o.data with
  | (s, .error e) => s.failPend o e
  | (s, .ok off) => (((s.dropOwn { o with pa := o.pa + off, size := o.data.length }).deliverOp o off false).noteSample o off false).completeOp o

/-- Performs an operation at its place, now. -/
def State.performNow (s : State) (o : PendOp) : State :=
  match o.op with
  | .load sg =>
    let (bs, s) := s.readOp o
    (s.deliverLoad o sg bs).completeOp o
  | .store => s.performStore o
  | .atomic .. => s.performAtomic o
  | .bred w => s.performBred o w
  | .binfin => s.performBinfin o
  | .append => s.performAppend o
  | .sealing => s.performSeal o
  | .pref => s.performPref o
  | .cinv sc => s.performCinv o sc

/-- What an operation still needs at a remote home: the fill of its line, or the request itself. -/
def State.performRemote (s : State) (o : PendOp) : State × Bool :=
  if isQueueTid o.tid then (s.requestOnce o, false)
  else match o.op with
    | .load _ => if s.reachable o then (s.performNow o, true) else (s.requestFill o, false)
    | .store =>
      if (s.dualOf o.tid && s.comparatorFull o.core) || !s.l1Roomy o.core o.ctx o.pa then (s, false) else (s.performNow o, true)
    | .atomic _ _ _ _ scope =>
      if s.inView o scope then (if s.reachable o then (s.performNow o, true) else (s.requestFill o, false))
      else match s.ownSentBack o o.size with
        | (s, true) => (s.requestOnce o, false)
        | (s, false) => (s, false)
    | .bred _ | .binfin =>
      match s.ownSentBack o 64 with
      | (s, true) => (s.requestOnce o, false)
      | (s, false) => (s, false)
    | .append | .sealing => (s.requestOnce o, false)
    | .pref => (s.performNow o, true)
    | .cinv sc =>
      if sc < 2 then (s.performNow o, true)
      else match s.ownSentBack { o with pa := lineOf o.pa } 128 with
        | (s, true) => (s.performNow o, true)
        | (s, false) => (s, false)

/-- The release before an operation that has one (R139, R141). -/
def State.opRelease (s : State) (o : PendOp) : State × Bool :=
  match o.op with
  | .atomic _ _ true _ scope => s.tryRelease scope o.core o.ctx
  | .sealing => s.tryRelease 3 o.core o.ctx
  | _ => (s, true)

/-- Why a scratchpad or window operation that arrives at its scratchpad faults there (R107, R407, R408). -/
def State.windowErr (s : State) (o : PendOp) : Option MemErr :=
  if o.space = 1 && o.op.writes then (s.crewIdOf o.tid).bind fun k => s.singleWriter o.core k o.ptr (o.core % 4)
  else if o.space ≠ 2 then none
  else match s.checkWindow o.tid o.ptr (if o.op.writes then .write else .read) with
    | .bad e => some e
    | .ok _ | .hostOwned _ => none

/-- The scratchpad byte of a window operation as it arrives (R107). -/
def State.arriveAt (s : State) (o : PendOp) : PendOp :=
  if o.space ≠ 2 then o
  else match s.checkWindow o.tid o.ptr (if o.op.writes then .write else .read) with
    | .ok g => { o with pa := g.pa }
    | .bad _ | .hostOwned _ => o

/-- Performs an operation where everything lets it be performed; whether it was. -/
def State.performOne (s : State) (o : PendOp) : State × Bool :=
  let o := s.arriveAt o
  match s.opRelease o with
  | (s, false) => (s, false)
  | (s, true) =>
    match s.windowErr o with
    | some e => (s.failPend o e, true)
    | none =>
    match s.fencedOp o with
    | some e => if o.op.isPref then (s.completeOp o, true) else if o.op = .store && !s.direct o then (s.performNow o, true) else (s.failOp o e, true)
    | none =>
      if s.shadowOf o.tid && o.place ≠ 1 && o.op.writes && (o.op ≠ .store || s.direct o && o.place ≠ 2) then s.shadowWrite o
      else if s.compared o then (s.compareOnce o, false)
      else if o.place = 2 then s.performRemote o
      else if !s.reachable o then (s, false)
      else if o.op = .store && s.dualOf o.tid && !s.direct o && s.comparatorFull o.core then (s, false)
      else (s.performNow o, true)

/-- The atomics of one packet to one location, performed together in ascending thread index (R217). -/
def State.opGroup (s : State) (o : PendOp) : List PendOp :=
  if o.op.isRmw then s.pend.filter fun x => x.pkt = o.pkt && x.op.isRmw && x.err.isNone && x.place = o.place && x.overlaps o
  else [o]

/-- An event that performs an operation, with its group, after everything ordered before them (R137). -/
def State.performEvent (s : State) (o : PendOp) : State :=
  if o.err.isSome then s.settleFailed o.pkt
  else
  let g := s.opGroup o
  let others : State := { s with pend := s.pend.filter fun x => !(g.any fun y => y.id = x.id) || x.id = o.id }
  if g.any (fun y => others.blocked y) then s
  else (g.foldl (fun s y => if (s.findPend y.id).isSome then (s.performOne y).1 else s) s).settleFailed o.pkt

/-- An uncorrectable error found where a load reads (R375): its granule is poisoned in place. -/
def State.poisonAt (s : State) (o : PendOp) : State :=
  if o.place = 1 then { s with scratch := s.scratch.mark (o.pa / 4) true }
  else if !s.direct o && s.l1Has o.core o.ctx o.pa o.size then { s with l1psn := s.l1psn.put (l1Key o.core o.ctx o.pa / 8) true }
  else if o.place ≠ 0 then s
  else match s.mappedLine (lineOf o.pa) with
    | some (_, _, a) => { s with scratch := s.scratch.mark ((a + o.pa % 128) / 4) true }
    | none => { s with phys := s.phys.mark (o.pa / 8) true }

/-- L1_WRITE_BACK (R137): the dirty byte at an address goes to its home. -/
def execL1WriteBack (core ctx addr : Nat) (s : State) : Host.Outcome State Fault Refusal :=
  if 2 ^ 64 ≤ addr then .next (s.sendBackAll core ctx fun a => a = addr)
  else .next (s.writeBackOne core ctx addr)

/-- L1_DROP (R137): the clean bytes of the line of an address are dropped. -/
def execL1Drop (core ctx addr : Nat) (s : State) : Host.Outcome State Fault Refusal :=
  .next (s.l1Drop core ctx fun a => lineOf a = lineOf addr)

/-! ### Fencing a core (R435) -/

/-- A record about a crew that no instruction made. -/
def State.crewRec (s : State) (k : Nat) (level group code d0 d1 : Nat) : State :=
  match s.crews.look k with
  | none => s
  | some c =>
    let ctx := ((s.grids.look c.grid).map (·.ctx)).getD 0
    (s.logFault ctx { etime := (s.core c.core).etime.toNat, cause := causeWord (0 < level) false false level group code,
                      wher := whereNoThread c.core ctx, grid := c.grid, d0 := d0, d1 := d1 }).1

/-- Discards what a checked copy has not had matched (R429). -/
def State.dropUnmatched (s : State) (k : Nat) : State :=
  let mine := s.duals.filter fun d => d.crew = k && !d.shadow
  let s := mine.foldl (fun s d => if s.compared d.op then s else s.l1Remove d.op.core d.op.ctx d.op.pa d.op.size) s
  let ts := s.crewThreads k
  { s with duals := s.duals.filter fun d => !(d.crew = k && !d.shadow), pend := s.pend.filter fun o => !(ts.contains o.tid && o.op.writes) }

/-- Crews with a wave on a core. -/
def State.crewsOn (s : State) (core : Nat) : List Nat :=
  s.crews.filterMap fun (k, c) => if c.cores.contains core && (c.run = .running || c.run = .stopping || c.run = .resuming) then some k else none

/-- Aborts crews for a wider failure, with one record in the log of each context that had one aborted (R431). -/
def State.abortFor (s : State) (ks : List Nat) (level code d0 d1 etime wher : Nat) : State :=
  let ctxs := ((ks.filterMap s.crews.look).map fun c => ((s.grids.look c.grid).map (·.ctx)).getD 0).eraseDups
  let s := ks.foldl (fun s k => s.abortCrew k) s
  let s := ctxs.foldl (fun s x => (s.logFault x { etime := etime, cause := causeWord true false false level 9 code, wher := wher + x, d0 := d0, d1 := d1 }).1) s
  s.manage (level * 2 ^ 32 + code) (d0 * 2 ^ 32 + d1)

/-- CORE_FENCE (R435): the core's crews are aborted, its L1 is written back, and it leaves service. -/
def State.fenceCore (s : State) (core reason : Nat) : State :=
  if (s.core core).fenced then s
  else
    let s := (s.setCore core { s.core core with fenced := true }).leaveMask core
    let s := s.abortFor (s.crewsOn core) 6 4 core reason (s.core core).etime.toNat (whereNoThread core 0)
    (List.range 256).foldl (fun s x => (s.writeBackAll core x).sendBackAll core x fun _ => true) s

/-- 24 hours in ETIME (R435). -/
def day : Nat := 86400 * 10 ^ 12

/-- Notes a checking mismatch of two cores, and fences a core that now has two within 24 hours against two partners (R435). -/
def State.noteMismatch (s : State) (a b : Nat) : State :=
  let t (c : Nat) : Nat := (s.core c).etime.toNat
  let s := { s with mismatches := (a, b, t a) :: (b, a, t b) :: s.mismatches }
  let due (c : Nat) : Bool :=
    decide (1 < (((s.mismatches.filter fun m => m.1 = c && t c ≤ m.2.2 + day).map (·.2.1)).eraseDups).length)
  let s' := if due a then s.fenceCore a 2 else s
  if due b then s'.fenceCore b 2 else s'

/-! ### The comparator (R298, R429) -/

def DualOp.agrees (a b : DualOp) : Bool :=
  a.op.ptr = b.op.ptr && a.op.size = b.op.size && a.op.op = b.op.op && a.op.data = b.op.data

/-- First 8 bytes in which two operations' data differ, of the first. -/
def differing : List Byte → List Byte → Nat → Nat
  | a, b, n + 1 => if a.take 8 = b.take 8 then differing (a.drop 8) (b.drop 8) n else leNat (a.take 8)
  | a, _, 0 => leNat (a.take 8)

/-- Aborts both copies of a checked crew (R429). -/
def State.abortPair (s : State) (k : Nat) : State :=
  let t := (s.crews.look k).bind (·.twin)
  let s := (s.dropUnmatched k).abortCrew k
  match t with
  | some j => (s.dropUnmatched j).abortCrew j
  | none => s

/-- Makes the bytes of a matched store clean in a view, but for bytes that another unmatched write covers. -/
def State.settle (s : State) (d : DualOp) : State :=
  (List.range d.op.size).foldl (fun s i =>
    if s.withheld d.op.core d.op.ctx (d.op.pa + i) then s else s.l1Clean d.op.core d.op.ctx (d.op.pa + i) 1) s

/-- The bytes of a matched store as they are written back: each carries the poison of its operation, and that of its unit in the views where the store left part of the unit (R367). -/
def State.pairBytes (s : State) (p d : PendOp) : List MByte :=
  p.data.zipIdx.map fun (b, i) =>
    let u := (p.pa + i) / 8 * 8
    let part := !(decide (p.pa ≤ u) && decide (u + 8 ≤ p.pa + p.data.length))
    let in' (o : PendOp) : Bool := s.l1psn.lookD (l1Key o.core o.ctx u / 8) false
    (b, p.psn || d.psn || (part && (in' p || in' d)))

/-- A matched pair performed once: the primary's store at its home, or the primary's operation with its result for both. -/
def State.performPair (s : State) (p d : DualOp) : State :=
  let s := { s with duals := s.duals.filter fun x => x.id ≠ p.id && x.id ≠ d.id }
  if !s.compared p.op then
    if p.op.place = 2 then
      let s := (List.range p.op.size).foldl (fun s i =>
        if s.withheld p.op.core p.op.ctx (p.op.pa + i) then s else s.l1Send p.op.core p.op.ctx (p.op.pa + i) 1) s
      (s.sendRem p.op true ((s.pairBytes p.op d.op).any (·.2))).settle d
    else
      let s := match s.refuses p.op.pa with
        | some (g, c, d0, d1) =>
          (s.logFault p.op.ctx { addr := lineOf p.op.pa, etime := s.etimeOf p.op.tid, wher := whereNoThread p.op.core p.op.ctx, d1 := d1,
                                 cause := causeWord false false false 0 g c, d0 := if g = 9 then d0 else d0 + p.op.size * 2 ^ 32 }).1
        | none => (s.touchHome (dieOfCore p.op.core) p.op.pa).homeWrite p.op.pa (s.pairBytes p.op d.op)
      (s.settle p).settle d
  else
    let o : PendOp := { p.op with bcast := [(d.op.tid, d.op.dst.pos)] }
    let s := { s with pend := (s.pend.filter fun (x : PendOp) => x.id ≠ d.op.id).map fun (x : PendOp) => if x.id = o.id then o else x }
    let s := if o.op.acq then (match o.op with
      | .atomic _ _ _ _ scope => s.acquire scope d.op.core d.op.ctx
      | _ => s) else s
    if o.place = 2 then (s.performRemote o).1 else if s.reachable o then s.performNow o else s

/-- Whether a pair's operation can reach its place: for an atomic in the L1 views, a frame in both (R15). -/
def State.pairRoom (s : State) (p d : PendOp) : Bool :=
  (match p.op with
    | .atomic _ _ _ _ scope => !s.inView p scope || s.l1Roomy d.core d.ctx d.pa
    | _ => true) && (p.place = 2 || s.reachable p)

/-- Whether two entries of the comparator are one unit of one operation of a crew and its shadow (R298). -/
def State.partners (s : State) (p d : DualOp) : Bool :=
  (match s.crews.look p.crew with
    | some c => c.copy = 0 && c.twin = some d.crew
    | none => false) && p.lane = d.lane && p.seq = d.seq && !p.shadow && p.op.id - p.op.grp = d.op.id - d.op.grp

/-- The entries that are performed together with a primary's: the atomics of its packet to its location (R217). -/
def State.dualGroup (s : State) (p : DualOp) : List DualOp :=
  let g := s.opGroup p.op
  if s.compared p.op then (s.duals.filter fun x => x.crew = p.crew && x.id ≠ p.id && g.any fun y => y.id = x.op.id) ++ [p] else [p]

/-- COMPARATOR_MATCH (R298, R429): a primary's and a shadow's operation of one thread and sequence meet. The atomics of one packet to one location are performed once each of them has met its partner, in ascending thread index (R217). -/
def execComparatorMatch (prim shad : Nat) (s : State) : Host.Outcome State Fault Refusal :=
  match s.duals.find? (·.id = prim), s.duals.find? (·.id = shad) with
  | some p, some d =>
    let g := (s.dualGroup p).mergeSort fun x y => x.op.tid ≤ y.op.tid
    let older := s.duals.any fun x => x.id < p.id && x.op.core = p.op.core && x.op.ctx = p.op.ctx && x.op.overlaps p.op && !g.any fun y => y.id = x.id
    if !s.partners p d || older then .next s
    else if p.agrees d then
      let pairs := g.filterMap fun x => (s.duals.find? (s.partners x)).map fun y => (x, y)
      let whole := pairs.length = g.length && (!s.compared p.op || (s.opGroup p.op).length = g.length)
      if whole && pairs.all (fun (x : DualOp × DualOp) => x.1.agrees x.2 && (!s.compared x.1.op || s.pairRoom x.1.op x.2.op)) then
        .next ((pairs.foldl (fun (s : State) (x : DualOp × DualOp) => s.performPair x.1 x.2) s).settleFailed p.op.pkt)
      else .next s
    else
      let a := differing p.op.data d.op.data 8
      let b := differing d.op.data p.op.data 8
      let s := s.opRec p.op (causeWord true false false 2 8 1) a b
      let s := s.abortPair p.crew
      .next (s.noteMismatch p.op.core d.op.core)
  | _, _ => .next s

/-! ### Device phaser wakes (R302) and contention records (R303) -/

/-- Continues one released thread; an Advance by it starts another release. -/
def State.slewWake (s : State) (t : Nat) : State :=
  match (s.thread t).run with
  | .parked (.phaser k _ _ _) =>
    match s.phResume t with
    | .stay => s
    | .go s adv => if adv then s.phAdvance k else s
  | _ => s

/-- Threads of a core parked on a phaser try again each cycle: a signal that waited for the comparator, and a device phaser whose PHASE a store has changed (R232, R234). Those of an Advance go on through the limiter. -/
def State.pollPhasers (s : State) (core : Nat) : State :=
  s.threads.foldl (fun s (t, x) => match x.run with
    | .parked (.phaser k sig _ _) =>
      if !isQueueTid t && coreOf t = core && (sig || isDevPhaser k) && !(s.slews.any fun w => w.left.contains t) then s.slewWake t else s
    | _ => s) s

/-- Up to `n` clusters of threads in the limiter's order. -/
def slewClusters (first n : Nat) (ts : List Nat) : List Nat :=
  let cs := (ts.map fun t => (clusterOf (coreOf t) + 48 - first) % 48).eraseDups
  (cs.mergeSort (fun a b => a ≤ b)).take n

/-- SLEW_GROUP_RELEASE (R302): the next group of at most 16 clusters of the oldest release. -/
def execSlewGroupRelease (s : State) : Host.Outcome State Fault Refusal :=
  match s.slews with
  | [] => .next s
  | w :: r =>
    let cs := slewClusters w.first 16 w.left
    let here (t : Nat) : Bool := cs.contains ((clusterOf (coreOf t) + 48 - w.first) % 48)
    let rest := w.left.filter fun t => !here t
    let s := { s with slews := if rest.isEmpty then r else { w with left := rest } :: r }
    .next ((w.left.filter here).foldl (fun s t => s.slewWake t) s)

/-- ATOMIC_QUIET_EXPIRY (R303): a line quiet for 2 µs loses its contention record, so its next atomics may be placed at a core. -/
def execAtomicQuietExpiry (line : Nat) (s : State) : Host.Outcome State Fault Refusal :=
  match s.contention.look line with
  | some r => if elapsed (s.core r.core).etime.toNat r.time < 2 * 10 ^ 6 then .next s else .next { s with contention := s.contention.del line }
  | none => .next s

end Sys2Proof.Machine
end

