-- ==== Sys2Proof/Machine/Sync.lean ====
section
/-! DEFINITION. Tags, WAITA and WAKE, fences, WAITC, phasers, windows and mappings (R223 to R239). -/

namespace Sys2Proof.Machine

/-! ### Tags (R225, R226) -/

/-- The tags of a crew among those of a mask, as numbers. -/
def Crew.tagsIn (c : Crew) (mask : Nat) : List Nat := (List.range c.ntags).filter fun i => bit mask i

/-- Widest completion scope of tags (R141). -/
def Crew.tagScope (c : Crew) (ts : List Nat) : Nat := ts.foldl (fun m i => max m (c.tags.lookD i {}).scope) 0

/-- What a tag wait that returns gives: D, the tags that satisfied it, the crew after it. -/
def Crew.tagReturn (c : Crew) (w : TagWait) (mask : Nat) : Option (Nat × List Nat × Crew) :=
  let m := c.tagsIn mask
  let done := m.filter fun i => (c.tags.lookD i {}).done
  match w with
  | .any => if m = [] || done ≠ [] then some (done.foldl (fun v i => v + 2 ^ i) 0, done, c) else none
  | .all => if done = m then some (0, m, c) else none
  | .first =>
    match m, done with
    | [], _ => some (64, [], c)
    | _, f :: _ =>
      let t := c.tags.lookD f {}
      some (f, [f], { c with tags := c.tags.put f { t with done := false, scope := 0 } })
    | _, [] => none

/-- The return of a tag wait (R226): D, then the acquire of R141. The thread's run state and PC are left to the caller. -/
def State.tryTags (s : State) (t : Nat) (w : TagWait) (mask : Nat) (d : Dest) : Option State :=
  match s.crewIdOf t, s.crewOf t with
  | some id, some c =>
    match c.tagReturn w mask with
    | none => none
    | some (v, ts, c') =>
      let s := s.setCrew id c'
      let s := if ts = [] then s else s.acquire (c.tagScope ts) (coreOf t) (s.ctxOf t)
      some (s.writeDest t d v false)
  | _, _ => none

/-- Threads of a crew parked on tags, ascending. -/
def State.tagWaiters (s : State) (k : Nat) : List Nat :=
  s.threads.filterMap fun (t, x) =>
    match x.run with
    | .parked (.tags _ _ _) => if s.crewIdOf t = some k then some t else none
    | _ => none

/-- A parked tag wait returns where it can; a saved thread's when its crew is placed again. -/
def State.wakeTag (s : State) (t : Nat) : State :=
  if isSavedTid t then s
  else match (s.thread t).run with
  | .parked (.tags w m d) =>
    match s.tryTags t w m d with
    | some s => s.unpark t
    | none => s
  | _ => s

def State.wakeTags (s : State) (k : Nat) : State := (s.tagWaiters k).foldl (fun s t => s.wakeTag t) s

/-- Issue of an operation with a tag (R225). -/
def State.tagIssue (s : State) (k tag : Nat) : State :=
  match s.crews.look k with
  | none => s
  | some c =>
    let t := c.tags.lookD tag {}
    s.setCrew k { c with tags := c.tags.put tag { pending := t.pending + 1, done := false, scope := if t.done then 0 else t.scope } }

/-- Completion of an operation with a tag, after its release (R225, R144). -/
def State.tagComplete (s : State) (k tag scope : Nat) : State :=
  match s.crews.look k with
  | none => s
  | some c =>
    let t := c.tags.lookD tag {}
    let t := { t with pending := t.pending - 1, done := t.done || t.pending ≤ 1, scope := max t.scope scope }
    (s.setCrew k { c with tags := c.tags.put tag t }).wakeTags k

/-- Whether a later operation of a thread must wait for an earlier acquire (R136 rule 3). -/
def State.acquiring (s : State) (t : Nat) : Bool := s.pend.any fun o => o.threads.contains t && o.op.acq

/-- One lane of a tag wait. -/
def tagLane (w : TagWait) (s : State) (t : Nat) (a : Given) : LaneOut :=
  if s.readsPending t then .wait
  else match s.tryTags t w (a.v 0) a.dst with
    | some s => .done (s.advance t) []
    | none => .done (s.park t (.tags w (a.v 0) a.dst)) []

/-! ### WAITA and WAKE (R227 to R229, R389) -/

/-- Why a word cannot be waited on (R389): the reason, or where it lies. -/
def waitReason (g : Target) : Nat :=
  if g.place = 2 then 1
  else if g.cls = 1 then 2
  else if g.cls = 2 then 3
  else if g.place ≠ 0 || !inHbm g.pa then 4
  else 0

def waitFault (r : Nat) : Cause := { group := 1, code := 0xe, d0 := r }

/-- The slice of a word for a thread. -/
def sliceFor (t pa : Nat) : Nat := homeSlice (if isQueueTid t then dieOfPa pa % 4 else dieOfCore (coreOf t)) pa

/-- The home value of a word of WAITA, with its records (R375). -/
def State.waitaRead (s : State) (o : PendOp) : State × Nat × Bool :=
  let (bs, s) := s.homeFetch o 4
  (s, leNat (bs.map (·.1)), bs.any (·.2))

/-- A poisoned result that a scratchpad destination would take (R368). -/
def scratchPoison (i : Instr) (d : Dest) (psn : Bool) : Option Cause :=
  match d, psn with
  | .scratch .., true => some (poisonCause 2 (dstCode i))
  | _, _ => none

/-- The return of a parked WAITA (R227): D takes the home value at that instant, or the thread traps on a poisoned value for the scratchpad (R368). -/
def State.returnWaita (s : State) (t pa ptr : Nat) (d : Dest) (insn : Nat) : State :=
  let o := s.newOp t { space := 0, ptr := ptr, pa := pa, place := 0 } (.load false) 4 insn
  let (s, v, psn) := s.waitaRead o
  match (decode (BitVec.ofNat 32 insn)).bind fun i => scratchPoison i d psn with
  | some c => (s.setThread t { s.thread t with run := .ready }).report 2 [(t, c)] insn 0
  | none => (s.writeDest t d v psn).unpark t

/-- Wakes a thread parked by WAITA. -/
def State.wakeWaita (s : State) (t : Nat) : State :=
  match (s.thread t).run with
  | .parked (.waita pa ptr d insn) => s.returnWaita t pa ptr d insn
  | _ => s

/-- Adds a thread to its packet's registration, or makes one; a full slice first wakes its oldest registration (R229). -/
def State.registerWaiter (s : State) (slice pa ctx t : Nat) : State :=
  if s.waiters.any fun w => w.pkt = s.cur.num && w.pa = pa && w.ctx = ctx then
    { s with waiters := s.waiters.map fun w =>
        if w.pkt = s.cur.num && w.pa = pa && w.ctx = ctx then { w with tids := w.tids ++ [t] } else w }
  else
    let here := s.waiters.filter fun w => w.slice = slice
    let s := match here with
      | o :: _ =>
        if 64 ≤ here.length then
          let s := { s with waiters := s.waiters.erase o }
          o.tids.foldl (fun (s : State) u => s.wakeWaita u) s
        else s
      | [] => s
    { s with waiters := s.waiters ++ [{ slice := slice, pa := pa, ctx := ctx, tids := [t], pkt := s.cur.num }] }

/-- One lane of WAITA (R227). -/
def waitaLane (i : Instr) (s : State) (t : Nat) (a : Given) : LaneOut :=
  let p := a.v 0
  match s.check t 0 p 4 4 .read with
  | (s, .bad e) => .trap s (e.cause 0 p 0 4 false)
  | (s, .hostOwned _) => .trap s (waitFault 3)
  | (s, .ok g) =>
    if waitReason g ≠ 0 then .trap s (waitFault (waitReason g))
    else
      let o := s.newOp t g (.load false) 4 (encode i).toNat
      if s.blocked o || s.mapPending (lineOf g.pa) then .wait
      else
        let (s, w, psn) := (s.writeBackOwn o).waitaRead o
        if w = a.v 1 % 2 ^ 32 then
          .done ((s.registerWaiter (sliceFor t g.pa) g.pa (s.ctxOf t) t).park t (.waita g.pa p a.dst o.insn)) []
        else match scratchPoison i a.dst psn with
          | some c => .trap s c
          | none => .done ((s.writeDest t a.dst w psn).advance t) []

/-- The registrations of a word, oldest first, as threads (R228). -/
def State.wordWaiters (s : State) (ctx pa : Nat) : List Nat :=
  (s.waiters.filter fun w => w.ctx = ctx && w.pa = pa).flatMap (·.tids)

/-- One lane of WAKE (R228). -/
def wakeLane (i : Instr) (s : State) (t : Nat) (a : Given) : LaneOut :=
  let p := a.v 0
  match s.check t 0 p 4 4 .read with
  | (s, .bad e) => .trap s (e.cause 0 p 2 4 false)
  | (s, .hostOwned _) => .trap s (waitFault 3)
  | (s, .ok g) =>
    if waitReason g ≠ 0 then .trap s (waitFault (waitReason g))
    else
      let o := s.newOp t g (.atomic 8 true false false 3) 4 (encode i).toNat
      if s.blocked o || s.mapPending (lineOf g.pa) then .wait
      else
        let s := s.writeBackOwn o
        let ws := (s.wordWaiters (s.ctxOf t) g.pa).take (a.v 1 % 2 ^ 32)
        let s := s.dropWaiters fun u => ws.contains u
        let s := ws.foldl (fun s u => s.wakeWaita u) s
        .done ((s.writeDest t a.dst ws.length false).advance t) []

/-! ### Fences and WAITC (R224, R235) -/

/-- One lane of FENCE: a release, then an acquire, as the cell has them. -/
def fenceLane (rel acq : Bool) (scope : Nat) (s : State) (t : Nat) (_ : Given) : LaneOut :=
  let core := coreOf t
  let ctx := s.ctxOf t
  if rel then
    if s.busy t then .wait
    else
      let (s, ok) := s.tryRelease scope core ctx
      if !ok then .stay s none
      else .done ((if acq then s.acquire scope core ctx else s).advance t) []
  else if s.readsPending t then .wait
  else .done ((s.acquire scope core ctx).advance t) []

/-- One lane of WAITC. -/
def waitcLane (l st c tl : Nat) (s : State) (t : Nat) (_ : Given) : LaneOut :=
  if (s.thread t).countersMet l st c tl then .done (s.advance t) []
  else .done (s.park t (.counters l st c tl)) []

/-! ### Phasers (R230 to R234, R390) -/

/-- The phaser fault of a reason; `n` is the core phaser's number, or 64. -/
def phaserFault (r n : Nat) : Cause := { group := 1, code := 0xf, d0 := r, d1 := n }

/-- A phaser named by a lane: its key and number, or why it is none. -/
inductive PhRef where
  | ok (s : State) (key num : Nat)
  | bad (s : State) (c : Cause)
  | wait

/-- The core that holds a thread's core phasers (R230). -/
def State.phaserCore (s : State) (t : Nat) : Nat :=
  match s.crewOf t with
  | some c => if c.paired then c.core else coreOf t
  | none => coreOf t

/-- A core phaser by number. -/
def corePh (s : State) (t : Nat) (a : Given) : PhRef :=
  let n := a.v 0 % 2 ^ 32
  if 63 < n then .bad s (phaserFault 8 n) else .ok s (corePhaser (s.phaserCore t) n) n

/-- A device phaser by its record (R234). -/
def devPh (i : Instr) (s : State) (t : Nat) (a : Given) : PhRef :=
  let p := a.v 0
  if p % 64 ≠ 0 then .bad s (phaserFault 9 64)
  else match s.check t 0 p 64 1 .rmw with
    | (s, .bad e) => .bad s (e.cause 0 p 2 16 false)
    | (s, .hostOwned _) => .bad s (phaserFault 9 64)
    | (s, .ok g) =>
      if g.place ≠ 0 || g.cls ≠ 0 then .bad s (phaserFault 9 64)
      else
        let o := { s.newOp t g (.atomic 8 true false false 3) 64 (encode i).toNat with pa := g.pa }
        if s.blocked o || s.mapPending (lineOf g.pa) then .wait
        else
          let (bs, s) := (s.writeBackOwn o).homeFetch o 64
          if (bs.drop 16).any fun b => b.1 ≠ 0 then .bad s (phaserFault 10 64)
          else .ok (s.dropOwn o) (devPhaser g.pa) 64

/-- Whether the last signal has come, and then the Advance (R232). -/
def State.advanceIf (s : State) (all : Bool) (k : Nat) : State := if all then s.phAdvance k else s

/-- PHREG at its holder (R231). -/
def phregAt (s : State) (t k n b : Nat) (d : Dest) : LaneOut :=
  let x := s.thread t
  let p := s.phaser k
  let free := p.nsig = 0 && p.nwait = 0
  if (x.member k).isSome then .trap s (phaserFault 1 n)
  else if 4 ≤ x.phas.length then .trap s (phaserFault 2 n)
  else if 2 < b then .trap s (phaserFault 3 n)
  else if !isDevPhaser k && !free && p.crew ≠ s.crewIdOf t then .trap s (phaserFault 4 n)
  else
    let p' := { p with
      nsig := if b ≠ 2 then p.nsig + 1 else p.nsig
      nwait := if b ≠ 1 then p.nwait + 1 else p.nwait
      crew := s.crewIdOf t }
    let s := s.setThread t { x with phas := x.phas ++ [{ key := k, mode := b, lp := p.phase, nx := p.phase }] }
    .done (((s.setPhaser k p').writeDest t d p.phase.toNat false).advance t) []

/-- Runs an operation on the phaser a lane names. -/
def onPhaser (r : PhRef) (f : State → Nat → Nat → LaneOut) : LaneOut :=
  match r with
  | .wait => .wait
  | .bad s c => .trap s c
  | .ok s k n => f s k n

/-- PHDROP at its holder (R233). -/
def phdropAt (t : Nat) (s : State) (k n : Nat) : LaneOut :=
  if ((s.thread t).member k).isNone then .trap s (phaserFault 5 n) else .done ((s.phDrop t k).advance t) []

/-- PHSIG, PHWT and PHARV at their holder (R232): a signal, a wait, or both. -/
def phaserAt (sig wait : Bool) (d : Dest) (t : Nat) (s : State) (k n : Nat) : LaneOut :=
  match (s.thread t).member k with
  | none => .trap s (phaserFault 5 n)
  | some m =>
    if sig && m.mode = 2 then .trap s (phaserFault 6 n)
    else if wait && m.mode = 1 then .trap s (phaserFault 7 n)
    else if (sig && s.busy t) || s.readsPending t && wait then .wait
    else
      let finish (s : State) : LaneOut :=
        if !wait then .done (s.advance t) []
        else match s.phWait t k d with
          | some s => .done ((s.phAcquire t k).advance t) []
          | none => .done (s.park t (.phaser k false true d)) []
      if !sig then finish s
      else match (s.phRelease t k).bind fun s => s.phSignal t k with
        | none => .done (s.park t (.phaser k true wait d)) []
        | some (s, all) => finish (s.advanceIf all k)

/-! ### Windows and mappings (R106, R108, R236 to R239) -/

/-- One lane of WOPEN (R236). -/
def wopenLane (s : State) (t : Nat) (a : Given) : LaneOut :=
  let off := a.v 0 % 2 ^ 32
  let b := a.v 1 % 2 ^ 32
  match s.crewOf t, s.crewIdOf t with
  | some c, some k =>
    if off % 128 ≠ 0 || c.alloc ≤ off || 8 ≤ b then
      .trap s (({ group := 3, code := 1, reason := 5 } : MemErr).cause 2 off 1 4 false)
    else
      let core := coreOf t
      let x := s.core core
      match (List.range 64).find? fun n => !(x.windows.lookD n {}).v with
      | none => .done ((s.writeDest t a.dst 0xffffffff false).advance t) []
      | some n =>
        let w : Window := { v := true, sw := bit b 2, wcore := b % 4, row := off / 128, crew := k }
        let s := s.setCore core { x with windows := x.windows.put n w }
        .done ((s.writeDest t a.dst (core % 4 * 2 ^ 13 + n * 2 ^ 7) false).advance t) []
  | _, _ => .wait

/-- One lane of WSHUT (R237). -/
def wshutLane (s : State) (t : Nat) (a : Given) : LaneOut :=
  let w := a.v 0 % 2 ^ 32
  let core := coreOf t
  let x := s.core core
  let n := bits w 12 7
  let r := x.windows.lookD n {}
  let bad (reason d1 : Nat) : LaneOut := .trap s (({ group := 3, code := 1, reason := reason, d1 := d1 } : MemErr).cause 2 w 1 4 false)
  if w / 2 ^ 15 ≠ 0 then bad 1 r.word
  else if bits w 14 13 ≠ core % 4 || !r.v || s.crewIdOf t ≠ some r.crew then bad 4 r.word
  else .done ((s.setCore core { x with windows := x.windows.put n { r with v := false } }).advance t) []

/-- A mapping fault (R238, R400). -/
def mapFault (p reason d1 : Nat) : Cause := ({ group := 3, code := 3, reason := reason, d1 := d1 } : MemErr).cause 0 p 2 4 false

/-- Translates the lines of a range that a lane gives by its pointer `p0`: their physical addresses, or what the first failing line gives. -/
def State.mapLines (s : State) (t p0 p : Nat) : Nat → State × Except Cause (List Nat)
  | 0 => (s, .ok [])
  | n + 1 =>
    match s.translateFor t p 128 .readWrite with
    | (s, .error e) =>
      (s, .error (if e.code = 5 || (e.code = 2 && e.reason = 4) then mapFault p0 1 0 else e.cause 0 p0 2 4 false))
    | (s, .ok tr) =>
      if tr.remote.isSome then (s, .error (mapFault p0 3 0))
      else if tr.cls = 1 || tr.cls = 2 then (s, .error (mapFault p0 4 0))
      else if s.mapNames tr.pa then (s, .error (mapFault p0 5 p))
      else if (s.fencedErr tr.pa).isSome then (s, .error (((s.fencedErr tr.pa).getD { code := 3 }).cause 0 p0 2 4 false))
      else match s.mapLines t p0 (ptrAdd p 128) n with
        | (s, .error c) => (s, .error c)
        | (s, .ok l) => (s, .ok (tr.pa :: l))

/-- One lane of SPMAP (R108, R238, R409): its records are pending until SPMAP_COMPLETE. -/
def spmapLane (i : Instr) (s : State) (t : Nat) (a : Given) : LaneOut :=
  let p := a.v 0
  let b := a.v 1 % 2 ^ 32
  let n := bits b 25 16 + 1
  let row := bits b 12 0
  let core := coreOf t
  let ctx := s.ctxOf t
  match s.crewOf t, s.crewIdOf t, s.contexts.look ctx with
  | some c, some k, some x =>
    if s.busy t then .wait
    else if p % 128 ≠ 0 then .trap s (({ code := 1 } : MemErr).cause 0 p 2 4 false)
    else
      let e := s.boundsOf x.btab (regionOf p)
      if !bit e.ctl 0 then .trap s (((e.check (vaOf p) 128 .readWrite).getD { code := 2, reason := 1 }).cause 0 p 2 4 false)
      else if !e.permits .readWrite then .trap s (mapFault p 1 0)
      else if vaOf p < e.base || e.limit < vaOf p + 128 * n - 1 then .trap s (mapFault p 2 0)
      else if bit e.ctl 6 then .trap s (mapFault p 3 0)
      else match s.mapLines t p p n with
        | (s, .error c) => .trap s c
        | (s, .ok pas) =>
          if 512 < n || b / 2 ^ 26 ≠ 0 || bits b 15 13 ≠ 0 || c.alloc < (row + n) * 128 then .trap s (mapFault p 6 0)
          else
            let m := (s.core core).maps
            match (List.range 64).find? fun j => (m.look j).isNone with
            | none => .done ((s.writeDest t a.dst 0xffffffff false).advance t) []
            | some j =>
              let s := s.writeBackAll core ctx fun a => pas.contains (lineOf a)
              let y := s.core core
              let s := s.setCore core { y with maps := y.maps.put j { crew := k, ptr := p, pas := pas, row := row, pending := true, tid := t, insn := (encode i).toNat, pkt := s.cur.num } }
              .done (s.park t (.spmap j a.dst)) []
  | _, _, _ => .wait

/-- One lane of SPUNMAP (R239): it parks until SPUNMAP_COMPLETE. -/
def spunmapLane (i : Instr) (s : State) (t : Nat) (a : Given) : LaneOut :=
  let n := a.v 0 % 2 ^ 32
  let c := s.core (coreOf t)
  if s.busy t then .wait
  else match c.maps.look n with
    | some m =>
      if s.crewIdOf t = some m.crew then
        .done ((s.setCore (coreOf t) { c with maps := c.maps.put n { m with tid := t, insn := (encode i).toNat, pkt := s.cur.num } }).park t (.spunmap n)) []
      else .trap s (mapFault 0 7 0)
    | none => .trap s (mapFault 0 7 0)

/-- Wakes the thread parked on a mapping of a core. -/
def State.wakeMapping (s : State) (core : Nat) (p : Park → Option Dest) (v : Nat) : State :=
  s.threads.foldl (fun s (t, x) =>
    match x.run with
    | .parked q =>
      match p q with
      | some d => if coreOf t = core && !isQueueTid t then (s.writeDest t d v false).unpark t else s
      | none => s
    | _ => s) s

/-- The reads of a mapping's thread as an operation, for its records (R375): ADDR is the lane's pointer. -/
def SpMapping.op (m : SpMapping) (s : State) (core pa place : Nat) : PendOp :=
  { id := s.uid, grp := s.uid, tid := m.tid, core := core, ctx := s.ctxOf m.tid, op := .load false, space := 0, ptr := m.ptr, pa := pa, place := place, size := 128,
    pc := (s.thread m.tid).pc.toNat, insn := m.insn, pkt := m.pkt }

/-- Reads the lines of a mapping at their homes into its rows (R108). -/
def State.readMap (s : State) (core : Nat) (m : SpMapping) (row : Nat → Nat) : State :=
  (m.pas.zipIdx).foldl (fun (s : State) (x : Nat × Nat) =>
    let (bs, s) := s.homeFetch (m.op s core x.1 0) 128
    s.scratchWrite (row (m.row + x.2)) bs) s

/-- SPMAP_COMPLETE (R108, R409): the rows take the range's contents, every home forwards, the thread goes on. -/
def execSpmapComplete (core num : Nat) (s : State) : Host.Outcome State Fault Refusal :=
  match (s.core core).maps.look num with
  | none => .next s
  | some m =>
    match s.crews.look m.crew with
    | none => .next s
    | some c =>
      if !m.pending then .next s
      else
        let s := s.readMap core m fun r => c.scratchByte core (r * 128)
        let x := s.core core
        let s := s.setCore core { x with maps := x.maps.put num { m with pending := false } }
        .next (s.wakeMapping core (fun q => match q with
          | .spmap i d => if i = num then some d else none
          | _ => none) num)

/-- SPUNMAP_COMPLETE (R108, R239): the rows are read for the thread, with its records (R375), and performed at their homes, and the mapping is removed. -/
def execSpunmapComplete (core num : Nat) (s : State) : Host.Outcome State Fault Refusal :=
  let waiting := s.threads.any fun (t, x) => x.run = .parked (.spunmap num) && coreOf t = core && !isQueueTid t
  if !waiting then .next s
  else
    let s := match (s.core core).maps.look num with
      | none => s
      | some m => m.pas.foldl (fun (s : State) pa =>
        match s.mappedLine pa with
        | some (_, _, a) => s.noteReads (m.op s core a 1) 2 4 (a % 2 ^ 20) (s.scratch.read 4 a 128)
        | none => s) s
    .next ((s.unmapRows core num).wakeMapping core (fun q => match q with
      | .spunmap i => if i = num then some .none else none
      | _ => none) 0)

/-- Parks until any masked tag is done (R226). -/
def execTwany (d : BitVec 7) (a : BitVec 7) (s : State) : Host.Outcome State Fault Refusal :=
  runPacket (.twany d a) false (tagLane .any) s

/-- Parks until all masked tags are done (R226). -/
def execTwall (a : BitVec 7) (s : State) : Host.Outcome State Fault Refusal :=
  runPacket (.twall a) false (tagLane .all) s

/-- Parks until a masked tag is done, takes the lowest and clears its bit (R226). -/
def execTffr (d : BitVec 7) (a : BitVec 7) (s : State) : Host.Outcome State Fault Refusal :=
  runPacket (.tffr d a) false (tagLane .first) s

/-- Parks at the home until a word differs from b, or returns its value (R227). -/
def execWaita (d : BitVec 7) (a : BitVec 7) (b : BitVec 7) (s : State) : Host.Outcome State Fault Refusal :=
  runPacket (.waita d a b) false (waitaLane (.waita d a b)) s

/-- Wakes up to b threads registered on a word, oldest first (R228). -/
def execWake (d : BitVec 7) (a : BitVec 7) (b : BitVec 7) (s : State) : Host.Outcome State Fault Refusal :=
  runPacket (.wake d a b) false (wakeLane (.wake d a b)) s

/-- Acquire at the given scope (R235). -/
def execFenceAcq (s : BitVec 7) (σ : State) : Host.Outcome State Fault Refusal :=
  runPacket (.fenceAcq s) false (fenceLane false true s.toNat) σ

/-- Release at the given scope (R235). -/
def execFenceRel (s : BitVec 7) (σ : State) : Host.Outcome State Fault Refusal :=
  runPacket (.fenceRel s) false (fenceLane true false s.toNat) σ

/-- Release then acquire at the given scope (R235). -/
def execFenceAr (s : BitVec 7) (σ : State) : Host.Outcome State Fault Refusal :=
  runPacket (.fenceAr s) false (fenceLane true true s.toNat) σ

/-- Parks until outstanding-operation counters fall to the given counts (R224). -/
def execWaitc (l : BitVec 5) (s : BitVec 5) (c : BitVec 4) (t : BitVec 4) (σ : State) : Host.Outcome State Fault Refusal :=
  runPacket (.waitc l s c t) false (waitcLane l.toNat s.toNat c.toNat t.toNat) σ

/-- Registers the thread on a core phaser in a mode (R231). -/
def execPhreg (d : BitVec 7) (a : BitVec 7) (b : BitVec 7) (s : State) : Host.Outcome State Fault Refusal :=
  runPacket (.phreg d a b) false (fun s t g => onPhaser (corePh s t g) fun s k n => phregAt s t k n (g.v 1 % 2 ^ 32) g.dst) s

/-- Ends membership of a core phaser (R233). -/
def execPhdrop (a : BitVec 7) (s : State) : Host.Outcome State Fault Refusal :=
  runPacket (.phdrop a) false (fun s t g => onPhaser (corePh s t g) (phdropAt t)) s

/-- Signals a core phaser, advancing it when all signallers arrived (R232). -/
def execPhsig (a : BitVec 7) (s : State) : Host.Outcome State Fault Refusal :=
  runPacket (.phsig a) false (fun s t g => onPhaser (corePh s t g) (phaserAt true false .none t)) s

/-- Waits for the next phase of a core phaser (R232). -/
def execPhwt (d : BitVec 7) (a : BitVec 7) (s : State) : Host.Outcome State Fault Refusal :=
  runPacket (.phwt d a) false (fun s t g => onPhaser (corePh s t g) (phaserAt false true g.dst t)) s

/-- Signals then waits on a core phaser (R232). -/
def execPharv (d : BitVec 7) (a : BitVec 7) (s : State) : Host.Outcome State Fault Refusal :=
  runPacket (.pharv d a) false (fun s t g => onPhaser (corePh s t g) (phaserAt true true g.dst t)) s

/-- Registers on a device phaser record (R231). -/
def execPhregDev (d : BitVec 7) (a : BitVec 7) (b : BitVec 7) (s : State) : Host.Outcome State Fault Refusal :=
  runPacket (.phregDev d a b) false (fun s t g => onPhaser (devPh (.phregDev d a b) s t g) fun s k n => phregAt s t k n (g.v 1 % 2 ^ 32) g.dst) s

/-- Ends membership of a device phaser (R233). -/
def execPhdropDev (a : BitVec 7) (s : State) : Host.Outcome State Fault Refusal :=
  runPacket (.phdropDev a) false (fun s t g => onPhaser (devPh (.phdropDev a) s t g) (phdropAt t)) s

/-- Signals a device phaser (R232). -/
def execPhsigDev (a : BitVec 7) (s : State) : Host.Outcome State Fault Refusal :=
  runPacket (.phsigDev a) false (fun s t g => onPhaser (devPh (.phsigDev a) s t g) (phaserAt true false .none t)) s

/-- Waits on a device phaser (R232). -/
def execPhwtDev (d : BitVec 7) (a : BitVec 7) (s : State) : Host.Outcome State Fault Refusal :=
  runPacket (.phwtDev d a) false (fun s t g => onPhaser (devPh (.phwtDev d a) s t g) (phaserAt false true g.dst t)) s

/-- Signals then waits on a device phaser (R232). -/
def execPharvDev (d : BitVec 7) (a : BitVec 7) (s : State) : Host.Outcome State Fault Refusal :=
  runPacket (.pharvDev d a) false (fun s t g => onPhaser (devPh (.pharvDev d a) s t g) (phaserAt true true g.dst t)) s

/-- Opens a scratchpad window slot to the cluster (R236). -/
def execWopen (d : BitVec 7) (a : BitVec 7) (b : BitVec 7) (s : State) : Host.Outcome State Fault Refusal :=
  runPacket (.wopen d a b) false wopenLane s

/-- Closes a window slot (R237). -/
def execWshut (a : BitVec 7) (s : State) : Host.Outcome State Fault Refusal :=
  runPacket (.wshut a) false wshutLane s

/-- Maps global lines into scratchpad rows and parks until every home records it (R238). -/
def execSpmap (d : BitVec 7) (a : BitVec 7) (b : BitVec 7) (s : State) : Host.Outcome State Fault Refusal :=
  runPacket (.spmap d a b) false (spmapLane (.spmap d a b)) s

/-- Writes mapped rows back and removes the mapping (R239). -/
def execSpunmap (a : BitVec 7) (s : State) : Host.Outcome State Fault Refusal :=
  runPacket (.spunmap a) false (spunmapLane (.spunmap a)) s

end Sys2Proof.Machine
end

