-- ==== Sys2Proof/Machine/Engine.lean ====
section
/-! DEFINITION. What every engine shares: the structure read at issue (R242), refused commands (R415), engine accesses with their records (R138, R144, R401, R402), reservations, pop entries (R62, R243) and completion (R244). -/

namespace Sys2Proof.Machine

/-! ### Refusals (R242, R415) -/

/-- An offence of a command: reason, and the byte offset of the field at fault. -/
abbrev Offence := Nat × Nat

/-- The offset where no field is at fault. -/
def noField : Nat := 2 ^ 64 - 1

/-- An offence where a condition holds. -/
def offends (c : Bool) (reason off : Nat) : List Offence := if c then [(reason, off)] else []

/-- The engine-command fault of a list of offences: the lowest reason, and the lowest-placed field of that reason. -/
def refusal (group ptr : Nat) (l : List Offence) : Option Cause :=
  if l.isEmpty then none
  else
    let r := l.foldl (fun m x => min m x.1) 99
    let o := (l.filter fun x => x.1 = r).foldl (fun m x => min m x.2) noField
    some { group := group, code := 1, addr := ptr, d0 := o, d1 := r }

/-- Bytes of a structure that must be 0, as offences of reason 2. -/
def mustZero (bs : List Byte) (lo n : Nat) : List Offence := offends (leNat ((bs.drop lo).take n) ≠ 0) 2 lo

def fld (bs : List Byte) (lo n : Nat) : Nat := leNat ((bs.drop lo).take n)

/-! ### Structures read at issue -/

/-- What the read of a structure comes to. -/
inductive StructRead where
  /-- The bytes, whether a granule is poisoned, and whether the page is not a PLAIN page of this device. -/
  | ok (s : State) (bs : List Byte) (psn wrong : Bool)
  | out (r : LaneOut)

/-- Reads pieces of at most a line through the thread's view. -/
def State.readPieces (s : State) (o : PendOp) : Nat → List MByte × State
  | 0 => ([], s)
  | k + 1 =>
    if o.size ≤ 128 then s.readOp o
    else
      let (a, s) := s.readOp { o with size := 128 }
      let (b, s) := s.readPieces { o with ptr := o.ptr + 128, pa := o.pa + 128, size := o.size - 128 } k
      (a ++ b, s)

/-- The number of an 8-byte unit that a thread's next instruction reads at issue: it names the thread's place in its program. -/
def State.earlyKey (s : State) (t u : Nat) : Nat := ((s.thread t).seq * 2 ^ 64 + (s.thread t).pc.toNat) * 2 ^ 64 + u

/-- One 8-byte unit of a structure that the thread's next instruction reads at issue is read ahead of the others (R138, R327), after every earlier operation of the thread; only where it finds no fault, no poison and nothing to wait for (log 46). -/
def State.readEarly (s : State) (t ptr : Nat) : State :=
  if s.busy t || (s.thread t).run ≠ .ready then s
  else match s.check t 0 (ptr / 8 * 8) 8 8 .read with
    | (s1, .ok g) =>
      if g.place ≠ 0 || g.cls ≠ 0 || !s1.reachable (s1.issueRead t g 8 0) then s
      else
        let (bs, s2) := s1.readOp (s1.issueRead t g 8 0)
        if bs.any (·.2) then s
        else
          let x := s2.thread t
          s2.setThread t { x with early := FMap.put (x.early.filter fun y => y.1 / 2 ^ 64 = s2.earlyKey t 0 / 2 ^ 64) (s2.earlyKey t (ptr / 8 * 8)) (bs.map (·.1)) }
    | _ => s

/-- Bytes read at issue, with the units that have been read ahead. -/
def State.withEarly (s : State) (t p : Nat) (bs : List MByte) : List MByte :=
  bs.zipIdx.map fun (b, i) =>
    match (s.thread t).early.look (s.earlyKey t ((p + i) / 8 * 8)) with
    | some l => (l.getD ((p + i) % 8) 0, false)
    | none => b

/-- The read of `n` bytes at a pointer as part of issue (R242): a load, after every earlier operation of the thread; with `units` its 8-byte units may have been read one by one ahead of it. -/
def State.readStruct (s : State) (t p n insn : Nat) (units := false) : StructRead :=
  if s.busy t then .out .wait
  else match s.check t 0 p n 1 .read with
    | (s, .bad e) => .out (.trap s (e.cause 0 p 0 (min n 32) false))
    | (s, .hostOwned page) => .out (.stay (s.wantPage t (s.ctxOf t) p page) (hostPark page p 0 (min n 32) insn false .none))
    | (s, .ok g) =>
      let o := s.issueRead t g n insn
      let wrong := g.cls ≠ 0 || g.place ≠ 0
      if g.place = 3 then .ok s (s.regRead g.pa n) false true
      else if g.place = 2 && !s.l1Has o.core o.ctx o.pa n then
        let far := { o with ptr := o.ptr + n - 1, pa := o.pa + n - 1, asked := (o.ptr, n) }
        let s := if s.l1Has o.core o.ctx o.pa 1 then s.requestFill { far with id := 2 ^ 61 + t } else s.requestFill o
        .out (.stay s none)
      else if !s.reachable o then .out .wait
      else
        let (bs, s) := s.readPieces o 3
        let bs := if units then s.withEarly t p bs else bs
        .ok s (bs.map (·.1)) (bs.any (·.2)) wrong

/-- One lane of a command with a structure: `k` continues with its bytes and the offences every engine command has (R415 reasons 1 to 5). -/
def engineLane (group n align insn : Nat) (tag : Option Nat) (s : State) (t p : Nat) (k : State → List Byte → Bool → List Offence → LaneOut) : LaneOut :=
  if p % align ≠ 0 then
    match refusal group p [(1, noField)] with
    | some c => .trap s c
    | none => .wait
  else match s.readStruct t p n insn with
    | .out r => r
    | .ok s bs psn wrong =>
      let tags := match s.crewOf t, tag with
        | some c, some g => offends (c.ntags ≤ g) 4 noField
        | _, _ => []
      k s bs wrong (tags ++ offends psn 5 noField)

/-- Refuses on the offences, or goes on. -/
def refuseOr (group p : Nat) (s : State) (l : List Offence) (k : LaneOut) : LaneOut :=
  match refusal group p l with
  | some c => .trap s c
  | none => k

/-- CSCOPE codes 5 to 7 refuse (R244). -/
def scopeOffence (v off : Nat) : List Offence := offends (4 < v) 3 off

/-! ### Reservations (R246) -/

/-- The record of a core that a crew's number names. -/
def State.resOf (s : State) (core crew num : Nat) : Option (Nat × TileRec) :=
  (s.core core).recs.find? fun (_, r) => r.crew = crew && r.num = num

/-- Tile rows of one logical row (R247, R248). -/
def TileRec.rowsPer (r : TileRec) : Nat := if r.fmt = 11 then (r.sc + 3) / 4 else if r.fmt = 10 then 2 else 1
/-- Logical rows of an FMT 11 reservation (R247). -/
def TileRec.logical (r : TileRec) : Nat := if r.fmt = 11 then r.xrow / r.rowsPer else r.rows

/-! ### Accepting an operation -/

def State.pushEng (s : State) (o : EngOp) : State := { s with ops := s.ops ++ [o], uid := s.uid + 1 }

/-- An accepted operation of a thread. -/
def State.newEng (s : State) (t : Nat) (kind : EngKind) (tag ptr insn : Nat) (cmd : List Byte) : EngOp :=
  { id := s.uid, kind := kind, tid := t, crew := (s.crewIdOf t).getD 0, core := coreOf t, ctx := s.ctxOf t, queue := 0, tag := tag,
    flag := false, ptr := ptr, cmd := cmd, tagAt := coreOf t, pc := (s.thread t).pc.toNat, insn := insn, seq := (s.thread t).seq }

def State.addCopies (s : State) (t : Nat) : State := let x := s.thread t; s.setThread t { x with copies := x.copies + 1 }
def State.addTiles (s : State) (t : Nat) : State := let x := s.thread t; s.setThread t { x with tiles := x.tiles + 1 }

/-- Accepts an operation of a thread with its tag; its writes take one place in the thread's sequence (R298). -/
def State.acceptEng (s : State) (o : EngOp) : State := ((s.pushEng o).tagIssue o.crew o.tag).bumpSeq o.tid
def State.subCopies (s : State) (t : Nat) : State := let x := s.thread t; (s.setThread t { x with copies := x.copies - 1 }).wakeCounters t
def State.subTiles (s : State) (t : Nat) : State := let x := s.thread t; (s.setThread t { x with tiles := x.tiles - 1 }).wakeCounters t

def State.findEng (s : State) (id : Nat) : Option EngOp := s.ops.find? (·.id = id)
def State.setEng (s : State) (o : EngOp) : State := { s with ops := s.ops.map fun x => if x.id = o.id then o else x }
def State.dropEng (s : State) (id : Nat) : State := { s with ops := s.ops.filter fun x => x.id ≠ id }

/-! ### Engine accesses (R138, R144, R401) -/

/-- Why an engine's event cannot take place yet. -/
inductive EngStop where
  /-- A line of a remote region is not present. -/
  | fill (o : PendOp)
  /-- A host-owned page (R129). -/
  | migrate (ptr : Nat) (page : HostPage)
  /-- Dirty bytes of an atomic's own remote location, which go back to their device first (R142): the operation and its bytes. -/
  | sendBack (o : PendOp) (n : Nat)
  /-- A line of a pending mapping (R409), or one that finds no frame in the L1 (R15). -/
  | held

/-- What the one access of a run has come to: the state after it, what it was, whether it writes, why it must wait. -/
structure EngGot where
  s : State
  seen : Seen
  writes : Bool
  stop : Option EngStop
  /-- Its number where that is not the run's: a read made ahead of its turn. -/
  key : Option Nat := none

/-- A run that performs one access of its operation alone (R138): its number, the state it is performed in, whether an uncorrectable error is found first (R375). -/
structure EngAim where
  num : Nat
  s : State
  err : Bool

/-- A run of an engine operation: its state, the units whose access failed, and why it must wait. It performs every access that has not been performed, or with an aim that one only. -/
structure EngRun where
  s : State
  o : EngOp
  faults : List EngFault := []
  stop : Option EngStop := none
  /-- The number of the next access: also that of a write among its operation's writes (R298). -/
  num : Nat := 0
  aim : Option EngAim := none
  /-- An access so far has not been performed, and whether that was so where the present group of accesses began. -/
  gap : Bool := false
  blind : Bool := false
  got : Option EngGot := none

def State.engRun (s : State) (o : EngOp) (aim : Option EngAim := none) : EngRun := { s := s, o := o, num := o.made, aim := aim }
/-- The operation after a run that has performed everything; reads made ahead of their turn stay. -/
def EngRun.kept (r : EngRun) : EngOp := { r.o with made := r.num, seen := r.o.seen.filter fun x => 2 ^ 40 ≤ x.1 }
/-- The accesses that follow depend on none of each other, and on earlier ones of which `g` says that one has not been performed: they are performed in any order, after those (log 46). -/
def EngRun.after (r : EngRun) (g : Bool) : EngRun := { r with gap := g, blind := g }
/-- They depend on every access before them. -/
def EngRun.group (r : EngRun) : EngRun := r.after r.gap

def EngRun.fail (r : EngRun) (e : MemErr) (ptr n : Nat) (w : Bool) (space : Nat) : EngRun :=
  { r with faults := r.faults ++ [⟨e, ptr, w, space, n⟩] }
def EngRun.halt (r : EngRun) (x : EngStop) : EngRun := { r with stop := match r.stop with | some y => some y | none => some x }

/-- An engine access as an operation, for its reads and records. -/
def EngOp.access (o : EngOp) (op : MemOp) (ptr n : Nat) (tr : Tr) : PendOp :=
  { id := engId o.id 0, grp := engId o.id 0, tid := o.tid, core := o.core, ctx := o.ctx, op := op, space := 0, ptr := ptr, pa := tr.pa,
    place := if tr.remote.isSome then 2 else 0, cls := tr.cls, leaf := tr.leaf, psize := tr.psize, md := tr.md, size := n,
    pc := o.pc, insn := o.insn, pkt := engId o.id 0, seq := o.seq }

/-- A failing unit reads as poison. -/
def badBytes (n : Nat) : List MByte := List.replicate n (0, true)

/-- One access that reads, `f` performing it: replayed where it has been performed, else performed if the run performs it. -/
def EngRun.readStep (r : EngRun) (n : Nat) (f : EngRun → EngRun × List MByte) : EngRun × List MByte :=
  let i := r.num
  let r := { r with num := i + 1 }
  match r.o.seen.look i, r.aim with
  | some x, _ => ({ r with faults := r.faults ++ x.faults }, x.bytes.take n)
  | none, none => if r.stop.isSome then (r, badBytes n) else f r
  | none, some a =>
    if a.num = i && !r.blind && r.got.isNone then
      let (x, bs) := f { r with s := a.s, faults := [] }
      ({ r with gap := true, got := some { s := x.s, seen := { bytes := bs, faults := x.faults }, writes := false, stop := x.stop } }, badBytes n)
    else ({ r with gap := true }, badBytes n)

/-- A read that a run may turn out not to need is performed only where it finds no fault, no poison and nothing to wait for: `r` is the run before it (log 46). -/
def EngRun.ahead (x r : EngRun) : EngRun :=
  match r.got, x.got with
  | none, some g => if g.seen.faults = [] && g.seen.bytes.all (!·.2) && g.stop.isNone then x else { x with got := none }
  | _, _ => x

/-- One access that writes. -/
def EngRun.writeStep (r : EngRun) (f : EngRun → EngRun) : EngRun :=
  let i := r.num
  let r := { r with num := i + 1 }
  match r.o.seen.look i, r.aim with
  | some x, _ => { r with faults := r.faults ++ x.faults }
  | none, none => if r.stop.isSome then r else f r
  | none, some a =>
    if a.num = i && !r.blind && r.got.isNone then
      let x := f { r with s := a.s, faults := [] }
      { r with gap := true, got := some { s := x.s, seen := { faults := x.faults }, writes := true, stop := x.stop } }
    else { r with gap := true }

/-- What the translation of an engine's access comes to beyond the tables. -/
def EngRun.place (r : EngRun) (ptr n : Nat) (k : Need) : EngRun × Option Tr :=
  let sp := 0
  match r.s.translateEngine r.o.core r.o.ctx ptr n k with
  | (s, .error e) => ({ r with s := s }.fail e ptr n k.writes sp, none)
  | (s, .ok tr) =>
    let r := { r with s := s }
    if tr.remote.isSome || inRegs tr.pa then (r, some tr)
    else match (if s.replicaHeld (tidOf r.o.core 0 0) tr.pa tr.cls tr.leaf tr.psize k then none else s.fencedErr tr.pa) with
      | some e => (r.fail e ptr n k.writes sp, none)
      | none =>
        if tr.cls = 2 && tr.owner then (r.halt (.migrate ptr ⟨tr.pa / tr.psize * tr.psize, tr.psize, tr.leaf⟩), none)
        else if tr.cls = 1 && s.badAppend tr.leaf tr.psize then
          (r.fail { code := 4, reason := 7, d1 := s.homeNat tr.leaf 8 } ptr n k.writes sp, none)
        else if s.mapPending (lineOf tr.pa) then (r.halt .held, none)
        else (r, some tr)

/-- A read of bytes of one 8-byte unit, now; an uncorrectable error is found there first where the run is aimed so. -/
def EngRun.readNow (r : EngRun) (ptr n : Nat) : EngRun × List MByte :=
  match r.place ptr n .read with
  | (r, none) => (r, badBytes n)
  | (r, some tr) =>
    if inRegs tr.pa && tr.remote.isNone then (r, clean (r.s.regRead tr.pa n))
    else
      let o := r.o.access (.load false) ptr n tr
      if !r.s.reachable o then
        match r.o.unread.find? (·.1 = lineOf tr.pa) with
        | some (_, e) => (r.fail e ptr n false 0, badBytes n)
        | none => (r.halt (.fill o), badBytes n)
      else
        let (bs, s) := (if r.aim.any (·.err) then r.s.poisonAt o else r.s).readOp o
        ({ r with s := s }, bs)

/-- A read of bytes of one 8-byte unit. -/
def EngRun.readUnit (r : EngRun) (ptr n : Nat) : EngRun × List MByte := r.readStep n fun r => r.readNow ptr n

/-- A write of bytes of one 8-byte unit, now: through the issuing core's view, or at the home of lines its crew has mapped. -/
def EngRun.writeNow (r : EngRun) (ptr : Nat) (bs : List MByte) : EngRun :=
  match r.place ptr bs.length .write with
  | (r, none) => r
  | (r, some tr) =>
    if inRegs tr.pa && tr.remote.isNone then r
    else if tr.cls = 1 && tr.remote.isNone then
      r.fail (r.s.appendRefusal { space := 0, ptr := ptr, pa := tr.pa, place := 0, cls := 1, leaf := tr.leaf, psize := tr.psize }) ptr bs.length true 0
    else
      let a := r.o.access .store ptr bs.length tr
      let o := { a with id := a.id + r.num, data := bs.map (·.1), psn := bs.any (·.2) }
      if o.place = 0 && r.s.direct o then
        let r := { r with s := r.s.digest o }
        if r.s.shadowOf o.tid then r
        else if r.s.dualOf o.tid then { r with s := { r.s with pend := r.s.pend ++ [o] } }
        else { r with s := (r.s.touchHome (dieOfCore o.core) tr.pa).homeWrite tr.pa bs }
      else if !r.s.l1Roomy o.core o.ctx o.pa || (r.s.dualOf o.tid && r.s.comparatorFull o.core) then r.halt .held
      else { r with s := ((r.s.digest o).l1Store o.core o.ctx o.pa bs).sendDual o }

/-- A write of bytes of one 8-byte unit. -/
def EngRun.writeUnit (r : EngRun) (ptr : Nat) (bs : List MByte) : EngRun := r.writeStep fun r => r.writeNow ptr bs

/-- The pieces of a range that lie in one 8-byte unit each: pointer and length, from a bound. -/
def pieces : Nat → Nat → Nat → List (Nat × Nat)
  | 0, _, _ => []
  | k + 1, p, n =>
    if n = 0 then []
    else
      let m := min n (8 - p % 8)
      (p, m) :: pieces k (ptrAdd p m) (n - m)

/-- A read of a range of global memory. -/
def EngRun.read (r : EngRun) (ptr n : Nat) : EngRun × List MByte :=
  (pieces (n / 8 + 2) ptr n).foldl (fun (x : EngRun × List MByte) (p : Nat × Nat) =>
    let (r, bs) := x.1.readUnit p.1 p.2
    (r, x.2 ++ bs)) (r.group, [])

/-- A write of a range of global memory. -/
def EngRun.write (r : EngRun) (ptr : Nat) (bs : List MByte) : EngRun :=
  ((pieces (bs.length / 8 + 2) ptr bs.length).foldl (fun (x : EngRun × List MByte) (p : Nat × Nat) =>
    (x.1.writeUnit p.1 (x.2.take p.2), x.2.drop p.2)) (r.group, bs)).1

/-- One device-scope atomic addition at a home (R142), now. A copy of a DUAL crew leaves it pending for the comparator; a SAMPLED shadow's is never performed. -/
def EngRun.addNow (x : EngRun) (ptr n v : Nat) : EngRun :=
  match x.place ptr n .rmw with
    | (x, none) => x
    | (x, some tr) =>
      let a := x.o.access (.atomic 0 false false false 3) ptr n tr
      let o := { a with id := a.id + x.num, data := leBytes n v }
      if inRegs tr.pa && tr.remote.isNone then x
      else if tr.cls = 1 && tr.remote.isNone then
        x.fail (x.s.appendRefusal { space := 0, ptr := ptr, pa := tr.pa, place := 0, cls := 1, leaf := tr.leaf, psize := tr.psize }) ptr n true 0
      else if tr.remote.isSome && !x.s.sampledOf x.o.tid && !(x.s.ownSentBack o n).2 then x.halt (.sendBack o n)
      else
      let x := { x with s := x.s.digest o }
      if x.s.shadowOf x.o.tid then x
      else if x.s.dualOf x.o.tid then { x with s := { x.s with pend := x.s.pend ++ [o] } }
      else if tr.remote.isSome then { x with s := x.s.sendRem o true false }
      else { x with s := ((x.s.noteAtomic o 3).rmwAt o 0 3).1 }

/-- One device-scope atomic addition. -/
def EngRun.addAt (r : EngRun) (ptr n v : Nat) : EngRun := r.writeStep fun r => r.addNow ptr n v

/-- Notes the poisoned granules of a single-copy storage that the operation reads (R375): CODE 2, 6 or 7. -/
def EngRun.note (r : EngRun) (code a ptr : Nat) (bs : List MByte) : EngRun :=
  let o := r.o.access (.load false) ptr bs.length { pa := a }
  { r with s := r.s.noteReads o code 4 a bs }

/-- The key of a failed access (R401): group, CODE, space, region, 64 KiB page. -/
def EngFault.key (f : EngFault) : Nat × Nat × Nat × Nat × Nat :=
  (f.err.group, f.err.code, f.space, if f.space = 0 then regionOf f.ptr else 0, if f.space = 0 then vaOf f.ptr / 65536 else 0)

/-- The failed accesses of each key, keys in ascending order of their lowest address. -/
def faultGroups (l : List EngFault) : List (List EngFault) :=
  let sorted := l.mergeSort fun a b => a.ptr ≤ b.ptr
  let keys := (sorted.map EngFault.key).eraseDups
  keys.map fun k => sorted.filter fun f => f.key = k

/-- The 8-byte units that failed accesses of one page touch. -/
def faultUnits (g : List EngFault) : Nat :=
  min ((g.flatMap fun f => (List.range ((f.ptr + f.size - 1) / 8 + 1 - f.ptr / 8)).map (f.ptr / 8 + ·)).eraseDups).length (2 ^ 32 - 1)

/-- Writes the records of an engine operation's failed accesses: one per key, at most 32 (R402). -/
def EngRun.logFaults (r : EngRun) : State :=
  ((faultGroups r.faults).take 32).foldl (fun s g =>
    match g with
    | [] => s
    | f :: _ =>
      let c := f.err.cause f.space f.ptr (if f.writes then 5 else 4) (min f.size 32) (!f.writes)
      let o := r.o.access (.load false) f.ptr 8 { pa := 0 }
      s.opRec o (causeWord false (!f.writes) false 0 f.err.group f.err.code) (c.d0 + (if f.err.group = 9 then 0 else faultUnits g)) c.d1) r.s

/-- What an event that must wait does instead: it asks for the line or the page it needs. -/
def State.engWait (s : State) (o : EngOp) (x : EngStop) : State :=
  match x with
  | .fill p => s.requestFill p
  | .migrate ptr page => s.wantPage o.tid o.ctx ptr page
  | .sendBack p n => (s.ownSentBack p n).1
  | .held => s

/-- The CODE of R375 for a unit read through the core's view. -/
def State.viewCode (s : State) (o : PendOp) : Nat :=
  if o.place = 2 || s.l1Has o.core o.ctx o.pa o.size then 3 else s.homeCode (dieOfCore o.core) o.pa

/-- The first of `n` places in cyclic order from `start` that a list holds: the round robin of R16. -/
def inTurn (start n : Nat) (l : List Nat) : Option Nat := ((List.range n).map fun i => (start + i) % n).find? fun x => l.contains x

/-! ### Local endpoints -/

/-- A crew's scratchpad on a core of its pair as its operations find it: what a pre-emption saved of it while the crew is saved, and its allocation where it stands otherwise (R297). -/
def State.crewScratchRead (s : State) (k par off n : Nat) : List MByte :=
  match s.crews.look k with
  | none => badBytes n
  | some c => if c.run = .saved then (c.saved.scratch.getD par {}).read 4 off n else s.scratchRead (c.scratchByte (c.coreAt par) off) n
def State.crewScratchWrite (s : State) (k par off : Nat) (bs : List MByte) : State :=
  match s.crews.look k with
  | none => s
  | some c =>
    if c.run = .saved then s.setCrew k { c with saved := { c.saved with scratch := c.saved.scratch.zipIdx.map fun (m, i) => if i = par then m.writeM 4 off bs else m } }
    else s.scratchWrite (c.scratchByte (c.coreAt par) off) bs

/-- A read of the issuing core's scratchpad at an offset of the crew's allocation. -/
def EngRun.readScratch (r : EngRun) (off n : Nat) : EngRun × List MByte :=
  match r.s.crews.look r.o.crew with
  | none => (r, badBytes n)
  | some c =>
    let par := c.parity r.o.core
    (pieces (n / 8 + 2) off n).foldl (fun (x : EngRun × List MByte) (p : Nat × Nat) =>
      let (r, bs) := x.1.readStep p.2 fun r =>
        let bs := r.s.crewScratchRead r.o.crew par p.1 p.2
        (r.note 2 (c.scratchByte (c.coreAt par) p.1 % 2 ^ 20) p.1 bs, bs)
      (r, x.2 ++ bs)) (r.group, [])

/-- A write of the scratchpad; bytes of a single-writer window of another core are refused (R408). -/
def EngRun.writeScratch (r : EngRun) (off : Nat) (bs : List MByte) : EngRun :=
  match r.s.crews.look r.o.crew with
  | none => r
  | some c =>
    let par := c.parity r.o.core
    let core := c.coreAt par
    (pieces (bs.length / 8 + 2) off bs.length).foldl (fun (x : EngRun × List MByte) (p : Nat × Nat) =>
      let (r, bs) := x
      (r.writeStep fun r => match (if c.run = .saved then none else r.s.singleWriter core r.o.crew p.1 (core % 4)) with
        | some e => r.fail e p.1 p.2 true 1
        | none => { r with s := r.s.crewScratchWrite r.o.crew par p.1 (bs.take p.2) }, bs.drop p.2)) (r.group, bs) |>.1

/-- Reads and writes of a tile row (R109) and of a bank column (R110), by 8-byte units, each at any time (R137, R144). -/
def EngRun.readTile (r : EngRun) (row b n : Nat) : EngRun × List MByte :=
  (pieces (n / 8 + 2) b n).foldl (fun (x : EngRun × List MByte) (p : Nat × Nat) =>
    let (r, bs) := x.1.readStep p.2 fun r =>
      let a := tileByte r.o.core row p.1
      let bs := r.s.tile.read 4 a p.2
      (r.note 6 (a % 2 ^ 22) 0 bs, bs)
    (r, x.2 ++ bs)) (r.group, [])

/-- A write of bytes of a storage of single copies, `f` writing those of one 8-byte unit. -/
def EngRun.writeLocal (r : EngRun) (b : Nat) (bs : List MByte) (f : State → Nat → List MByte → State) : EngRun :=
  ((pieces (bs.length / 8 + 2) b bs.length).foldl (fun (x : EngRun × List MByte) (p : Nat × Nat) =>
    (x.1.writeStep fun r => { r with s := f r.s p.1 (x.2.take p.2) }, x.2.drop p.2)) (r.group, bs)).1
def EngRun.writeTile (r : EngRun) (row b : Nat) (bs : List MByte) : EngRun :=
  r.writeLocal b bs fun s a bs => { s with tile := s.tile.writeM 4 (tileByte r.o.core row a) bs }
def EngRun.writeBank (r : EngRun) (bank col b : Nat) (bs : List MByte) : EngRun :=
  r.writeLocal b bs fun s a bs => { s with banks := s.banks.writeM 4 (bankByte r.o.core bank col a) bs }

/-! ### Pop entries (R62, R243) -/

def Thread.pushView (x : Thread) (q : Nat) (e : PopEntry) : Thread :=
  if q = 1 then { x with mxs := x.mxs ++ [e] }
  else if q = 7 then { x with trh := x.trh ++ [e] }
  else if q = 9 then { x with sms := x.sms ++ [e] }
  else { x with gdn := x.gdn ++ [e] }

/-- Whether a view can take an entry: four at most, the crew running. -/
def State.viewRoom (s : State) (t q : Nat) : Bool :=
  ((s.thread t).view (80 + q)).length < 4 && (isQueueTid t || (match s.crewOf t with
    | some c => c.run = .running
    | none => false))

/-- An engine pushes an entry: it is discarded where the thread has exited (R209), else held where the view has no space (R62). -/
def State.pushPop (s : State) (t q : Nat) (e : PopEntry) : State :=
  if (s.thread t).run = .exited && (s.crewOf t).all (fun c => c.run ≠ .saved) then s
  else if s.viewRoom t q && !s.heldPops.any (fun h => h.tid = t && h.q = q) then s.setThread t ((s.thread t).pushView q e)
  else { s with heldPops := s.heldPops ++ [{ id := s.uid, tid := t, q := q, ent := e }], uid := s.uid + 1 }

/-- POP_ENTRY_PUSH (R62): the oldest held entry of a view enters it once it has space. -/
def execPopEntryPush (held : Nat) (s : State) : Host.Outcome State Fault Refusal :=
  match s.heldPops.find? (·.id = held) with
  | none => .next s
  | some h =>
    let first := (s.heldPops.find? fun x => x.tid = h.tid && x.q = h.q).map (·.id)
    if first ≠ some h.id || !s.viewRoom h.tid h.q then .next s
    else .next ({ s with heldPops := s.heldPops.filter fun x => x.id ≠ held }.setThread h.tid ((s.thread h.tid).pushView h.q h.ent))

/-! ### Completion (R244) -/

/-- The release and the tag of a completing operation; whether the release is complete. -/
def State.completeEng (s : State) (o : EngOp) (scope : Nat) : State × Bool :=
  match s.tryRelease scope o.core o.ctx with
  | (s, false) => (s, false)
  | (s, true) => ((s.dropEng o.id).tagComplete o.crew o.tag scope, true)

end Sys2Proof.Machine
end

