-- ==== Sys2Proof/Machine/Tile.lean ====
section
/-! DEFINITION. Tile-store reservations: TRES, TREL and their events (R109, R245 to R250). -/

namespace Sys2Proof.Machine

/-- BLK that a format requires (R247). -/
def blkOf (f : Nat) : Nat := if f = 0 || (8 ≤ f && f ≤ 10) || f = 12 then 0 else if f ≤ 3 then 5 else if f ≤ 7 then 4 else 6

/-- The offences of a request (R245, R247). -/
def tresOffences (b : List Byte) : List Offence :=
  let rows := fld b 0 2
  let f := fld b 2 1 % 16
  let blk := fld b 3 1
  let soff := fld b 4 2
  let xrow := fld b 6 2
  let sc := fld b 8 1
  let q := (sc + 3) / 4
  offends (fld b 2 1 / 16 ≠ 0) 2 2 ++ mustZero b 10 6
    ++ offends (rows = 0 || 8192 < rows) 3 0 ++ offends (12 < f) 3 2 ++ offends (f ≤ 12 && blk ≠ blkOf f) 3 3
    ++ offends (if 1 ≤ f && f ≤ 3 then soff % 4 ≠ 0 || 512 ≤ soff else soff ≠ 0) 3 4
    ++ offends (if f = 11 then 2 ≤ sc && sc ≤ 8 && (xrow % q ≠ 0 || rows < xrow + (xrow / q + 63) / 64) else xrow ≠ 0) 3 6
    ++ offends (if f = 11 then sc < 2 || 8 < sc else sc ≠ 0) 3 8 ++ offends (13 < fld b 9 1) 3 9

/-- Reservation numbers that an engine operation names on its core. -/
def EngOp.reservations (o : EngOp) : List Nat :=
  let c := o.cmd
  match o.kind with
  | .copy _ =>
    (if bits (fld c 20 4) 12 11 = 2 then [bits (fld c 0 8) 37 32] else []) ++ (if bits (fld c 20 4) 14 13 = 2 then [bits (fld c 8 8) 37 32] else [])
  | .gath | .scat => if bits (fld c 26 2) 15 14 = 2 then [bits (fld c 16 8) 37 32] else []
  | .march => [fld c 34 1]
  | .trace | .emit => []

/-- Whether an accepted operation that has not completed names a crew's reservation (R109, R250). -/
def State.resBusy (s : State) (core crew num : Nat) : Bool :=
  s.ops.any (fun o => o.core = core && o.crew = crew && o.reservations.contains num)
    || (s.core core).mxc.any fun m => !m.swap && m.stage ≠ 2 && m.crew = crew && (fld m.pb 8 2 = num || fld m.pb 12 2 = num)

/-- A suspended record whose accepted operations have all completed (R249). -/
def State.takable (s : State) (core : Nat) (r : TileRec) : Bool := r.susp && !s.resBusy core r.crew r.num

/-- The lowest base, a multiple of `2^al`, at which `n` rows meet no record of a list. -/
def findBase (recs : List TileRec) (al n : Nat) : Option Nat :=
  ((List.range (8192 / 2 ^ al)).map (· * 2 ^ al)).find? fun b =>
    b + n ≤ 8192 && recs.all fun r => b + n ≤ r.base || r.base + r.rows ≤ b

/-- The lowest crew-local number that a crew does not hold. -/
def State.freeNumber (s : State) (k : Nat) : Option Nat :=
  let held := ((s.crews.look k).map Crew.cores).getD [] |>.flatMap fun c => ((s.core c).recs.filter fun (_, r) => r.crew = k).map fun (_, r) => r.num
  (List.range 64).find? fun n => !held.contains n

/-- A suspended record taken from its crew: its rows go to the save area (R109). -/
def State.takeRec (s : State) (core id : Nat) : State :=
  let x := s.core core
  match x.recs.look id with
  | none => s
  | some r =>
    let rows := s.tile.slice 4 (tileByte core r.base 0) (r.rows * 512)
    let s := s.setCore core { x with recs := x.recs.del id }
    match s.crews.look r.crew with
    | none => s
    | some c => s.setCrew r.crew { c with saved := { c.saved with recs := c.saved.recs.put (64 * c.parity core + r.num) r, tile := c.saved.tile.put (64 * c.parity core + r.num) rows } }

/-- Zeroes rows that carry another context's tag or none, and tags them (R249). -/
def State.claimRows (s : State) (core ctx : Nat) : Nat → Nat → State
  | _, 0 => s
  | row, n + 1 =>
    let x := s.core core
    let s := if x.rowTag.look row = some ctx then s else { s with tile := s.tile.erase 4 (tileByte core row 0) 512 }
    (s.setCore core { x with rowTag := x.rowTag.put row ctx }).claimRows core ctx (row + 1) n

/-- The place of a reservation (R249): its base and the records it takes; first without taking any. -/
def State.tresPlace (s : State) (core al rows : Nat) : Option (Nat × List Nat) :=
  let recs := (s.core core).recs
  let room := recs.length < 64
  let plain := if room then findBase (recs.map (·.2)) al rows else none
  match plain with
  | some b => some (b, [])
  | none =>
    let kept := recs.filter fun (_, r) => !s.takable core r
    let tk := recs.filter fun (_, r) => s.takable core r
    if 64 ≤ kept.length then none
    else match findBase (kept.map (·.2)) al rows with
      | none => none
      | some b =>
        let hit := (tk.filter fun (_, r) => !(b + rows ≤ r.base || r.base + r.rows ≤ b)).map (·.1)
        if room || hit ≠ [] then some (b, hit)
        else some (b, (tk.take 1).map (·.1))

/-- The reservation made (R249): the crew-local number, where it can be made. -/
def State.tryTres (s : State) (core k ctx : Nat) (b : List Byte) : Option (State × Nat) :=
  let rows := fld b 0 2
  match s.freeNumber k, s.tresPlace core (fld b 9 1) rows with
  | some n, some (base, taken) =>
    let s := taken.foldl (fun s id => s.takeRec core id) s
    let s := s.claimRows core ctx base rows
    let x := s.core core
    match (List.range 64).find? fun i => (x.recs.look i).isNone with
    | none => none
    | some i =>
      let r : TileRec :=
        { fmt := fld b 2 1 % 16, blk := fld b 3 1, sc := fld b 8 1, soff := fld b 4 2, xrow := fld b 6 2, align := fld b 9 1, base := base, rows := rows,
          crew := k, num := n }
      some (s.setCore core { x with recs := x.recs.put i r }, n)
  | _, _ => none

/-- One lane of TRES. -/
def tresLane (i : Instr) (wait : Bool) (s : State) (t : Nat) (a : Given) : LaneOut :=
  let p := a.v 0
  engineLane 4 16 16 (encode i).toNat none s t p fun s b _ offs =>
    refuseOr 4 p s (offs ++ tresOffences b)
      (match s.crewIdOf t with
        | none => .wait
        | some k =>
          let core := coreOf t
          match s.tryTres core k (s.ctxOf t) b with
          | some (s, n) => .done ((s.writeDest t a.dst n false).advance t) []
          | none =>
            if wait then
              let x := s.core core
              .done ((s.setCore core { x with tresQ := x.tresQ ++ [t] }).park t (.tres b a.dst)) []
            else .done ((s.writeDest t a.dst 0xffffffff false).advance t) [])

/-- A parked TRES tries again. -/
def State.retryTres (s : State) (t : Nat) : State :=
  match (s.thread t).run, s.crewIdOf t with
  | .parked (.tres b d), some k =>
    match s.tryTres (coreOf t) k (s.ctxOf t) b with
    | some (s, n) =>
      let x := s.core (coreOf t)
      ((s.setCore (coreOf t) { x with tresQ := x.tresQ.filter (· ≠ t) }).writeDest t d n false).unpark t
    | none => s
  | _, _ => s

/-- TRES_RETRY (R249): a core's parked TRES threads retry in the order in which they parked. -/
def execTresRetry (core : Nat) (s : State) : Host.Outcome State Fault Refusal :=
  .next ((s.core core).tresQ.foldl (fun s t => if (s.crewOf t).all (fun c => c.run = .running) then s.retryTres t else s) s)

/-- What the recombination unit holds of an operation after a reservation is freed: a chain of it does not go on in a later one of the same number (R87). -/
def Recomb.without (u : Recomb) (k num : Nat) : Recomb :=
  if u.key.getD 1 0 = k && u.key.getD 2 0 = num then { u with valid := false } else u

/-- Frees a crew's record (R250). -/
def State.freeRes (s : State) (core k num : Nat) : State :=
  let x := s.core core
  s.setCore core { x with recs := x.recs.filter (fun (_, r) => !(r.crew = k && r.num = num)), units := x.units.map fun y => (y.1, y.2.without k num) }

/-- One lane of TREL (R250): it parks while an accepted operation names the record. -/
def trelLane (s : State) (t : Nat) (a : Given) : LaneOut :=
  let n := a.v 0 % 2 ^ 32
  let core := coreOf t
  match s.crewIdOf t with
  | none => .wait
  | some k =>
    if (s.resOf core k n).isNone then
      match refusal 4 0 [(6, noField)] with
      | some c => .trap s c
      | none => .wait
    else if s.busy t then .wait
    else if s.resBusy core k n then .done (s.park t (.trel n)) []
    else .done ((s.freeRes core k n).advance t) []

/-- TREL_RELEASE (R250): a parked TREL frees its record once nothing names it. -/
def execTrelRelease (tid : Nat) (s : State) : Host.Outcome State Fault Refusal :=
  match (s.thread tid).run, s.crewIdOf tid with
  | .parked (.trel n), some k =>
    if s.resBusy (coreOf tid) k n || isSavedTid tid then .next s
    else .next ((s.freeRes (coreOf tid) k n).unpark tid)
  | _, _ => .next s

/-- Reserves tile-store rows, failing or parking when no room (R249). -/
def execTres (d : BitVec 6) (a : BitVec 7) (f : Bool) (s : State) : Host.Outcome State Fault Refusal :=
  runPacket (.tres d a f) false (tresLane (.tres d a f) f) s

/-- Frees a tile-store reservation after its operations complete (R250). -/
def execTrel (a : BitVec 7) (s : State) : Host.Outcome State Fault Refusal :=
  runPacket (.trel a) false trelLane s

end Sys2Proof.Machine
end

