-- ==== Sys2Proof/Machine/Carve.lean ====
section
/-! DEFINITION. The Carve rasteriser: EMIT, its streams and contributions, and a stream's close (R277 to R279, R329 to R336, R424). -/

namespace Sys2Proof.Machine

/-! ### Records (R277, R278) -/

/-- Bits of an emit record that must be 0, as pairs of a byte offset and a length (R277). -/
def emitZeros (kind : Nat) : List (Nat × Nat) :=
  match kind with
  | 0 => [(1, 3), (12, 4)]
  | 1 => [(1, 1), (12, 4)]
  | 2 => [(1, 3), (10, 2), (12, 4)]
  | 3 => [(1, 3), (8, 4), (12, 4)]
  | 4 => [(1, 3), (10, 2), (12, 4)]
  | _ => [(1, 3), (12, 4)]

/-- The offences of an emit record: its kind, its zero fields, the stream's state. -/
def emitOffences (b : List Byte) (streaming : Bool) : List Offence :=
  let k := fld b 0 1
  if 5 < k then [(3, 0)]
  else (emitZeros k).flatMap (fun z => mustZero b z.1 z.2) ++ offends ((k = 0) = streaming) 7 noField

/-- The offences of an output record, at offsets that follow the emit record (R278, R329). -/
def outOffences (d : List Byte) : List Offence :=
  let w := fld d 8 4
  let h := fld d 12 4
  let pitch := fld d 16 4
  let lim (c : Bool) (off : Nat) : List Offence := offends c 3 (16 + off)
  lim (fld d 0 8 % 4 ≠ 0) 0 ++ lim (w = 0 || 32768 < w) 8 ++ lim (h = 0 || 32768 < h) 12 ++ lim (pitch % 4 ≠ 0 || pitch < 4 * w) 16
    ++ lim (fld d 20 4 = 0 || 4096 < fld d 20 4) 20 ++ lim (fld d 24 4 = 0 || 2 ^ 24 < fld d 24 4) 24 ++ offends (fld d 48 16 ≠ 0) 2 (16 + 48)

/-- The G-die rasteriser of a core, by its six clusters (R16). -/
def rasterOf (core : Nat) : Nat := clusterOf core / 6

/-- Streams open at a rasteriser. -/
def State.streamsAt (s : State) (r : Nat) : Nat := (s.streams.filter fun (_, x) => rasterOf x.core = r).length

/-! ### Contributions (R329 to R334) -/

/-- A primitive as it is rasterised: what a line, a triangle or a curve adds to a pixel; none for nothing. -/
inductive Shape where
  | line (p q : Pt)
  | tri (a b c : Pt)
  | curve (ps : List Pt)
  | nothing
  deriving DecidableEq, Repr

/-- The reductions of R333. -/
def reduceSegment (ps : List Pt) : Shape :=
  match ps.head?, ps.getLast? with
  | some p, some q =>
    if collinear ps then (if p = q then .nothing else .line p q)
    else .curve ps
  | _, _ => .nothing

/-- The shape of a primitive of a kind from its points. -/
def shapeOf (kind : Nat) (ps : List Pt) : Shape :=
  let at' (i : Nat) : Pt := ps.getD i (0, 0)
  if kind = 2 then (if collinear ps then .nothing else .tri (at' 0) (at' 1) (at' 2))
  else reduceSegment ps

/-- What a shape adds to a pixel, where its Φ is not 0 (R331, R332). -/
def Shape.add (x : Shape) (px py : Int) : Option Int :=
  let exact (v : Int × Int) : Option Int := if v.1 = 0 then none else some (roundArea v.1 v.2)
  match x with
  | .line p q => exact (lineArea p q px py)
  | .tri a b c => exact (triArea a b c px py)
  | .curve ps => curveAdd ps px py
  | .nothing => none

def Shape.points : Shape → List Pt
  | .line p q => [p, q]
  | .tri a b c => [a, b, c]
  | .curve ps => ps
  | .nothing => []

/-- Pixels of a range that a shape's span of coordinates meets, inside the target: first and count. -/
def pixelSpan (cs : List Int) (n : Nat) (open' : Bool) : Nat × Nat :=
  match cs with
  | [] => (0, 0)
  | c :: r =>
    let lo := Int.fdiv (r.foldl min c) 256
    let hi := if open' then (n : Int) else Int.fdiv (r.foldl max c) 256 + 1
    let first := (max 0 (min lo n)).toNat
    (first, (max 0 (min hi n)).toNat - first)

/-- The pixels a shape may add to: columns of its x-span, and rows from its lowest y (R330). -/
def Shape.pixels (x : Shape) (w h : Nat) : List (Nat × Nat) :=
  let (x0, nx) := pixelSpan (x.points.map (·.1)) w false
  let (y0, ny) := pixelSpan (x.points.map (·.2)) h true
  (List.range ny).flatMap fun j => (List.range nx).map fun i => (x0 + i, y0 + j)

/-- One addition per pixel whose Φ is not 0 (R331). -/
def EngRun.rasterise (r : EngRun) (d : List Byte) (x : Shape) : EngRun :=
  (x.pixels (fld d 8 4) (fld d 12 4)).foldl (fun r (px, py) =>
    match x.add px py with
    | none => r
    | some v =>
      r.addAt (ptrAdd (fld d 0 8) (py * fld d 16 4 + 4 * px : Nat)) 4 (trunc v 32)) (r.after false)

/-- The records of a stream's refused additions (R424). -/
def State.noteRefused (s : State) (o : EngOp) (faults : List EngFault) : State :=
  faults.foldl (fun s f => s.refuseAdd (o.access (.load false) f.ptr f.size { pa := 0 }) f.err) s

/-! ### EMIT (R277, R279) -/

/-- The 16-bit indices a primitive names. -/
def emitIndices (kind : Nat) (b : List Byte) : List Nat :=
  let n := if kind = 3 then 2 else if kind = 5 then 4 else 3
  (List.range n).map fun i => fld b (4 + 2 * i) 2

/-- What a record after OPEN does to its stream: the stream, and the points of a primitive to rasterise. -/
def Stream.take (x : Stream) (b : List Byte) : Stream × List Pt :=
  let k := fld b 0 1
  if k = 1 then
    let i := fld b 2 2
    if fld x.recBytes 20 4 ≤ i then ({ x with dropv := x.dropv + 1 }, [])
    else ({ x with verts := x.verts.put i (signExtend (fld b 4 4) 32, signExtend (fld b 8 4) 32), nv := x.nv + 1 }, [])
  else
    let vs := (emitIndices k b).map x.verts.look
    if vs.any (·.isNone) || fld x.recBytes 24 4 ≤ x.np then ({ x with dropp := x.dropp + 1 }, [])
    else
      let ps := vs.filterMap id
      let beyond : Bool := match shapeOf k ps with
        | .curve qs => tooManyPieces qs
        | .line .. | .tri .. | .nothing => false
      if beyond then ({ x with dropp := x.dropp + 1, segs := x.segs + 1 }, [])
      else ({ x with np := x.np + 1 }, ps)

/-- Emit records of a thread that wait in prm, in their order. -/
def State.recordsOf (s : State) (t : Nat) : List EngOp := s.ops.filter fun o => o.kind = .emit && o.tid = t && o.step = 0

/-- Whether a thread's stream is open as its next record issues (R279). -/
def State.emitOpen (s : State) (t : Nat) : Bool :=
  match (s.recordsOf t).getLast? with
  | some o => !o.flag
  | none => (s.streams.look t).any (!·.closing)

/-- Emit records of a core that wait in prm (R243). -/
def State.prmCount (s : State) (core : Nat) : Nat := (s.ops.filter fun o => o.kind = .emit && o.core = core && o.step = 0).length

/-- One lane of EMIT: a record is pushed into prm; OPEN reads its output record. -/
def emitLane (i : Instr) (f : Bool) (s : State) (t : Nat) (a : Given) : LaneOut :=
  let b := leBytes 16 (a.v 0)
  let insn := (encode i).toNat
  let offs := emitOffences b (s.emitOpen t)
  let push (s : State) (p : Nat) (d : List Byte) : LaneOut :=
    .done (((s.pushEng { s.newEng t .emit 0 p insn b with flag := f, desc := d }).bumpSeq t).advance t) []
  if 64 ≤ s.prmCount (coreOf t) || s.busy t then .wait
  else if fld b 0 1 = 0 then
    let p := fld b 4 8
    if p % 64 ≠ 0 then refuseOr 7 0 s [(1, 4)] .wait
    else match s.readStruct t p 64 insn with
      | .out r => r
      | .ok s d psn wrong => refuseOr 7 0 s (offs ++ outOffences d ++ offends psn 5 noField ++ offends wrong 8 4) (push s p d)
  else refuseOr 7 0 s offs (push s 0 [])

/-! ### The rasteriser takes records (R16, R279) -/

/-- Whether a record is an OPEN that its thread's earlier records and stream let be taken. -/
def State.opensNext (s : State) (o : EngOp) : Bool :=
  o.kind = .emit && o.step = 0 && fld o.cmd 0 1 = 0 && ((s.recordsOf o.tid).head?.map (·.id)) = some o.id && (s.streams.look o.tid).isNone

/-- Local clusters of a rasteriser with an OPEN to take. -/
def State.opening (s : State) (r : Nat) : List Nat :=
  (s.ops.filter fun o => rasterOf o.core = r && s.opensNext o).map fun o => clusterOf o.core % 6

/-- Whether the rasteriser takes a record, the first of its thread: an OPEN where it holds fewer than 64 streams and in its cluster's turn (R16), another in the thread's stream, after the operations that its thread issued before it (R144). -/
def State.takesRecord (s : State) (o : EngOp) : Bool :=
  let r := rasterOf o.core
  !s.pend.any (fun p => p.tid = o.tid && p.id < o.id)
    && (if fld o.cmd 0 1 = 0 then s.opensNext o && s.streamsAt r < 64 && inTurn (s.rasters.lookD r 0) 6 (s.opening r) = some (clusterOf o.core % 6)
        else (s.streams.look o.tid).isSome)

/-- A record taken from prm: its stream begins, or follows it; a primitive's contributions are still to be performed. -/
def State.takeRecord (s : State) (o : EngOp) : State :=
  match s.streams.look o.tid with
  | none =>
    let r := rasterOf o.core
    let y : Stream := { tid := o.tid, crew := o.crew, core := o.core, ctx := o.ctx, recPtr := o.ptr, recBytes := o.desc, closing := o.flag, pc := o.pc, insn := o.insn }
    ({ s with streams := s.streams.put o.tid y, rasters := s.rasters.put r ((clusterOf o.core % 6 + 1) % 6) }).dropEng o.id
  | some y =>
    let (y, ps) := y.take o.cmd
    let s := { s with streams := s.streams.put o.tid { y with closing := y.closing || o.flag } }
    if ps = [] then s.dropEng o.id else s.setEng { o with step := 1, pts := ps }

/-- The contributions of a primitive. -/
def EngRun.contribute (r : EngRun) (y : Stream) : EngRun := r.rasterise y.recBytes (shapeOf (fld r.o.cmd 0 1) r.o.pts)

/-- All of a primitive's contributions that are left are performed. -/
def State.finishRecord (s : State) (o : EngOp) (y : Stream) : State :=
  let r := (s.engRun o).contribute y
  match r.stop with
  | some w => s.engWait o w
  | none =>
    ({ r.s with streams := r.s.streams.put o.tid y }.noteRefused o r.faults).dropEng o.id

/-! ### Close (R279) -/

/-- Whether additions of a stream are still to be performed. -/
def State.streamBusy (s : State) (t : Nat) : Bool :=
  s.pend.any (fun o => o.tid = t && decide (2 ^ 62 ≤ o.id)) || s.remotes.any fun r => r.op.tid = t && decide (2 ^ 62 ≤ r.op.id)

/-- The counts of a stream, in the order of bytes 47:28. -/
def Stream.counts (x : Stream) : List Nat := [x.nv, x.np, x.dropv, x.dropp, 1]

/-- One device-scope atomic on bytes 47:28 of the output record: five additions of 4 bytes; sent to its device where the record lies in a remote region (R342). -/
def EngRun.addCounts (r : EngRun) (p : Nat) (cs : List Nat) : EngRun :=
  match r.place (ptrAdd p 28) 20 .rmw with
  | (r, none) => r
  | (r, some tr) =>
    if inRegs tr.pa && tr.remote.isNone then r
    else if tr.cls = 1 && tr.remote.isNone then
      r.fail (r.s.appendRefusal { space := 0, ptr := ptrAdd p 28, pa := tr.pa, place := 0, cls := 1, leaf := tr.leaf, psize := tr.psize }) (ptrAdd p 28) 20 true 0
    else
      let o := { r.o.access (.atomic 0 false false false 3) (ptrAdd p 28) 20 tr with data := cs.flatMap (leBytes 4) }
      if tr.remote.isSome then
        if (r.s.ownSentBack o 20).2 then { r with s := r.s.sendRem o true false } else r.halt (.sendBack o 20)
      else
      let (bs, s) := (r.s.writeBackOwn o).homeFetch o 20
      { r with s := (s.homeWrite o.pa (countsAdded bs cs)).dropOwn o }

/-- The record of a stream's discards (R424). -/
def State.noteDiscards (s : State) (o : EngOp) (x : Stream) : State :=
  if x.dropv = 0 && x.dropp = 0 then s
  else
    s.opRec (o.access (.load false) 0 4 { pa := 0 }) (causeWord false false false 0 7 3)
      (x.dropv % 2 ^ 32 + (x.dropp - x.segs) % 2 ^ 32 * 2 ^ 32) x.segs

/-- A stream leaves its rasteriser. -/
def State.dropStream (s : State) (t : Nat) : State := { s with streams := s.streams.del t }

/-- The thread of the other copy of a checked crew. -/
def State.twinThread (s : State) (t : Nat) : Option Nat :=
  match (s.crewOf t).bind (·.twin) with
  | none => none
  | some j => (s.streams.find? fun (u, x) => x.crew = j && s.crewLane u = s.crewLane t).map (·.1)

/-- Performs a stream's close: the release, the counts, the record. -/
def State.closeStream (s : State) (t : Nat) (x : Stream) : State :=
  match s.tryRelease 3 x.core x.ctx with
  | (s, false) => s
  | (s, true) =>
    let o : EngOp :=
      { id := s.uid, kind := .emit, tid := t, crew := x.crew, core := x.core, ctx := x.ctx, queue := 0, tag := 0, flag := false, ptr := 0, cmd := [],
        pc := x.pc, insn := x.insn, seq := 0 }
    let r := ({ s := { s with uid := s.uid + 1 }, o := o } : EngRun).addCounts x.recPtr x.counts
    match r.stop with
    | some w => s.engWait o w
    | none => (r.logFaults.noteDiscards o x).dropStream t

/-- A record about a stream at its close. -/
def Stream.op (x : Stream) (s : State) (t : Nat) : PendOp := { (s.newEng t .emit 0 0 x.insn []).access (.load false) 0 4 { pa := 0 } with pc := x.pc }

/-- Whether all of a stream has been taken and performed. -/
def State.streamDone (s : State) (t : Nat) (x : Stream) : Bool :=
  x.closing && !s.streamBusy t && !s.ops.any fun o => o.kind = .emit && o.tid = t && o.step = 1

/-- Operations of a checked crew and its other copy that have no partner yet: those in the comparator, and closes of streams (R428). -/
def State.unmatchedOps (s : State) (k : Nat) : Nat :=
  let mine (j : Nat) : Bool := j = k || some j = (s.crews.look k).bind (·.twin)
  (s.duals.filter fun x => !x.shadow && mine x.crew).length
    + (s.streams.filter fun (u, x) => mine x.crew && s.streamDone u x && (s.twinThread u).all fun w => (s.streams.look w).all fun y => !s.streamDone w y).length

/-- An operation of a checked crew has no partner (R429): both copies are aborted. -/
def State.abortUnmatched (s : State) (k : Nat) (o : PendOp) : State :=
  (s.opRec o (causeWord true false false 2 8 2) (s.unmatchedOps k) 0).abortPair k

/-- DUAL_UNMATCHED_TIMEOUT (R429): 1 ms of ETIME without a partner operation, or the partner copy has ended. -/
def execDualUnmatchedTimeout (op : Nat) (s : State) : Host.Outcome State Fault Refusal :=
  match s.duals.find? (·.id = op) with
  | none => .next s
  | some d =>
    let gone := match (s.crews.look d.crew).bind (·.twin) with
      | some j => (s.crewThreads j).isEmpty && !(s.duals.any fun x => x.crew = j) && !(s.pend.any fun o => s.crewIdOf o.tid = some j)
      | none => true
    if d.shadow || !(gone || 10 ^ 9 ≤ elapsed (s.etimeOf d.op.tid) d.since) then .next s
    else .next (s.abortUnmatched d.crew d.op)

/-- A stream's close waits for its other copy's, from the first time that the rasteriser finds it alone, for 1 ms (R429). -/
def State.awaitClose (s : State) (t : Nat) (x : Stream) : State :=
  let now := (s.core x.core).etime.toNat
  match x.alone with
  | none => { s with streams := s.streams.put t { x with alone := some now } }
  | some since => if 10 ^ 9 ≤ elapsed now since then s.abortUnmatched x.crew (x.op s t) else s

/-- The close of a stream of a checked crew: its copies compare their counts and close once (R298, R429). -/
def State.closeChecked (s : State) (t : Nat) (x : Stream) : State :=
  match s.twinThread t with
  | none =>
    let gone : Bool := match (s.crews.look x.crew).bind (·.twin) with
      | none => true
      | some j => !(s.crewThreads j).any (fun u => s.crewLane u = s.crewLane t) && !s.ops.any fun o => o.kind = .emit && o.crew = j && s.crewLane o.tid = s.crewLane t
    if gone = true then s.abortUnmatched x.crew (x.op s t) else s.awaitClose t x
  | some u =>
    match s.streams.look u with
    | none => s
    | some y =>
      if !s.streamDone u y then s.awaitClose t x
      else
        let (t, x, u, y) := if (s.crews.look x.crew).any (·.copy = 0) then (t, x, u, y) else (u, y, t, x)
        if x.counts = y.counts && x.recPtr = y.recPtr then
          let s' := s.closeStream t x
          if (s'.streams.look t).isNone then s'.dropStream u else s'
        else
          let bytes (z : Stream) : List Byte := z.counts.flatMap (leBytes 4)
          let s := s.opRec (x.op s t) (causeWord true false false 2 8 1) (differing (bytes x) (bytes y) 2) (differing (bytes y) (bytes x) 2)
          (s.abortPair x.crew).noteMismatch x.core y.core

/-- STREAM_CLOSE (R279): the Carve rasteriser goes on with a thread's stream. It takes the next record, or performs what a record taken has left, or closes the stream whose contributions are performed. A SAMPLED shadow's counts are not performed (R299). -/
def execStreamClose (tid : Nat) (s : State) : Host.Outcome State Fault Refusal :=
  match (s.recordsOf tid).head?.filter s.takesRecord with
  | some o => .next (s.takeRecord o)
  | none =>
    match s.streams.look tid with
    | none => .next s
    | some x =>
      match s.ops.find? fun o => o.kind = .emit && o.tid = tid && o.step = 1 with
      | some o => .next (s.finishRecord o x)
      | none =>
        if !s.streamDone tid x then .next s
        else if s.shadowOf tid then .next (s.dropStream tid)
        else if s.dualOf tid then .next (s.closeChecked tid x)
        else .next (s.closeStream tid x)

/-- Takes an emit record into the thread's tid; F = 1 closes the tid after it (R277, R279). -/
def execEmit (a : BitVec 7) (f : Bool) (s : State) : Host.Outcome State Fault Refusal :=
  runPacket (.emit a f) false (emitLane (.emit a f) f) s

end Sys2Proof.Machine
end

