-- ==== Sys2Proof/Machine/Int.lean ====
section
/-! DEFINITION. Integer, comparison, immediate and address instructions (R178 to R185). -/

namespace Sys2Proof.Machine

/-! ### Shapes: two or three sources of one width -/

def w32 (a : Given) (i : Nat) : Word := BitVec.ofNat 32 (a.v i)
def w64 (a : Given) (i : Nat) : Dword := BitVec.ofNat 64 (a.v i)

def int32 (i : Instr) (u : Bool) (f : Word → Word → Word) (s : State) : Host.Outcome State Fault Refusal :=
  compute i u (fun a => ((f (w32 a 0) (w32 a 1)).toNat, {})) s
def int32d (i : Instr) (u : Bool) (f : Word → Word → Word → Word) (s : State) : Host.Outcome State Fault Refusal :=
  compute i u (fun a => ((f (w32 a 0) (w32 a 1) (w32 a 2)).toNat, {})) s
def int32u (i : Instr) (u : Bool) (f : Word → Word) (s : State) : Host.Outcome State Fault Refusal :=
  compute i u (fun a => ((f (w32 a 0)).toNat, {})) s
def int64 (i : Instr) (u : Bool) (f : Dword → Dword → Dword) (s : State) : Host.Outcome State Fault Refusal :=
  compute i u (fun a => ((f (w64 a 0) (w64 a 1)).toNat, {})) s
def int64u (i : Instr) (u : Bool) (f : Dword → Dword) (s : State) : Host.Outcome State Fault Refusal :=
  compute i u (fun a => ((f (w64 a 0)).toNat, {})) s
/-- 64-bit shifts: the count is a 32-bit position (R178). -/
def shift64 (i : Instr) (u : Bool) (f : Dword → Nat → Dword) (s : State) : Host.Outcome State Fault Refusal :=
  compute i u (fun a => ((f (w64 a 0) (w32 a 1).toNat).toNat, {})) s
/-- Comparisons write 1 or 0 (R180). -/
def set32 (i : Instr) (u : Bool) (f : Word → Word → Bool) (s : State) : Host.Outcome State Fault Refusal :=
  compute i u (fun a => ((f (w32 a 0) (w32 a 1)).toNat, {})) s
def set64 (i : Instr) (u : Bool) (f : Dword → Dword → Bool) (s : State) : Host.Outcome State Fault Refusal :=
  compute i u (fun a => ((f (w64 a 0) (w64 a 1)).toNat, {})) s

/-! ### Functions (R178 to R184) -/

def minS {n : Nat} (a b : BitVec n) : BitVec n := if BitVec.sle a b then a else b
def minU {n : Nat} (a b : BitVec n) : BitVec n := if BitVec.ule a b then a else b
def maxS {n : Nat} (a b : BitVec n) : BitVec n := if BitVec.sle a b then b else a
def maxU {n : Nat} (a b : BitVec n) : BitVec n := if BitVec.ule a b then b else a
def absW {n : Nat} (a : BitVec n) : BitVec n := if a.msb then -a else a
/-- Shift counts at or beyond the width give 0, or copies of the sign from SAR (R178). -/
def shlW {n : Nat} (a : BitVec n) (k : Nat) : BitVec n := a <<< min k n
def shrW {n : Nat} (a : BitVec n) (k : Nat) : BitVec n := a >>> min k n
def sarW {n : Nat} (a : BitVec n) (k : Nat) : BitVec n := a.sshiftRight (min k n)

/-- The 64-bit value a × 2^32 + d of the funnel shifts (R179). -/
def funnel (a d : Word) : Dword := a.zeroExtend 64 <<< 32 ||| d.zeroExtend 64
def fshlW (a b d : Word) : Word := ((funnel a d <<< min b.toNat 32) >>> 32).truncate 32
def fshrW (a b d : Word) : Word := (funnel a d >>> min b.toNat 32).truncate 32
def popcount (a : Word) : Nat := ((List.range 32).filter fun i => a.getLsbD i).length
def leadingZeros (a : Word) : Nat := ((List.range 32).takeWhile fun i => !a.getMsbD i).length
def trailingZeros (a : Word) : Nat := ((List.range 32).takeWhile fun i => !a.getLsbD i).length
/-- PermuteBytes of R179. -/
def permuteByte (a b : Word) (i : Nat) : Byte :=
  let sel := bits b.toNat (4 * i + 3) (4 * i)
  let j := sel % 4
  if bit sel 2 then 0
  else if bit sel 3 then (if a.getLsbD (8 * j + 7) then 0xff else 0)
  else BitVec.ofNat 8 (bits a.toNat (8 * j + 7) (8 * j))
def permuteBytes (a b : Word) : Word := BitVec.ofNat 32 (leNat ((List.range 4).map (permuteByte a b)))
def mulhS (a b : Word) : Word := BitVec.ofInt 32 (a.toInt * b.toInt / 2 ^ 32)
def mulhU (a b : Word) : Word := BitVec.ofNat 32 (a.toNat * b.toNat / 2 ^ 32)
/-- BFX and BFI of R182, over a bit position and a width of 1 to 32. -/
def bfxW (signed : Bool) (pos width : Nat) (a : Word) : Word :=
  let x : Int := if signed then a.toInt else a.toNat
  let f : Nat := (x / 2 ^ pos % 2 ^ width).toNat
  BitVec.ofInt 32 (if signed then signExtend f width else f)
def bfiW (pos width : Nat) (a d : Word) : Word :=
  let mask : Nat := (2 ^ width - 1) * 2 ^ pos
  (d &&& ~~~(BitVec.ofNat 32 mask)) ||| (BitVec.ofNat 32 (a.toNat * 2 ^ pos) &&& BitVec.ofNat 32 mask)
/-- LEA and LEAI (R184): the region is kept. -/
def leaW (a : Dword) (off : Int) : Dword := BitVec.ofNat 64 (ptrAdd a.toNat off)

/-! ### INT and INT64 (R178) -/

/-- Adds two 32-bit values modulo 2^32 (R178). -/
def execAdd (u : Bool) (d : BitVec 7) (a : BitVec 7) (b : BitVec 7) (s : State) : Host.Outcome State Fault Refusal :=
  int32 (.add u d a b) u (· + ·) s

/-- Subtracts two 32-bit values modulo 2^32 (R178). -/
def execSub (u : Bool) (d : BitVec 7) (a : BitVec 7) (b : BitVec 7) (s : State) : Host.Outcome State Fault Refusal :=
  int32 (.sub u d a b) u (· - ·) s

/-- Signed 32-bit minimum (R178). -/
def execMinI32 (u : Bool) (d : BitVec 7) (a : BitVec 7) (b : BitVec 7) (s : State) : Host.Outcome State Fault Refusal :=
  int32 (.minI32 u d a b) u minS s

/-- Unsigned 32-bit minimum (R178). -/
def execMinN32 (u : Bool) (d : BitVec 7) (a : BitVec 7) (b : BitVec 7) (s : State) : Host.Outcome State Fault Refusal :=
  int32 (.minN32 u d a b) u minU s

/-- Signed 32-bit maximum (R178). -/
def execMaxI32 (u : Bool) (d : BitVec 7) (a : BitVec 7) (b : BitVec 7) (s : State) : Host.Outcome State Fault Refusal :=
  int32 (.maxI32 u d a b) u maxS s

/-- Unsigned 32-bit maximum (R178). -/
def execMaxN32 (u : Bool) (d : BitVec 7) (a : BitVec 7) (b : BitVec 7) (s : State) : Host.Outcome State Fault Refusal :=
  int32 (.maxN32 u d a b) u maxU s

/-- 32-bit bitwise AND (R178). -/
def execAnd (u : Bool) (d : BitVec 7) (a : BitVec 7) (b : BitVec 7) (s : State) : Host.Outcome State Fault Refusal :=
  int32 (.and u d a b) u (· &&& ·) s

/-- 32-bit bitwise OR (R178). -/
def execOr (u : Bool) (d : BitVec 7) (a : BitVec 7) (b : BitVec 7) (s : State) : Host.Outcome State Fault Refusal :=
  int32 (.or u d a b) u (· ||| ·) s

/-- 32-bit bitwise XOR (R178). -/
def execXor (u : Bool) (d : BitVec 7) (a : BitVec 7) (b : BitVec 7) (s : State) : Host.Outcome State Fault Refusal :=
  int32 (.xor u d a b) u (· ^^^ ·) s

/-- 32-bit a AND NOT b (R178). -/
def execAndn (u : Bool) (d : BitVec 7) (a : BitVec 7) (b : BitVec 7) (s : State) : Host.Outcome State Fault Refusal :=
  int32 (.andn u d a b) u (fun a b => a &&& ~~~b) s

/-- 32-bit absolute value, the most negative value unchanged (R178). -/
def execAbs (u : Bool) (d : BitVec 7) (a : BitVec 7) (s : State) : Host.Outcome State Fault Refusal :=
  int32u (.abs u d a) u absW s

/-- 32-bit negation modulo 2^32 (R178). -/
def execNeg (u : Bool) (d : BitVec 7) (a : BitVec 7) (s : State) : Host.Outcome State Fault Refusal :=
  int32u (.neg u d a) u (- ·) s

/-- 32-bit shift left by a register count (R178). -/
def execShl (u : Bool) (d : BitVec 7) (a : BitVec 7) (b : BitVec 7) (s : State) : Host.Outcome State Fault Refusal :=
  int32 (.shl u d a b) u (fun a b => shlW a b.toNat) s

/-- 32-bit logical shift right (R178). -/
def execShr (u : Bool) (d : BitVec 7) (a : BitVec 7) (b : BitVec 7) (s : State) : Host.Outcome State Fault Refusal :=
  int32 (.shr u d a b) u (fun a b => shrW a b.toNat) s

/-- 32-bit arithmetic shift right (R178). -/
def execSar (u : Bool) (d : BitVec 7) (a : BitVec 7) (b : BitVec 7) (s : State) : Host.Outcome State Fault Refusal :=
  int32 (.sar u d a b) u (fun a b => sarW a b.toNat) s

/-- Adds two 64-bit pairs modulo 2^64 (R178). -/
def execAddI64 (u : Bool) (d : BitVec 7) (a : BitVec 7) (b : BitVec 7) (s : State) : Host.Outcome State Fault Refusal :=
  int64 (.addI64 u d a b) u (· + ·) s

/-- Subtracts two 64-bit pairs (R178). -/
def execSubI64 (u : Bool) (d : BitVec 7) (a : BitVec 7) (b : BitVec 7) (s : State) : Host.Outcome State Fault Refusal :=
  int64 (.subI64 u d a b) u (· - ·) s

/-- Signed 64-bit minimum (R178). -/
def execMinI64 (u : Bool) (d : BitVec 7) (a : BitVec 7) (b : BitVec 7) (s : State) : Host.Outcome State Fault Refusal :=
  int64 (.minI64 u d a b) u minS s

/-- Unsigned 64-bit minimum (R178). -/
def execMinN64 (u : Bool) (d : BitVec 7) (a : BitVec 7) (b : BitVec 7) (s : State) : Host.Outcome State Fault Refusal :=
  int64 (.minN64 u d a b) u minU s

/-- Signed 64-bit maximum (R178). -/
def execMaxI64 (u : Bool) (d : BitVec 7) (a : BitVec 7) (b : BitVec 7) (s : State) : Host.Outcome State Fault Refusal :=
  int64 (.maxI64 u d a b) u maxS s

/-- Unsigned 64-bit maximum (R178). -/
def execMaxN64 (u : Bool) (d : BitVec 7) (a : BitVec 7) (b : BitVec 7) (s : State) : Host.Outcome State Fault Refusal :=
  int64 (.maxN64 u d a b) u maxU s

/-- 64-bit bitwise AND (R178). -/
def execAndI64 (u : Bool) (d : BitVec 7) (a : BitVec 7) (b : BitVec 7) (s : State) : Host.Outcome State Fault Refusal :=
  int64 (.andI64 u d a b) u (· &&& ·) s

/-- 64-bit bitwise OR (R178). -/
def execOrI64 (u : Bool) (d : BitVec 7) (a : BitVec 7) (b : BitVec 7) (s : State) : Host.Outcome State Fault Refusal :=
  int64 (.orI64 u d a b) u (· ||| ·) s

/-- 64-bit bitwise XOR (R178). -/
def execXorI64 (u : Bool) (d : BitVec 7) (a : BitVec 7) (b : BitVec 7) (s : State) : Host.Outcome State Fault Refusal :=
  int64 (.xorI64 u d a b) u (· ^^^ ·) s

/-- 64-bit a AND NOT b (R178). -/
def execAndnI64 (u : Bool) (d : BitVec 7) (a : BitVec 7) (b : BitVec 7) (s : State) : Host.Outcome State Fault Refusal :=
  int64 (.andnI64 u d a b) u (fun a b => a &&& ~~~b) s

/-- 64-bit multiply modulo 2^64 (R178). -/
def execMulI64 (u : Bool) (d : BitVec 7) (a : BitVec 7) (b : BitVec 7) (s : State) : Host.Outcome State Fault Refusal :=
  int64 (.mulI64 u d a b) u (· * ·) s

/-- 64-bit absolute value (R178). -/
def execAbsI64 (u : Bool) (d : BitVec 7) (a : BitVec 7) (s : State) : Host.Outcome State Fault Refusal :=
  int64u (.absI64 u d a) u absW s

/-- 64-bit negation (R178). -/
def execNegI64 (u : Bool) (d : BitVec 7) (a : BitVec 7) (s : State) : Host.Outcome State Fault Refusal :=
  int64u (.negI64 u d a) u (- ·) s

/-- 64-bit shift left by a 32-bit count (R178). -/
def execShlI64 (u : Bool) (d : BitVec 7) (a : BitVec 7) (b : BitVec 7) (s : State) : Host.Outcome State Fault Refusal :=
  shift64 (.shlI64 u d a b) u shlW s

/-- 64-bit logical shift right (R178). -/
def execShrI64 (u : Bool) (d : BitVec 7) (a : BitVec 7) (b : BitVec 7) (s : State) : Host.Outcome State Fault Refusal :=
  shift64 (.shrI64 u d a b) u shrW s

/-- 64-bit arithmetic shift right (R178). -/
def execSarI64 (u : Bool) (d : BitVec 7) (a : BitVec 7) (b : BitVec 7) (s : State) : Host.Outcome State Fault Refusal :=
  shift64 (.sarI64 u d a b) u sarW s

/-! ### INTX (R179) -/

/-- Funnel shift left of a:d_old (R179). -/
def execFshl (u : Bool) (d : BitVec 7) (a : BitVec 7) (b : BitVec 7) (s : State) : Host.Outcome State Fault Refusal :=
  int32d (.fshl u d a b) u fshlW s

/-- Funnel shift right of a:d_old (R179). -/
def execFshr (u : Bool) (d : BitVec 7) (a : BitVec 7) (b : BitVec 7) (s : State) : Host.Outcome State Fault Refusal :=
  int32d (.fshr u d a b) u fshrW s

/-- Counts 1 bits (R179). -/
def execPopc (u : Bool) (d : BitVec 7) (a : BitVec 7) (s : State) : Host.Outcome State Fault Refusal :=
  int32u (.popc u d a) u (fun a => BitVec.ofNat 32 (popcount a)) s

/-- Counts leading zero bits (R179). -/
def execClz (u : Bool) (d : BitVec 7) (a : BitVec 7) (s : State) : Host.Outcome State Fault Refusal :=
  int32u (.clz u d a) u (fun a => BitVec.ofNat 32 (leadingZeros a)) s

/-- Counts trailing zero bits (R179). -/
def execCtz (u : Bool) (d : BitVec 7) (a : BitVec 7) (s : State) : Host.Outcome State Fault Refusal :=
  int32u (.ctz u d a) u (fun a => BitVec.ofNat 32 (trailingZeros a)) s

/-- Reverses the 32 bits (R179). -/
def execBrev (u : Bool) (d : BitVec 7) (a : BitVec 7) (s : State) : Host.Outcome State Fault Refusal :=
  int32u (.brev u d a) u BitVec.reverse s

/-- Permutes bytes of a by selectors in b (R179). -/
def execPrmb (u : Bool) (d : BitVec 7) (a : BitVec 7) (b : BitVec 7) (s : State) : Host.Outcome State Fault Refusal :=
  int32 (.prmb u d a b) u permuteBytes s

/-- 32-bit multiply, low half (R179). -/
def execMul (u : Bool) (d : BitVec 7) (a : BitVec 7) (b : BitVec 7) (s : State) : Host.Outcome State Fault Refusal :=
  int32 (.mul u d a b) u (· * ·) s

/-- Signed 32-bit multiply, high half (R179). -/
def execMulhI32 (u : Bool) (d : BitVec 7) (a : BitVec 7) (b : BitVec 7) (s : State) : Host.Outcome State Fault Refusal :=
  int32 (.mulhI32 u d a b) u mulhS s

/-- Unsigned 32-bit multiply, high half (R179). -/
def execMulhN32 (u : Bool) (d : BitVec 7) (a : BitVec 7) (b : BitVec 7) (s : State) : Host.Outcome State Fault Refusal :=
  int32 (.mulhN32 u d a b) u mulhU s

/-- 32-bit multiply-add into d_old (R179). -/
def execMad (u : Bool) (d : BitVec 7) (a : BitVec 7) (b : BitVec 7) (s : State) : Host.Outcome State Fault Refusal :=
  int32d (.mad u d a b) u (fun a b d => a * b + d) s

/-- Selects a or b by d_old being nonzero (R179). -/
def execSel (u : Bool) (d : BitVec 7) (a : BitVec 7) (b : BitVec 7) (s : State) : Host.Outcome State Fault Refusal :=
  int32d (.sel u d a b) u (fun a b d => if d ≠ 0 then a else b) s

/-! ### SET and SET64 (R180) -/

/-- Sets 1 when two 32-bit values are equal (R180). -/
def execSeteq (u : Bool) (d : BitVec 7) (a : BitVec 7) (b : BitVec 7) (s : State) : Host.Outcome State Fault Refusal :=
  set32 (.seteq u d a b) u (fun a b => a = b) s

/-- Sets 1 when two 32-bit values differ (R180). -/
def execSetne (u : Bool) (d : BitVec 7) (a : BitVec 7) (b : BitVec 7) (s : State) : Host.Outcome State Fault Refusal :=
  set32 (.setne u d a b) u (fun a b => a ≠ b) s

/-- Signed 32-bit less-than (R180). -/
def execSetltI (u : Bool) (d : BitVec 7) (a : BitVec 7) (b : BitVec 7) (s : State) : Host.Outcome State Fault Refusal :=
  set32 (.setltI u d a b) u (fun a b => BitVec.slt a b) s

/-- Signed 32-bit less-or-equal (R180). -/
def execSetleI (u : Bool) (d : BitVec 7) (a : BitVec 7) (b : BitVec 7) (s : State) : Host.Outcome State Fault Refusal :=
  set32 (.setleI u d a b) u (fun a b => BitVec.sle a b) s

/-- Signed 32-bit greater-than (R180). -/
def execSetgtI (u : Bool) (d : BitVec 7) (a : BitVec 7) (b : BitVec 7) (s : State) : Host.Outcome State Fault Refusal :=
  set32 (.setgtI u d a b) u (fun a b => BitVec.slt b a) s

/-- Signed 32-bit greater-or-equal (R180). -/
def execSetgeI (u : Bool) (d : BitVec 7) (a : BitVec 7) (b : BitVec 7) (s : State) : Host.Outcome State Fault Refusal :=
  set32 (.setgeI u d a b) u (fun a b => BitVec.sle b a) s

/-- Unsigned 32-bit less-than (R180). -/
def execSetltN (u : Bool) (d : BitVec 7) (a : BitVec 7) (b : BitVec 7) (s : State) : Host.Outcome State Fault Refusal :=
  set32 (.setltN u d a b) u (fun a b => BitVec.ult a b) s

/-- Unsigned 32-bit less-or-equal (R180). -/
def execSetleN (u : Bool) (d : BitVec 7) (a : BitVec 7) (b : BitVec 7) (s : State) : Host.Outcome State Fault Refusal :=
  set32 (.setleN u d a b) u (fun a b => BitVec.ule a b) s

/-- Unsigned 32-bit greater-than (R180). -/
def execSetgtN (u : Bool) (d : BitVec 7) (a : BitVec 7) (b : BitVec 7) (s : State) : Host.Outcome State Fault Refusal :=
  set32 (.setgtN u d a b) u (fun a b => BitVec.ult b a) s

/-- Unsigned 32-bit greater-or-equal (R180). -/
def execSetgeN (u : Bool) (d : BitVec 7) (a : BitVec 7) (b : BitVec 7) (s : State) : Host.Outcome State Fault Refusal :=
  set32 (.setgeN u d a b) u (fun a b => BitVec.ule b a) s

/-- Sets 1 when two 64-bit values are equal (R180). -/
def execSeteq64 (u : Bool) (d : BitVec 7) (a : BitVec 7) (b : BitVec 7) (s : State) : Host.Outcome State Fault Refusal :=
  set64 (.seteq64 u d a b) u (fun a b => a = b) s

/-- Sets 1 when two 64-bit values differ (R180). -/
def execSetne64 (u : Bool) (d : BitVec 7) (a : BitVec 7) (b : BitVec 7) (s : State) : Host.Outcome State Fault Refusal :=
  set64 (.setne64 u d a b) u (fun a b => a ≠ b) s

/-- Signed 64-bit less-than (R180). -/
def execSetltI64 (u : Bool) (d : BitVec 7) (a : BitVec 7) (b : BitVec 7) (s : State) : Host.Outcome State Fault Refusal :=
  set64 (.setltI64 u d a b) u (fun a b => BitVec.slt a b) s

/-- Signed 64-bit less-or-equal (R180). -/
def execSetleI64 (u : Bool) (d : BitVec 7) (a : BitVec 7) (b : BitVec 7) (s : State) : Host.Outcome State Fault Refusal :=
  set64 (.setleI64 u d a b) u (fun a b => BitVec.sle a b) s

/-- Signed 64-bit greater-than (R180). -/
def execSetgtI64 (u : Bool) (d : BitVec 7) (a : BitVec 7) (b : BitVec 7) (s : State) : Host.Outcome State Fault Refusal :=
  set64 (.setgtI64 u d a b) u (fun a b => BitVec.slt b a) s

/-- Signed 64-bit greater-or-equal (R180). -/
def execSetgeI64 (u : Bool) (d : BitVec 7) (a : BitVec 7) (b : BitVec 7) (s : State) : Host.Outcome State Fault Refusal :=
  set64 (.setgeI64 u d a b) u (fun a b => BitVec.sle b a) s

/-- Unsigned 64-bit less-than (R180). -/
def execSetltN64 (u : Bool) (d : BitVec 7) (a : BitVec 7) (b : BitVec 7) (s : State) : Host.Outcome State Fault Refusal :=
  set64 (.setltN64 u d a b) u (fun a b => BitVec.ult a b) s

/-- Unsigned 64-bit less-or-equal (R180). -/
def execSetleN64 (u : Bool) (d : BitVec 7) (a : BitVec 7) (b : BitVec 7) (s : State) : Host.Outcome State Fault Refusal :=
  set64 (.setleN64 u d a b) u (fun a b => BitVec.ule a b) s

/-- Unsigned 64-bit greater-than (R180). -/
def execSetgtN64 (u : Bool) (d : BitVec 7) (a : BitVec 7) (b : BitVec 7) (s : State) : Host.Outcome State Fault Refusal :=
  set64 (.setgtN64 u d a b) u (fun a b => BitVec.ult b a) s

/-- Unsigned 64-bit greater-or-equal (R180). -/
def execSetgeN64 (u : Bool) (d : BitVec 7) (a : BitVec 7) (b : BitVec 7) (s : State) : Host.Outcome State Fault Refusal :=
  set64 (.setgeN64 u d a b) u (fun a b => BitVec.ule b a) s

/-! ### Immediates (R181 to R183) -/

/-- Adds a signed 11-bit immediate (R181). -/
def execAddi (u : Bool) (d : BitVec 7) (a : BitVec 7) (i : BitVec 11) (s : State) : Host.Outcome State Fault Refusal :=
  int32u (.addi u d a i) u (fun x => x + i.signExtend 32) s

/-- ANDs an unsigned 11-bit immediate (R181). -/
def execAndi (u : Bool) (d : BitVec 7) (a : BitVec 7) (i : BitVec 11) (s : State) : Host.Outcome State Fault Refusal :=
  int32u (.andi u d a i) u (fun x => x &&& i.zeroExtend 32) s

/-- ORs an unsigned 11-bit immediate (R181). -/
def execOri (u : Bool) (d : BitVec 7) (a : BitVec 7) (i : BitVec 11) (s : State) : Host.Outcome State Fault Refusal :=
  int32u (.ori u d a i) u (fun x => x ||| i.zeroExtend 32) s

/-- XORs an unsigned 11-bit immediate (R181). -/
def execXori (u : Bool) (d : BitVec 7) (a : BitVec 7) (i : BitVec 11) (s : State) : Host.Outcome State Fault Refusal :=
  int32u (.xori u d a i) u (fun x => x ^^^ i.zeroExtend 32) s

/-- Shift left by an immediate count (R181). -/
def execShli (u : Bool) (d : BitVec 7) (a : BitVec 7) (n : BitVec 5) (s : State) : Host.Outcome State Fault Refusal :=
  int32u (.shli u d a n) u (fun x => shlW x n.toNat) s

/-- Logical shift right by an immediate count (R181). -/
def execShri (u : Bool) (d : BitVec 7) (a : BitVec 7) (n : BitVec 5) (s : State) : Host.Outcome State Fault Refusal :=
  int32u (.shri u d a n) u (fun x => shrW x n.toNat) s

/-- Arithmetic shift right by an immediate count (R181). -/
def execSari (u : Bool) (d : BitVec 7) (a : BitVec 7) (n : BitVec 5) (s : State) : Host.Outcome State Fault Refusal :=
  int32u (.sari u d a n) u (fun x => sarW x n.toNat) s

/-- Extracts a signed or unsigned bit field (R182). -/
def execBfx (u : Bool) (d : BitVec 7) (a : BitVec 7) (s : BitVec 1) (w : BitVec 5) (p : BitVec 5) (σ : State) : Host.Outcome State Fault Refusal :=
  int32u (.bfx u d a s w p) u (bfxW (s = 1) p.toNat (w.toNat + 1)) σ

/-- Inserts a bit field into d (R182). -/
def execBfi (u : Bool) (d : BitVec 7) (a : BitVec 7) (w : BitVec 5) (p : BitVec 5) (s : State) : Host.Outcome State Fault Refusal :=
  compute (.bfi u d a w p) u (fun x => ((bfiW p.toNat (w.toNat + 1) (w32 x 0) (w32 x 1)).toNat, {})) s

/-- Loads a sign-extended 18-bit immediate (R183). -/
def execLimm (u : Bool) (d : BitVec 7) (i : BitVec 18) (s : State) : Host.Outcome State Fault Refusal :=
  compute (.limm u d i) u (fun _ => ((i.signExtend 32 : Word).toNat, {})) s

/-- Sets d[31:14] from an 18-bit immediate, keeping d[13:0] (R183). -/
def execLhi (u : Bool) (d : BitVec 7) (i : BitVec 18) (s : State) : Host.Outcome State Fault Refusal :=
  compute (.lhi u d i) u (fun x => (i.toNat * 2 ^ 14 + x.v 0 % 2 ^ 14, {})) s

/-! ### Addresses (R184, R185) -/

/-- Adds a shifted 32-bit offset to a pointer's VA, keeping the region (R184). -/
def execLea (u : Bool) (s : BitVec 4) (d : BitVec 7) (a : BitVec 7) (b : BitVec 7) (σ : State) : Host.Outcome State Fault Refusal :=
  compute (.lea u s d a b) u (fun x => ((leaW (w64 x 0) ((w32 x 1).toInt * 2 ^ s.toNat)).toNat, {})) σ

/-- Adds a signed immediate to a pointer's VA (R184). -/
def execLeai (u : Bool) (d : BitVec 7) (a : BitVec 7) (i : BitVec 11) (s : State) : Host.Outcome State Fault Refusal :=
  compute (.leai u d a i) u (fun x => ((leaW (w64 x 0) i.toInt).toNat, {})) s

/-- One lane of MOVA: the address register is written after A is resolved; poison goes with it (R366, R367). -/
def movaLane (k : Nat) (imm : Int) (s : State) (t : Nat) (a : Given) : LaneOut :=
  let v : Word := BitVec.ofInt 32 (a.v 0 + imm)
  if a.anyPsn then
    let (f, s) := s.tick
    .done ((s.setThread t ((s.thread t).setAreg k ⟨Config.freeWord f, true⟩)).noteRecent t (4096 + k) 1 |>.advance t) []
  else
    .done ((s.setThread t ((s.thread t).setAreg k ⟨v, false⟩)).noteRecent t (4096 + k) 1 |>.advance t) []


/-- Sets address register a_k to a plus an immediate (R185). -/
def execMova (k : BitVec 3) (a : BitVec 7) (i : BitVec 11) (s : State) : Host.Outcome State Fault Refusal :=
  runPacket (.mova k a i) false (movaLane k.toNat i.toInt) s

end Sys2Proof.Machine
end

