-- ==== Sys2Proof/Machine/Control.lean ====
section
/-! DEFINITION. Branches, calls and the window, YIELD, EXIT, traps, and special registers (R203 to R209, R240, R241, R372 to R374). -/

namespace Sys2Proof.Machine

/-! ### Moving the program counter -/

/-- A thread arrives at a PC, where it is from the next cycle (R34); `held` where a taken branch with J = 1 brought it (R35). -/
def State.goto (s : State) (t : Nat) (pc : Nat) (held : Bool) : State :=
  s.setThread t { s.thread t with pc := BitVec.ofNat 64 pc, joined := held, joinAt := (s.core (coreOf t)).cyc.toNat + 1 }

/-- PC + 4 × a signed offset. -/
def State.target (s : State) (t : Nat) (off : Int) : Nat := ptrAdd (s.thread t).pc.toNat (4 * off)

/-- The condition C of R156 on a 32-bit value. -/
def condHolds (c : Nat) (a : Word) : Bool :=
  match c with
  | 0 => a = 0
  | 1 => a ≠ 0
  | 2 => a.msb
  | 3 => !a.msb
  | 4 => !a.msb && a ≠ 0
  | 5 => a.msb || a = 0
  | 6 => a.getLsbD 0
  | 7 => !a.getLsbD 0
  | _ => true

/-- BR (R203). -/
def brLane (j : Bool) (c : Nat) (off : Int) (s : State) (t : Nat) (a : Given) : LaneOut :=
  if condHolds c (w32 a 0) then .done (s.goto t (s.target t off) j) [] else .done (s.advance t) []

/-- JMP (R204). -/
def jmpLane (off : Int) (s : State) (t : Nat) (_ : Given) : LaneOut := .done (s.goto t (s.target t off) false) []

/-- BRX (R204). -/
def brxLane (s : State) (t : Nat) (a : Given) : LaneOut := .done (s.goto t (a.v 0) false) []

/-! ### Window moves -/

/-- A window move in an instruction: it waits for pending results (R54), for lines of a remote spill area (R55) and for frames of the L1, and a move that fails has no effect (R386, R388, R444). -/
def movingTo (insn : Nat) (s : State) (t : Nat) (wb : Int) (move : Except Cause State) : LaneOut :=
  if s.anyPending t then .wait
  else match move, s.farFill t wb with
    | .error c, _ => .trap s c
    | .ok _, some (ptr, pa) => .stay (s.requestBlock t insn ptr pa) none
    | .ok s', none => if s.moveRoomy t wb then .done s' [] else .wait

/-- A window move that `f` follows. -/
def moving (insn : Nat) (s : State) (t : Nat) (wb : Int) (f : State → State) : LaneOut := movingTo insn s t wb ((s.moveWindow t wb insn).map f)

/-- CALL and CALLX (R205): the link is written into the new window. -/
def callLane (insn sh : Nat) (target : State → Given → Nat) (s : State) (t : Nat) (a : Given) : LaneOut :=
  let link := ptrAdd (s.thread t).pc.toNat 4
  let dest := target s a
  moving insn s t ((s.thread t).wb + 8 * sh : Nat) fun s =>
    let x := s.thread t
    let x := ((x.setReg 61 ⟨BitVec.ofNat 32 sh, false⟩).setReg 62 ⟨BitVec.ofNat 32 link, false⟩).setReg 63 ⟨BitVec.ofNat 32 (link / 2 ^ 32), false⟩
    (s.setThread t x).goto t dest false

/-- RET (R206). -/
def retLane (insn : Nat) (s : State) (t : Nat) (_ : Given) : LaneOut :=
  let x := s.thread t
  match [61, 62, 63].find? fun i => (x.reg i).psn with
  | some i => if s.anyPending t then .wait else .trap s (poisonCause 3 i)
  | none =>
    let sh := (x.reg 61).val.toNat % 16
    let dest := (x.reg 63).val.toNat * 2 ^ 32 + (x.reg 62).val.toNat
    moving insn s t ((x.wb : Int) - 8 * sh) fun s => s.goto t dest false

/-- WBASE (R207). -/
def wbaseLane (insn : Nat) (n : Int) (s : State) (t : Nat) (_ : Given) : LaneOut :=
  moving insn s t ((s.thread t).wb + 8 * n) fun s => s.advance t

/-! ### YIELD, NOP, EXIT (R208, R209) -/

/-- YIELD (R46, R208). -/
def yieldLane (s : State) (t : Nat) (_ : Given) : LaneOut :=
  let s := s.advance t
  let x := s.thread t
  if s.orderedGrid t then .done (s.setThread t { x with yielded := true }) []
  else .done (s.setThread t { x with yieldTo := (s.core (coreOf t)).cyc.toNat + 17 }) []

def nopLane (s : State) (t : Nat) (_ : Given) : LaneOut := .done (s.advance t) []

/-- Whether a thread's drop of its memberships must wait: for its earlier accesses to a device phaser's record (R136), or for a pending mapping that names it (R409). -/
def State.phDropWaits (s : State) (t : Nat) : Bool :=
  (s.thread t).phas.any fun m => isDevPhaser m.key && (s.mapPending (lineOf (m.key - 2 ^ 50)) || s.pend.any fun o =>
    o.threads.contains t && o.err.isNone && o.place = 0 && decide (o.pa < m.key - 2 ^ 50 + 64) && decide (m.key - 2 ^ 50 < o.pa + o.size))

/-- EXIT (R209, R285): the memberships are dropped; then a release that follows every write and RMW of the thread; its loads are discarded. -/
def exitLane (s : State) (t : Nat) (_ : Given) : LaneOut :=
  let s1 := s.phDropAll t
  if s.phDropWaits t then .wait
  else if s.pend.any fun o => o.threads.contains t && !o.op.isLoad && !o.op.isPref then .leave s1
  else if isQueueTid t then
    .done (s.stopProgram (queueOf t) false) []
  else
    match s1.tryRelease 3 (coreOf t) (s.ctxOf t) with
    | (s1, true) => .done ((s1.endStream t).endThread t) []
    | (s1, false) => .leave s1

/-! ### Traps (R241, R374) -/

/-- TRAP (R241): the software-trap record, and the handler with TPC after the instruction (R372). -/
def trapCause (code : Nat) : Cause := { group := 11, code := code }

/-- ERET (R374) inside a handler. -/
def eretLane (insn : Nat) (s : State) (t : Nat) (_ : Given) : LaneOut :=
  movingTo insn s t ((s.thread t).trap.twb : Nat) (s.returnFromHandler t insn)

/-! ### Special registers (R161, R240, R373) -/

/-- TSTAT (R373). -/
def TrapRegs.tstat (r : TrapRegs) : Nat := r.inh.toNat * 2 ^ 31 + r.lost.toNat * 2 ^ 30

/-- The value MFS reads (R161, R240, R373). -/
def State.selector (s : State) (t sel : Nat) : Nat :=
  let x := s.thread t
  let c := s.core (coreOf t)
  let q := isQueueTid t
  let count (v : Dword) : Nat := if q then 0 else v.toNat
  match sel with
  | 0 => if q then (s.qcore (queueOf t / 8)).cyc.toNat else c.cyc.toNat
  | 1 => s.etimeOf t
  | 2 => count (c.cycT.getD 0 0)
  | 3 => count (c.cycT.getD 1 0)
  | 4 => count (c.cycT.getD 2 0)
  | 5 => count (c.cycT.getD 3 0)
  | 6 => count (c.issT.getD 0 0)
  | 7 => count (c.issT.getD 1 0)
  | 8 => count (c.issT.getD 2 0)
  | 9 => count (c.issT.getD 3 0)
  | 10 => count c.spillb
  | 11 => count c.fillb
  | 12 => count c.htime
  | 16 => x.mode.toNat
  | 32 => x.trap.tpc.toNat
  | 34 => x.trap.taddr.toNat
  | 36 => x.trap.tseq.toNat
  | 38 => (match s.contexts.look (s.ctxOf t) with | some k => k.thnd.toNat | none => 0)
  | 40 => x.trap.tcause.toNat
  | 41 => x.trap.tinsn.toNat
  | 42 => x.trap.tstat
  | 43 => x.trap.tmode.toNat
  | 44 => x.trap.tpsn.toNat
  | _ => 0

/-- MFS (R240). -/
def mfsLane (sel : Nat) (s : State) (t : Nat) (a : Given) : LaneOut :=
  .done ((s.writeResult t a.dst (s.selector a.lead sel)).advance t) []

/-- The RW fields of MODE (R67). -/
def modeMask : Word := 0x1f03

/-- MTS (R240, R373): MODE, and in a handler TPC and TMODE. -/
def mtsLane (sel : Nat) (s : State) (t : Nat) (a : Given) : LaneOut :=
  let x := s.thread t
  let x := match sel with
    | 16 => { x with mode := w32 a 0 &&& modeMask }
    | 32 => { x with trap := { x.trap with tpc := w64 a 0 } }
    | 43 => { x with trap := { x.trap with tmode := w32 a 0 &&& modeMask } }
    | _ => x
  .done ((s.setThread t x).advance t) []

/-- Conditional or unconditional PC-relative branch with join bit (R203). -/
def execBr (j : Bool) (c : BitVec 4) (a : BitVec 7) (o : BitVec 14) (s : State) : Host.Outcome State Fault Refusal :=
  runPacket (.br j c a o) false (brLane j c.toNat o.toInt) s

/-- PC-relative jump (R204). -/
def execJmp (o : BitVec 21) (s : State) : Host.Outcome State Fault Refusal :=
  runPacket (.jmp o) false (jmpLane o.toInt) s

/-- PC-relative call moving the window and writing the link (R205). -/
def execCall (h : BitVec 4) (o : BitVec 21) (s : State) : Host.Outcome State Fault Refusal :=
  runPacket (.call h o) false (fun s t g => callLane (encode (.call h o)).toNat h.toNat (fun s _ => s.target t o.toInt) s t g) s

/-- Branches to a pointer in a register pair (R204). -/
def execBrx (u : Bool) (a : BitVec 7) (s : State) : Host.Outcome State Fault Refusal :=
  runPacket (.brx u a) u brxLane s

/-- Calls through a pointer with a window shift (R205). -/
def execCallx (u : Bool) (a : BitVec 7) (h : BitVec 4) (s : State) : Host.Outcome State Fault Refusal :=
  runPacket (.callx u a h) u (callLane (encode (.callx u a h)).toNat h.toNat fun _ g => g.v 0) s

/-- Returns through v62:v63 and undoes the call's window shift (R206). -/
def execRet (s : State) : Host.Outcome State Fault Refusal :=
  runPacket .ret false (retLane (encode .ret).toNat) s

/-- Moves the window base by 8 × n (R207). -/
def execWbase (n : BitVec 7) (s : State) : Host.Outcome State Fault Refusal :=
  runPacket (.wbase n) false (wbaseLane (encode (.wbase n)).toNat n.toInt) s

/-- Yields the pipeline, or the running wave in an ordered grid (R208). -/
def execYield (s : State) : Host.Outcome State Fault Refusal :=
  runPacket .yield false yieldLane s

/-- Drops phaser memberships, releases at device scope and ends the thread (R209). -/
def execExit (s : State) : Host.Outcome State Fault Refusal :=
  runPacket .exit false exitLane s

/-- Advances the PC only (R208). -/
def execNop (s : State) : Host.Outcome State Fault Refusal :=
  runPacket .nop false nopLane s

/-- Takes a software trap with a 7-bit code (R241): one record for each thread, and the handler with TPC = PC + 4. Its entry moves the window, so it waits for the thread's pending results (R54). -/
def execTrap (c : BitVec 7) (s : State) : Host.Outcome State Fault Refusal :=
  let insn := (encode (.trap c)).toNat
  let ts := s.cur.tids.filter s.canIssue
  match (Instr.trap c).check s.onQueue with
  | some f => .next (({ s := s, causes := ts.map fun t => (t, wordCause f) } : Acc).finish insn 0)
  | none => .next (({ s := s, causes := (ts.filter fun t => !s.anyPending t).map fun t => (t, trapCause c.toNat) } : Acc).finish insn 4)

/-- Restores MODE and WB and resumes at TPC (R374). -/
def execEret (s : State) : Host.Outcome State Fault Refusal :=
  runPacket .eret false (eretLane (encode .eret).toNat) s

/-- Reads a counter, MODE or trap-state register (R240). -/
def execMfs (u : Bool) (d : BitVec 7) (s : BitVec 11) (σ : State) : Host.Outcome State Fault Refusal :=
  runPacket (.mfs u d s) u (mfsLane s.toNat) σ

/-- Writes MODE or a writable trap-state register (R240). -/
def execMts (a : BitVec 7) (s : BitVec 11) (σ : State) : Host.Outcome State Fault Refusal :=
  runPacket (.mts a s) false (mtsLane s.toNat) σ

end Sys2Proof.Machine
end

