-- ==== Sys2Proof/Machine/Formats.lean ====
section
/-! DEFINITION. Block formats: Ouvdal bx blocks and OCP MX blocks, packed and unpacked (R74 to R78), and the counter-based random numbers (R95). -/

namespace Sys2Proof.Machine

/-! ### Exact values -/

/-- Floor(Log2 |x|) of a nonzero finite value. -/
def FVal.log2 : FVal → Option Int
  | .fin _ m e => if m = 0 then none else some (e + Nat.log2 m)
  | .nan _ => none
  | .inf _ => none

def FVal.isFinite : FVal → Bool
  | .fin _ _ _ => true
  | .nan _ => false
  | .inf _ => false

def FVal.neg : FVal → Bool
  | .fin n _ _ => n
  | .inf n => n
  | .nan _ => false

/-- The greatest Floor(Log2) of the nonzero finite values. -/
def maxLog2 (xs : List FVal) : Option Int :=
  xs.foldl (fun m x => match m, x.log2 with
    | none, l => l
    | some a, some b => some (max a b)
    | some a, none => some a) none

def clampTo (lo hi x : Int) : Int := if x < lo then lo else if hi < x then hi else x

/-! ### bx blocks (R76 to R78) -/

/-- Bytes of a bx block with `k` magnitude bits. -/
def bxBytes (k : Nat) : Nat := if k = 2 then 8 else if k = 4 then 12 else 18

/-- BxPack (R78): the block as a number and its flags. -/
def bxPack (k : Nat) (xs : List FVal) : Nat × Flags :=
  if xs.any (fun x => !x.isFinite) then (255, { nv := true })
  else
    let emax : Int := (maxLog2 xs).getD (-127)
    let e := (clampTo 0 254 (emax + 127)).toNat
    let mu (j : Nat) : Nat :=
      match maxLog2 ((xs.drop (2 * j)).take 2) with
      | none => 1
      | some l => if l < (e : Int) - 127 then 1 else 0
    let mus := (List.range 8).foldl (fun a j => a + mu j * 2 ^ j) 0
    let elem (i : Nat) (x : FVal) : Nat × Bool :=
      match x with
      | .fin n m ex =>
        let (q, inexact) := roundAt .rne n m ex ((e : Int) - 127 - mu (i / 2) - (k - 1 : Nat))
        (min q (2 ^ k - 1) + n.toNat * 2 ^ k, inexact || 2 ^ k - 1 < q)
      | .nan _ => (0, false)
      | .inf _ => (0, false)
    let es := xs.zipIdx.map fun (x, i) => elem i x
    let body := es.zipIdx.foldl (fun a (y, i) => a + y.1 * 2 ^ (16 + (k + 1) * i)) 0
    (e + mus * 256 + body, { nx := es.any (·.2) })

/-- The value of element `i` of a block (R77). -/
def bxElem (k b i : Nat) : FVal :=
  let e := b % 256
  if e = 255 then .nan false
  else
    let code := b / 2 ^ (16 + (k + 1) * i) % 2 ^ (k + 1)
    .fin (code / 2 ^ k = 1) (code % 2 ^ k) ((e : Int) - 127 - (b / 2 ^ (8 + i / 2) % 2 : Nat) - (k - 1 : Nat))

/-! ### MX blocks (R74, R75) -/

/-- Element formats: MXINT8, E4M3, E5M2. -/
inductive MxFmt where
  | int8
  | e4m3
  | e5m2
  deriving DecidableEq, Repr

/-- Fraction bits, the exponent of the last subnormal bit, the greatest magnitude's code, and emax_elem. -/
def MxFmt.frac : MxFmt → Nat
  | .int8 => 0
  | .e4m3 => 3
  | .e5m2 => 2
def MxFmt.eulp : MxFmt → Int
  | .int8 => -6
  | .e4m3 => -9
  | .e5m2 => -16
def MxFmt.maxCode : MxFmt → Nat
  | .int8 => 127
  | .e4m3 => 0x7e
  | .e5m2 => 0x7b
def MxFmt.emax : MxFmt → Int
  | .int8 => 0
  | .e4m3 => 8
  | .e5m2 => 15
/-- A NaN code of the element format; R75 leaves its sign, and in E5M2 its fraction, open (log 10). -/
def MxFmt.nanCode (f : MxFmt) (x : Nat) : Nat :=
  match f with
  | .int8 => 0
  | .e4m3 => 0x7f + 128 * (Config.nanChoice 0 x % 2)
  | .e5m2 => 0x7d + Config.nanChoice 1 x % 3 + 128 * (Config.nanChoice 2 x % 2)

/-- A finite value divided by 2^X, as an element code, with its flags (R75). -/
def mxElem (f : MxFmt) (x : Int) (n : Bool) (m : Nat) (ex : Int) : Nat × Bool :=
  let ex := ex - x
  let top : Int := ex + Nat.log2 m
  let q := if f = .int8 then f.eulp else max (top - f.frac) f.eulp
  let (k, inexact) := roundAt .rne n m ex q
  let code := if f = .int8 then k else (q - f.eulp).toNat * 2 ^ f.frac + k
  let (code, sat) := if m = 0 then (0, false) else if f.maxCode < code then (f.maxCode, true) else (code, false)
  let signed := if f = .int8 then (if n then (256 - code) % 256 else code) else n.toNat * 128 + code
  (signed, inexact || sat)

/-- Packing 32 values (R75), each with its pattern for the open NaN codes: the element codes, the scale code, the flags. Where no value is finite there is no amax, and the scale code is 0 (log 55, DESIGN CHOICE: the manual names none). -/
def mxPack (f : MxFmt) (xs : List (FVal × Nat)) : List Nat × Nat × Flags :=
  let vs := xs.map (·.1)
  if f = .int8 && vs.any (fun v => !v.isFinite) then (List.replicate 32 0, 255, { nv := true })
  else
    let x : Int := match maxLog2 vs with
      | none => -127
      | some l => clampTo (-127) 127 (l - f.emax)
    let one (p : FVal × Nat) : Nat × Flags :=
      match p.1 with
      | .nan _ => (f.nanCode p.2, { nv := true })
      | .inf n => if f = .e5m2 then (n.toNat * 128 + 0x7c, {}) else (f.nanCode p.2, { nv := true })
      | .fin n m ex =>
        let (c, nx) := mxElem f x n m ex
        (c, { nx := nx })
    let es := xs.map one
    (es.map (·.1), (x + 127).toNat, es.foldl (fun a e => a.or e.2) {})

/-- The value of an element code under a scale code (R74). -/
def mxValue (f : MxFmt) (c scale : Nat) : FVal :=
  if scale = 255 then .nan false
  else
    let sx : Int := (scale : Int) - 127
    match f with
    | .int8 =>
      let v := signExtend c 8
      .fin (v < 0) v.natAbs (sx - 6)
    | .e4m3 =>
      let n := c / 128 % 2 = 1
      let ex := c / 8 % 16
      let fr := c % 8
      if ex = 15 && fr = 7 then .nan false
      else if ex = 0 then .fin n fr (sx - 9) else .fin n (8 + fr) (sx - 9 + ex - 1)
    | .e5m2 =>
      let n := c / 128 % 2 = 1
      let ex := c / 4 % 32
      let fr := c % 4
      if ex = 31 then (if fr = 0 then .inf n else .nan false)
      else if ex = 0 then .fin n fr (sx - 16) else .fin n (4 + fr) (sx - 16 + ex - 1)

/-- An exact value rounded into a scalar format; a NaN becomes the default NaN (R195). -/
def Fmt.ofFVal (f : Fmt) (rm : Rm) (v : FVal) : Nat × Flags :=
  match v with
  | .nan _ => (f.defaultNaN, {})
  | .inf n => (f.withSign n f.infBits, {})
  | .fin n m e => f.round rm n m e

/-! ### RNGK (R95) -/

def rngMul : List Dword :=
  [0xd3a15c6b2e9740f5, 0x8b6ef1d439a2c75b, 0xa57c0e93d16b48e3, 0xe4d2973a5bc01f6d, 0x9f18c6e572adb3c1, 0xc72b5d08e94fa617]
def rngShift : List Nat := [31, 29, 32, 27, 33, 30]

/-- One round: the key of the round is k + i × W. -/
def rngRound (k x : Dword) (i : Nat) : Dword :=
  let x := x ^^^ (k + BitVec.ofNat 64 i * 0xb4c92e7ad65f1083)
  let x := x * rngMul.getD i 1
  x ^^^ (x >>> rngShift.getD i 0)

/-- RngK of a counter and a key. -/
def rngK (c k : Dword) : Word :=
  let x := (List.range 6).foldl (rngRound k) c
  (x >>> 32).truncate 32 ^^^ x.truncate 32

end Sys2Proof.Machine
end

