-- ==== Sys2Proof/Machine/Matrix.lean ====
section
/-! DEFINITION. The arithmetic of matrix operations: integer and scaled products (R79 to R82), and sliced FP64 with its recombination, bound and %slb (R84 to R91). -/

namespace Sys2Proof.Machine

/-! ### Scaled products (R79, R80, R82) -/

/-- The exact IEEE product of two values (R80). -/
def FVal.times : FVal → FVal → FVal
  | .nan s, _ => .nan s
  | _, .nan s => .nan s
  | .fin n m e, .fin n' m' e' => .fin (n != n') (m * m') (e + e')
  | .inf n, .fin n' m _ => if m = 0 then .nan false else .inf (n != n')
  | .fin n m _, .inf n' => if m = 0 then .nan false else .inf (n != n')
  | .inf n, .inf n' => .inf (n != n')

/-- The exact IEEE sum of a list of values; an exact zero is +0. -/
def FVal.sum (xs : List FVal) : FVal :=
  let pos := xs.any (· = .inf false)
  let neg := xs.any (· = .inf true)
  if xs.any (fun x => match x with | .nan _ => true | .fin _ _ _ => false | .inf _ => false) || (pos && neg) then .nan false
  else if pos then .inf false
  else if neg then .inf true
  else
    let e := xs.foldl (fun a x => match x with | .fin _ _ e => min a e | .nan _ => a | .inf _ => a) (0 : Int)
    let v := xs.foldl (fun a x => match x with | .fin n m ex => a + scaled n m ex e | .nan _ => a | .inf _ => a) (0 : Int)
    .fin (v < 0) v.natAbs e

/-- P_b with its scales, from the element values of two K-blocks: NaN where either block is NaN. -/
def blockProduct (xs ys : List FVal) : FVal := FVal.sum ((xs.zip ys).map fun (x, y) => x.times y)

/-- RoundF32(acc + p), one rounding; any NaN is the default NaN. -/
def addRounded (acc : Nat) (p : FVal) : Nat :=
  match FVal.sum [f32.decode acc, p] with
  | .nan _ => f32.defaultNaN
  | .inf n => f32.withSign n f32.infBits
  | .fin n m e => (f32.round .rne n m e).1

/-- A K-block of BF16 elements, aligned (R82). -/
def alignBf16 (cs : List Nat) : List FVal :=
  let vs := cs.map bf16.decode
  if vs.any (fun v => !v.isFinite) then vs.map fun _ => .nan false
  else
    let emax := vs.foldl (fun (m : Option Int) v => match v.log2 with
      | none => m
      | some l => some (max (m.getD (-126)) (max l (-126)))) none
    match emax with
    | none => vs.map fun _ => .fin false 0 0
    | some e =>
      vs.map fun v => match v with
        | .fin n m ex => .fin n (roundAt .rtz false m ex (e - 7)).1 (e - 7)
        | .nan s => .nan s
        | .inf n => .inf n

/-- Element format of an MX code (R247). -/
def mxFmtOf (f : Nat) : MxFmt := if f = 1 then .int8 else if f = 2 then .e4m3 else .e5m2
/-- Magnitude bits of a bx format code. -/
def bxOf (f : Nat) : Nat := if f = 4 then 2 else if f = 5 then 4 else 7

/-- Elements of a K-block (R79). -/
def kBlock (f : Nat) : Nat := if f ≤ 3 then 32 else 16

def byteAt (r : List Byte) (i : Nat) : Nat := (r.getD i 0).toNat

/-- Element values of K-block `b` of an operand row, its scales at `soff` (R248, R254). -/
def blockVals (f soff : Nat) (r : List Byte) (b : Nat) : List FVal :=
  if f ≤ 3 then (List.range 32).map fun i => mxValue (mxFmtOf f) (byteAt r (32 * b + i)) (byteAt r (soff + b))
  else if f ≤ 6 then
    let n := bxBytes (bxOf f)
    let v := leNat ((r.drop (n * b)).take n)
    (List.range 16).map fun i => bxElem (bxOf f) v i
  else alignBf16 ((List.range 16).map fun i => leNat ((r.drop (2 * (16 * b + i))).take 2))

/-- A scaled output element (R79): the stored value where it accumulates, the blocks in ascending K, the tensor scale. -/
def scaledOut (f soffA soffB kk : Nat) (ra rb : List Byte) (acc : Nat) (ts : Nat) : Nat :=
  let acc := (List.range (kk / kBlock f)).foldl (fun a b => addRounded a (blockProduct (blockVals f soffA ra b) (blockVals f soffB rb b))) acc
  let y := (f32.mul .rne acc ts).1
  if f32.isNaN y then f32.defaultNaN else y

/-- An integer output element (R81). -/
def intOut (kk : Nat) (ra rb : List Byte) (acc : Nat) : Nat :=
  trunc ((List.range kk).foldl (fun a k => a + signExtend (byteAt ra k) 8 * signExtend (byteAt rb k) 8) (acc : Int)) 32

/-! ### Slicing (R84, R85) -/

/-- A K-block of 64 binary64 values in `s` slices: the slice codes by plane and element, and the exponent word. -/
def sliceBlock (s : Nat) (xs : List FVal) : List (List Nat) × Nat :=
  let zeros := List.replicate s (xs.map fun _ => 0)
  if xs.any (fun x => !x.isFinite) then (zeros, 0x8000)
  else match maxLog2 xs with
    | none => (zeros, 0x8001)
    | some l =>
      let e := l + 1
      let parts := xs.map fun x => match x with
        | .fin n m ex => let (k, lost) := roundAt .rtz false m ex (e - 7 * s); (n, k, lost)
        | .nan _ => (false, 0, false)
        | .inf _ => (false, 0, false)
      let plane (j : Nat) : List Nat := parts.map fun (n, k, _) =>
        let d := k / 2 ^ (7 * (s - j)) % 128
        if n then (256 - d) % 256 else d
      ((List.range s).map fun j => plane (j + 1), trunc e 16 + (parts.any fun p => p.2.2).toNat * 65536)

/-! ### Recombination (R86 to R89) -/

/-- Scale of the error bound and the magnitude floor, which are sums of powers of two. -/
def boundScale : Nat := 2400
def pow2 (x : Int) : Int := 2 ^ (x + boundScale).toNat

/-- What the recombination unit keeps of one output. -/
structure OutAcc where
  q : Int := 0
  l : Option Int := none
  e : Int := 0
  sp : Int := 0
  bad : Bool := false
  spec : Bool := false
  trunc : Bool := false
  lost : Bool := false
  deriving DecidableEq, Repr

/-- Slice `j` of element `k` of a row or column (R248, R254). -/
def sliceAt (r : List Byte) (j k : Nat) : Int := signExtend (byteAt r (128 * (j - 1) + k)) 8
def expWordAt (r : List Byte) (b : Nat) : Nat := leNat ((r.drop (1024 + 4 * b)).take 4)
def expCode (w : Nat) : Nat := w % 65536
def expOf (w : Nat) : Int := signExtend w 16
def lostBit (w : Nat) : Bool := w / 65536 % 2 = 1

/-- The sliced value of an element as an integer times 2^(e_blk − 7s). -/
def slicedInt (s : Nat) (r : List Byte) (k : Nat) : Int :=
  (List.range s).foldl (fun a j => a + sliceAt r (j + 1) k * 2 ^ (7 * (s - (j + 1)))) 0

/-- The pass set (R86). -/
def passSet (s : Nat) (full : Bool) : List (Nat × Nat) :=
  ((List.range s).flatMap fun j => (List.range s).map fun i => (i + 1, j + 1)).filter fun (i, j) => full || i + j ≤ s + 1

/-- K-blocks of a pair that are neither special nor zero. -/
def normalPair (wa wb : Nat) : Bool :=
  expCode wa ≠ 0x8000 && expCode wb ≠ 0x8000 && expCode wa ≠ 0x8001 && expCode wb ≠ 0x8001
def specialPair (wa wb : Nat) : Bool := expCode wa = 0x8000 || expCode wb = 0x8000

/-- A term added at 2^L: the part below 2^L is truncated toward zero. -/
def addTerm (q l : Int) (v t : Int) : Int × Bool :=
  let (k, lost) := roundAt .rtz false v.natAbs t l
  (if v < 0 then q - k else q + k, lost)

/-- The contributions of one K index (R87, R89). -/
def addIndex (s : Nat) (ps : List (Nat × Nat)) (full : Bool) (ra rb : List Byte) (wa wb : Nat) (l : Int) (o : OutAcc) (k : Nat) : OutAcc :=
  let ex := expOf wa + expOf wb
  let (q, tr) := ps.foldl (fun (x : Int × Bool) (p : Nat × Nat) =>
    let (q, t) := addTerm x.1 l (sliceAt ra p.1 k * sliceAt rb p.2 k) (ex - 7 * (p.1 + p.2 : Nat))
    (q, x.2 || t)) (o.q, false)
  let a := slicedInt s ra k
  let b := slicedInt s rb k
  let e := if (a ≠ 0 || lostBit wa) && (b ≠ 0 || lostBit wb) then o.e + ((2 + s * (!full).toNat : Nat) : Int) * pow2 (ex - 7 * s) else o.e
  let sp := if a ≠ 0 && b ≠ 0 then o.sp + pow2 (Nat.log2 a.natAbs + Nat.log2 b.natAbs + ex - 14 * s) else o.sp
  { o with q := q, e := if tr then e + (ps.length : Int) * pow2 l else e, sp := sp, trunc := o.trunc || tr }

/-- Whether an accumulator integer does not fit in 256 bits (R87). -/
def beyond256 (q : Int) : Bool := decide (q < -(2 ^ 255)) || decide (2 ^ 255 ≤ q)

/-- One output of an operation (R87): from the kept accumulator where it matches, else from 0 and the stored value where it accumulates. -/
def recombine (s kk : Nat) (full acc keep : Bool) (old : OutAcc) (y : Nat) (ra rb : List Byte) : OutAcc :=
  let o : OutAcc := if acc && keep then { old with lost := false, trunc := false } else {}
  let bs := List.range (kk / 64)
  let ws := bs.map fun b => (b, expWordAt ra b, expWordAt rb b)
  let normal := ws.filter fun (_, a, b) => normalPair a b
  let special := ws.any fun (_, a, b) => specialPair a b
  let amax := normal.foldl (fun (m : Option Int) (_, a, b) => some (max (m.getD (-9999)) (expOf a + expOf b))) none
  let yv := f64.decode y
  let ys := acc && !keep
  let yTerm : Option (Bool × Nat × Int) := match yv with
    | .fin n m e => if ys && m ≠ 0 then some (n, m, e) else none
    | .nan _ => none
    | .inf _ => none
  let l := match o.l with
    | some l => some l
    | none => match amax with
      | some a => some (a - 14 * s - 16)
      | none => match yTerm with
        | some (_, m, e) => some (e + Nat.log2 m - 60)
        | none => none
  let o := { o with l := l, spec := o.spec || special || (ys && !yv.isFinite), lost := ws.any fun (_, a, b) => lostBit a || lostBit b }
  match l with
  | none => o
  | some l =>
    let o := if ys && yv.isFinite then { o with e := o.e + pow2 l } else o
    let o := match yTerm with
      | some (n, m, e) =>
        let (q, tr) := addTerm o.q l (if n then -(m : Int) else m) e
        { o with q := q, sp := o.sp + pow2 (e + Nat.log2 m), trunc := o.trunc || tr, bad := o.bad || beyond256 q }
      | none => o
    let ps := passSet s full
    let o := normal.foldl (fun o (b, wa, wb) => (List.range 64).foldl (fun o k => addIndex s ps full ra rb wa wb l o (64 * b + k)) o) o
    { o with bad := o.bad || beyond256 o.q }

/-- The binary64 value written for an output (R88, R419). -/
def OutAcc.value (o : OutAcc) : Nat :=
  if o.bad || o.spec then f64.defaultNaN
  else match o.l with
    | none => 0
    | some l => (f64.roundInt .rne o.q l false).1

/-- Floor(Log2(S'/E)) within 0 to 53, from 53 down (R91). -/
def boundBits (sp e : Int) : Nat → Nat
  | 0 => 0
  | n + 1 => if e * 2 ^ (n + 1) ≤ sp then n + 1 else boundBits sp e n

/-- The per-output value of BITS (R91, R419). -/
def OutAcc.bits (o : OutAcc) : Nat :=
  if o.bad || o.spec then 0 else if o.sp = 0 || o.e = 0 then 53 else boundBits o.sp o.e 53

end Sys2Proof.Machine
end

