-- ==== Sys2Proof/Machine/Endpoint.lean ====
section
/-! DEFINITION. Copy-engine commands read as data: endpoints, row placement and the checks at issue (R260 to R266), and which rows and columns a command touches (R269, R417, R418). -/

namespace Sys2Proof.Machine

/-- A row set: an endpoint with the length of its rows. -/
structure Rows where
  /-- 0 global, 1 crew scratchpad, 2 tile store, 3 B bank (R261). -/
  kind : Nat
  enc : Nat
  stride : Int
  rows : Nat
  len : Nat
  deriving DecidableEq, Repr

def Rows.res (e : Rows) : Nat := bits e.enc 37 32
def Rows.row0 (e : Rows) : Nat := bits e.enc 28 16
def Rows.byte0 (e : Rows) : Nat := if e.kind = 3 then bits e.enc 14 0 else bits e.enc 8 0
def Rows.bank (e : Rows) : Nat := bits e.enc 32 32
def Rows.col0 (e : Rows) : Nat := bits e.enc 22 16

/-- Bits of an endpoint that must be 0 (R262). -/
def Rows.reserved (e : Rows) : Bool :=
  if e.kind = 1 then e.enc / 2 ^ 32 ≠ 0
  else if e.kind = 2 then bits e.enc 63 38 ≠ 0 || bits e.enc 31 29 ≠ 0 || bits e.enc 15 9 ≠ 0
  else if e.kind = 3 then bits e.enc 63 33 ≠ 0 || bits e.enc 31 23 ≠ 0 || bits e.enc 15 15 ≠ 0
  else false

/-- A copy command (R260, R261). -/
structure CopyCmd where
  src : Rows
  dst : Rows
  len : Nat
  mode : Nat
  swz : Nat
  rawc : Bool
  scope : Nat
  sc : Nat
  deriving DecidableEq, Repr

/-- Bytes of a destination row but for tile and bank places of their own (R263). -/
def dstLen (mode dk len : Nat) : Nat :=
  let n := len / 4
  if mode = 0 then len
  else if mode ≤ 3 then n / 16 * bxBytes (if mode = 1 then 2 else if mode = 2 then 4 else 7)
  else if mode ≤ 6 then (if dk = 2 then n else if dk = 3 then max n (128 + n / 32) else n + n / 32)
  else if dk = 3 then 1024 + 4 * (len / 512) else 0

def parseCopy (b : List Byte) : CopyCmd :=
  let ctl := fld b 20 4
  let rows := bits ctl 31 20 + 1
  let len := fld b 16 4
  let mode := bits ctl 3 0
  let dk := bits ctl 14 13
  { src := { kind := bits ctl 12 11, enc := fld b 0 8, stride := signExtend (fld b 24 4) 32, rows := rows, len := len }
    dst := { kind := dk, enc := fld b 8 8, stride := signExtend (fld b 28 4) 32, rows := rows, len := dstLen mode dk len }
    len := len, mode := mode, swz := bits ctl 10 8, rawc := bit ctl 7, scope := bits ctl 6 4, sc := bits ctl 18 15 }

/-- A gather or scatter command with its descriptor (R266). -/
structure TableCmd where
  loc : Rows
  desc : Nat
  idx : Nat
  n : Nat
  swz : Nat
  scope : Nat
  base : Nat
  nrows : Nat
  rowb : Nat
  fill : List Byte
  deriving DecidableEq, Repr

def parseTable (b d : List Byte) : TableCmd :=
  let ctl := fld b 26 2
  let n := fld b 24 2 + 1
  let rowb := fld d 12 4
  { loc := { kind := bits ctl 15 14, enc := fld b 16 8, stride := signExtend (fld b 28 4) 32, rows := n, len := rowb }
    desc := fld b 0 8, idx := fld b 8 8, n := n, swz := bits ctl 10 8, scope := bits ctl 6 4
    base := fld d 0 8, nrows := fld d 8 4, rowb := rowb, fill := (d.drop 16).take 8 }

/-! ### Checks of an endpoint at issue (R262) -/

/-- The bounds check of a global row set: every byte of every row between BASE and LIMIT, with the permission. -/
def State.rowsInBounds (s : State) (ctx : Nat) (e : Rows) (k : Need) : Bool :=
  match s.contexts.look ctx with
  | none => false
  | some c =>
    let b := s.boundsOf c.btab (regionOf e.enc)
    let last : Int := e.stride * (e.rows - 1 : Nat)
    let lo : Int := vaOf e.enc + min 0 last
    let hi : Int := vaOf e.enc + max 0 last + e.len - 1
    bit b.ctl 0 && b.permits k && decide ((b.base : Int) ≤ lo) && decide (hi ≤ b.limit)

/-- The offences of an endpoint whose field lies at `off`; `whole` is how many tile bytes of each row it touches from its byte. -/
def State.rowsOffences (s : State) (core crew ctx : Nat) (e : Rows) (k : Need) (off : Nat) : List Offence :=
  offends e.reserved 2 off ++
    (if e.kind = 0 then offends (!s.rowsInBounds ctx e k) 3 off
     else if e.kind = 1 then
       let alloc := ((s.crews.look crew).map (·.alloc)).getD 0
       let last : Int := e.stride * (e.rows - 1 : Nat)
       let a : Int := e.enc % 2 ^ 32
       offends (decide (a + min 0 last < 0) || decide ((alloc : Int) < a + max 0 last + e.len)) 3 off
     else if e.kind = 2 then
       match s.resOf core crew e.res with
       | none => [(6, off)]
       | some (_, r) => offends (r.logical < e.row0 + e.rows || 512 < e.byte0 + e.len) 3 off
     else offends (128 < e.col0 + e.rows || 32768 < e.byte0 + e.len) 3 off)

/-- FMT that a conversion mode writes into the tile store (R263). -/
def modeFmt (mode : Nat) : Nat := if mode ≤ 3 then mode + 3 else if mode ≤ 6 then mode - 3 else 11

/-- The offences of a COPY or BLOAD command (R260 to R265). -/
def State.copyOffences (s : State) (core crew ctx : Nat) (bload : Bool) (b : List Byte) : List Offence :=
  let c := parseCopy b
  let ctl := fld b 20 4
  let lenBad := c.len < 4 || 2 ^ 24 < c.len || c.len % 4 ≠ 0 || (1 ≤ c.mode && c.mode ≤ 3 && c.len % 64 ≠ 0)
    || (4 ≤ c.mode && c.mode ≤ 6 && c.len % 128 ≠ 0) || (c.mode = 8 && c.len ≠ 512 && c.len ≠ 1024)
  let dstRec := if c.dst.kind = 2 then (s.resOf core crew c.dst.res).map (·.2) else none
  let fits : Bool := match dstRec with
    | none => true
    | some r =>
      c.mode = 0 || (r.fmt = modeFmt c.mode && (c.mode ≠ 8 || r.sc = c.sc)
        && (!(4 ≤ c.mode && c.mode ≤ 6) || (c.len / 4 ≤ r.soff && r.soff + c.len / 128 ≤ 512)))
  let swzBad := c.swz ≠ 0 && (5 < c.swz || c.mode = 8 || !(c.dst.kind = 1 || c.dst.kind = 2) || c.dst.len % (16 * 2 ^ c.swz) ≠ 0)
  let ctlBad := c.mode = 7 || 8 < c.mode || (if c.mode = 8 then c.sc < 2 || 8 < c.sc else c.sc ≠ 0) || c.src.kind = 3
    || (c.dst.kind = 3) ≠ bload || (c.rawc && !(c.src.kind = 0 && c.dst.kind = 0)) || 4 < c.scope || swzBad
    || (c.mode = 8 && c.dst.kind < 2)
  offends (bit ctl 19) 2 20 ++ offends lenBad 3 16 ++ offends ctlBad 3 20
    ++ offends (c.src.kind = 2 && c.src.stride ≠ 0) 3 24 ++ offends (2 ≤ c.dst.kind && c.dst.stride ≠ 0) 3 28
    ++ offends (!fits || (c.mode = 8 && c.dst.byte0 ≠ 0)) 3 8
    ++ (if c.src.kind = 3 then [] else s.rowsOffences core crew ctx c.src .read 0) ++ s.rowsOffences core crew ctx c.dst .write 8

/-- The offences of a GATH or SCAT command and its descriptor (R266). -/
def State.tableOffences (s : State) (core crew ctx : Nat) (gath : Bool) (b d : List Byte) (wrong : Bool) : List Offence :=
  let c := parseTable b d
  let ctl := fld b 26 2
  let swzBad := c.swz ≠ 0 && (5 < c.swz || !gath || !(c.loc.kind = 1 || c.loc.kind = 2) || c.rowb % (16 * 2 ^ c.swz) ≠ 0)
  offends (bits ctl 13 11 ≠ 0 || bit ctl 7 || bits ctl 3 0 ≠ 0) 2 26
    ++ offends (c.idx % 32 ≠ 0 || !s.rowsInBounds ctx { kind := 0, enc := c.idx, stride := 0, rows := 1, len := (c.n + 7) / 8 * 32 } .read) 3 8
    ++ offends (4 < c.scope || c.loc.kind = 3 || swzBad) 3 26
    ++ offends (c.rowb % 4 ≠ 0 || c.rowb < 4 || 65536 < c.rowb) 3 44
    ++ (if c.loc.kind = 3 then [] else s.rowsOffences core crew ctx c.loc (if gath then .write else .read) 16)
    ++ offends wrong 8 0

/-! ### What a command touches (R269, R417, R418) -/

/-- Ranges of core tile rows of an endpoint: of a logical row of FMT 11 its first, or where a slicing writes it (`planes`) every plane's and the exponent words'. -/
def State.tileSpan (s : State) (core crew : Nat) (e : Rows) (planes : Bool := false) : List (Nat × Nat) :=
  if e.kind ≠ 2 then []
  else match s.resOf core crew e.res with
    | none => []
    | some (_, r) =>
      if r.fmt ≠ 11 then [(r.base + e.row0, e.rows)]
      else if planes then
        [(r.base + r.rowsPer * e.row0, r.rowsPer * e.rows), (r.base + r.xrow + e.row0 / 64, (e.row0 + e.rows - 1) / 64 - e.row0 / 64 + 1)]
      else (List.range e.rows).map fun i => (r.base + r.rowsPer * (e.row0 + i), 1)

/-- Tile rows that a copy-engine operation reads or writes, and those it writes. -/
def State.opTileRows (s : State) (o : EngOp) : List (Nat × Nat) :=
  match o.kind with
  | .copy _ => let c := parseCopy o.cmd; s.tileSpan o.core o.crew c.src ++ s.tileSpan o.core o.crew c.dst (c.mode = 8)
  | .gath | .scat => s.tileSpan o.core o.crew (parseTable o.cmd o.desc).loc
  | .trace | .march | .emit => []

def rangesMeet (a b : List (Nat × Nat)) : Bool := a.any fun x => b.any fun y => x.1 < y.1 + y.2 && y.1 < x.1 + x.2

/-- Pieces of a pointer range that lie in one 64 KiB page each, from a bound. -/
def pagePieces : Nat → Nat → Nat → List (Nat × Nat)
  | 0, _, _ => []
  | k + 1, p, n =>
    if n = 0 then []
    else
      let m := min n (65536 - p % 65536)
      (p, m) :: pagePieces k (ptrAdd p m) (n - m)

/-- The 128-byte lines of a range of global memory, first and count: physical ones (R111, R132), or where a page has no translation or lies on a peer by context and pointer. -/
def State.globalLines (s : State) (o : EngOp) (ptr n : Nat) : List (Nat × Nat × Nat) :=
  (pagePieces (n / 65536 + 2) ptr n).map fun (p, m) =>
    let first : Nat := match s.translateEngine o.core o.ctx p 1 .write with
      | (_, .ok tr) => if tr.remote.isSome then 2 ^ 80 * (o.ctx + 1) + p else tr.pa
      | (_, .error _) => 2 ^ 80 * (o.ctx + 1) + p
    (0, first / 128, (first + m - 1) / 128 - first / 128 + 1)

/-- The destination of a copy-engine operation in units that R269 compares: space, unit number. Lines of 128 bytes, tile rows, bank columns. -/
def State.dstUnits (s : State) (o : EngOp) : List (Nat × Nat × Nat) :=
  let of (e : Rows) (planes : Bool) : List (Nat × Nat × Nat) :=
    if e.kind = 0 then (List.range e.rows).flatMap fun (r : Nat) => s.globalLines o (ptrAdd e.enc (e.stride * (r : Int))) e.len
    else if e.kind = 1 then (List.range e.rows).map fun (r : Nat) =>
      let a := trunc ((e.enc : Int) + e.stride * (r : Int)) 32
      (1, a / 128, (a + e.len - 1) / 128 - a / 128 + 1)
    else if e.kind = 2 then (s.tileSpan o.core o.crew e planes).map fun x => (2, x.1, x.2)
    else [(3 + e.bank, e.col0, e.rows)]
  match o.kind with
  | .copy _ => let c := parseCopy o.cmd; of c.dst (c.mode = 8)
  | .gath => of (parseTable o.cmd o.desc).loc false
  | .scat => let c := parseTable o.cmd o.desc; s.globalLines o c.base (c.nrows * c.rowb)
  | .trace | .march | .emit => []

/-- Whether two commands' destinations overlap (R269); scratchpad lines are a crew's own. -/
def State.dstMeet (s : State) (a b : EngOp) : Bool :=
  (s.dstUnits a).any fun x => (s.dstUnits b).any fun y =>
    x.1 = y.1 && x.2.1 < y.2.1 + y.2.2 && y.2.1 < x.2.1 + x.2.2 && (x.1 ≠ 1 || a.crew = b.crew)

/-- A BLOAD's bank, columns and bytes of each column. -/
def EngOp.bankSpan (o : EngOp) : Option (Nat × Nat × Nat × Nat × Nat) :=
  match o.kind with
  | .copy true => let d := (parseCopy o.cmd).dst; some (d.bank, d.col0, d.rows, d.byte0, d.len)
  | .copy false | .gath | .scat | .trace | .march | .emit => none

end Sys2Proof.Machine
end

