-- ==== Sys2Proof/Machine/MatrixUnit.lean ====
section
/-! DEFINITION. The matrix unit: MXOP and MXSWAP, arbitration, operations started and completed, bank saves (R110, R251 to R258, R304 to R314, R416 to R420). -/

namespace Sys2Proof.Machine

/-! ### Parameter blocks (R252, R253) -/

/-- A matrix parameter block (R252). -/
structure MxPb where
  kind : Nat
  acc : Bool
  tr : Bool
  s : Nat
  scope : Nat
  m : Nat
  n : Nat
  k : Nat
  ares : Nat
  arow : Nat
  cres : Nat
  crow : Nat
  bank : Nat
  bcol : Nat
  tscale : Nat
  deriving DecidableEq, Repr

def parseMx (b : List Byte) : MxPb :=
  { kind := fld b 0 1, acc := bit (fld b 1 1) 0, tr := bit (fld b 1 1) 1, s := fld b 2 1, scope := fld b 3 1, m := fld b 4 1, n := fld b 5 1,
    k := fld b 6 1, ares := fld b 8 2, arow := fld b 10 2, cres := fld b 12 2, crow := fld b 14 2, bank := fld b 16 1, bcol := fld b 18 2,
    tscale := fld b 20 4 }

def MxPb.f64 (p : MxPb) : Bool := p.kind = 3 || p.kind = 4
/-- Output rows of the operation (R253). -/
def MxPb.outRows (p : MxPb) : Nat := if p.tr then p.n else p.m

/-- Bytes of a B column that the operation reads, from its start (R254): ranges of offset and length. -/
def MxPb.bRanges (p : MxPb) (fmt : Nat) : List (Nat × Nat) :=
  if p.f64 then (List.range p.s).map (fun j => (128 * j, p.k)) ++ [(1024, 4 * (p.k / 64))]
  else if p.kind = 1 || fmt = 0 then [(0, p.k)]
  else if fmt ≤ 3 then [(0, p.k), (128, p.k / 32)]
  else if fmt ≤ 6 then [(0, p.k / 16 * bxBytes (bxOf fmt))]
  else [(0, 2 * p.k)]

/-- Bytes of an A row that the operation reads; those of an F64P row in the layout of a B column. -/
def MxPb.aRanges (p : MxPb) (fmt soff : Nat) : List (Nat × Nat) :=
  if p.kind = 2 && fmt ≤ 3 then [(0, p.k), (soff, p.k / 32)] else p.bRanges fmt

def spanOf (l : List (Nat × Nat)) : Nat := l.foldl (fun m x => max m (x.1 + x.2)) 0

/-- Whether a KIND takes an A record's format, and an output record's (R253). -/
def kindTakesA (kind f : Nat) : Bool := if kind = 1 then f ≤ 1 else if kind = 2 then 1 ≤ f && f ≤ 7 else f = 11
def kindTakesC (kind f : Nat) : Bool := if kind = 1 then f = 9 else if kind = 2 then f = 8 else f = 10

/-- The offences of a parameter block (R252, R253). -/
def State.mxOffences (s : State) (core crew : Nat) (b : List Byte) : List Offence :=
  let p := parseMx b
  let ra := (s.resOf core crew p.ares).map (·.2)
  let rc := (s.resOf core crew p.cres).map (·.2)
  let known := 1 ≤ p.kind && p.kind ≤ 4
  let dim (x off : Nat) : List Offence := offends (x = 0 || 128 < x) 3 off
  let kA : Bool := match ra with
    | none => false
    | some r => p.k % (if r.fmt = 0 then 4 else 2 ^ r.blk) ≠ 0
      || (1 ≤ r.fmt && r.fmt ≤ 3 && (r.soff < p.k || 512 < r.soff + p.k / 32))
  mustZero b 7 1 ++ mustZero b 17 1 ++ mustZero b 24 40 ++ offends (fld b 1 1 / 4 ≠ 0) 2 1
    ++ offends (!known) 3 0
    ++ offends (if p.f64 then p.s < 2 || 8 < p.s || ra.any (fun r => r.sc ≠ p.s) else p.s ≠ 0) 3 2
    ++ scopeOffence p.scope 3 ++ dim p.m 4 ++ dim p.n 5 ++ dim p.k 6 ++ offends kA 3 6
    ++ (match ra with
      | none => [(6, 8)]
      | some r => offends (known && !kindTakesA p.kind r.fmt) 3 8 ++ offends (r.logical < p.arow + p.m) 3 10)
    ++ (match rc with
      | none => [(6, 12)]
      | some r => offends (known && !kindTakesC p.kind r.fmt) 3 12
        ++ offends (r.rows < (if r.fmt = 10 then 2 else 1) * (p.crow + p.outRows)) 3 14)
    ++ offends (2 ≤ p.bank) 3 16
    ++ offends (127 < p.bcol || ra.any (fun r => decide (32768 < 256 * p.bcol + spanOf (p.bRanges r.fmt)))) 3 18
    ++ offends (p.kind ≠ 2 && p.tscale ≠ 0) 3 20

/-! ### What an operation touches -/

/-- Tile rows of A and of the output, as rows of the core with the first row of their reservation. -/
def State.mxRows (s : State) (core : Nat) (m : MxCmd) : List (Nat × Nat × Nat) × List (Nat × Nat × Nat) :=
  if m.swap then ([], [])
  else
    let p := parseMx m.pb
    let a := match s.resOf core m.crew p.ares with
      | none => []
      | some (_, r) =>
        if r.fmt = 11 then
          [(r.base + r.rowsPer * p.arow, r.rowsPer * p.m, r.base), (r.base + r.xrow + p.arow / 64, (p.arow + p.m - 1) / 64 - p.arow / 64 + 1, r.base)]
        else [(r.base + p.arow, p.m, r.base)]
    let c := match s.resOf core m.crew p.cres with
      | none => []
      | some (_, r) => let w := if r.fmt = 10 then 2 else 1; [(r.base + w * p.crow, w * p.outRows, r.base)]
    (a, c)

def dropBase (l : List (Nat × Nat × Nat)) : List (Nat × Nat) := l.map fun x => (x.1, x.2.1)

/-- The lowest row of an operation, relative to its reservation, that lies in a list of core rows. -/
def firstClash (mine : List (Nat × Nat × Nat)) (theirs : List (Nat × Nat)) : Option Nat :=
  (mine.flatMap fun x => theirs.filterMap fun y => if x.1 < y.1 + y.2 && y.1 < x.1 + x.2.1 then some (max x.1 y.1 - x.2.2) else none).min?

/-- Bytes of each column that a BLOAD writes, from the start of the column's slice (R263). -/
def CopyCmd.bankRanges (c : CopyCmd) : List (Nat × Nat) :=
  let b := c.dst.byte0
  if 4 ≤ c.mode && c.mode ≤ 6 then [(b, c.len / 4), (b + 128, c.len / 128)]
  else if c.mode = 8 then (List.range c.sc).map (fun j => (b + 128 * j, c.len / 8)) ++ [(b + 1024, 4 * (c.len / 512))]
  else [(b, c.dst.len)]

/-- Whether a BLOAD writes bytes that an operation reads (R258). -/
def State.bankClash (s : State) (o : EngOp) (m : MxCmd) : Bool :=
  let p := parseMx m.pb
  match o.bankSpan, s.resOf o.core m.crew p.ares with
  | some (bank, col, n, _, _), some (_, r) =>
    bank = p.bank && col < p.n && 0 < n
      && rangesMeet (CopyCmd.bankRanges (parseCopy o.cmd)) ((p.bRanges r.fmt).map fun x => (256 * p.bcol + x.1, x.2))
  | _, _ => false

/-- The pairs of a copy and a matrix operation that no rule orders, because both are outstanding at once (R417, R418): CODE, and its first row. A copy refused as overlapping is not performed and makes none (R269). -/
def State.clashOf (s : State) (o : EngOp) (m : MxCmd) : List (Nat × Nat × Nat × Nat) :=
  if m.swap || m.stage = 2 || o.overlap.isSome then []
  else
    let (a, c) := s.mxRows o.core m
    (match firstClash (a ++ c) (s.opTileRows o) with
      | some r => [(o.id, m.op, 2, r)]
      | none => []) ++ (if s.bankClash o m then [(o.id, m.op, 3, 0)] else [])

/-- Copy-engine operations of a core. -/
def State.copiesOn (s : State) (core : Nat) : List EngOp :=
  s.ops.filter fun o => o.core = core && match o.kind with
    | .copy _ | .gath | .scat => true
    | .trace | .march | .emit => false

/-! ### Issue -/

/-- Budget units (R312), from the rows as they stand at acceptance. -/
def State.budget (s : State) (core : Nat) (r : TileRec) (p : MxPb) : Nat :=
  let row (i : Nat) : Nat := leNat ((s.tile.read 4 (tileByte core (r.base + (if r.fmt = 11 then r.rowsPer else 1) * (p.arow + i)) 0) 64).map (·.1))
  let x := if p.m = 1 then row 0 else row 0 ^^^ row 1
  let t := (List.range 512).foldl (fun c i => c + x / 2 ^ i % 2) 0
  let ne := if p.kind = 3 then p.m * (p.s * (p.s + 1) / 2) else if p.kind = 4 then p.m * p.s ^ 2
    else if r.fmt = 4 || r.fmt = 5 then (p.m + 1) / 2 else p.m
  let w := ne * ((p.n + 15) / 16) * ((p.k + 15) / 16)
  (w * (64 + t) + 63) / 64

/-- Bank misuse found at issue (R418). -/
def bankMisuse (p reason : Nat) : Cause := { group := 4, code := 3, d0 := reason, addr := p }

/-- Frees the slots of completed commands whose status entry has been pushed (R310). -/
def State.trimMxc (s : State) (core : Nat) : State :=
  s.setCore core { s.core core with mxc := s.mxSlots core }

/-- One lane of MXOP. -/
def mxopLane (i : Instr) (tag : Nat) (stat : Bool) (s : State) (t : Nat) (a : Given) : LaneOut :=
  let core := coreOf t
  let p := a.v 0
  if 16 ≤ (s.mxSlots core).length || 255 ≤ (s.thread t).tiles then .wait
  else
    let insn := (encode i).toNat
    engineLane 4 64 64 insn (some tag) s t p fun s b _ offs =>
      match s.crewIdOf t with
      | none => .wait
      | some k =>
        refuseOr 4 p s (offs ++ s.mxOffences core k b)
          (let q := parseMx b
          if !s.holdsBanks core (some k) then .trap s (bankMisuse p 2)
          else if s.pbank core (some k) ≠ q.bank then .trap s (bankMisuse p 1)
          else
            let s := s.trimMxc core
            let c := s.core core
            let seq := c.mxSeq + 1
            let units := ((s.resOf core k q.ares).map fun x => s.budget core x.2 q).getD 0
            let m : MxCmd :=
              { op := s.uid, swap := false, tid := t, crew := k, ctx := s.ctxOf t, pb := b, tag := tag, stat := stat, seq := seq.toNat % 65536,
                pc := (s.thread t).pc.toNat, insn := insn, units := units }
            let clashes := (s.copiesOn core).flatMap fun o => s.clashOf o m
            let s := { s with uid := s.uid + 1 }.setCore core { c with mxc := c.mxc ++ [m], mxSeq := seq, clashes := c.clashes ++ clashes }
            .done (((s.tagIssue k tag).addTiles t).advance t) [])

/-- One lane of MXSWAP. -/
def mxswapLane (s : State) (t : Nat) (_ : Given) : LaneOut :=
  let core := coreOf t
  if 16 ≤ (s.mxSlots core).length || s.busy t then .wait
  else if !s.holdsBanks core (s.crewIdOf t) then .trap s (bankMisuse 0 2)
  else
    let s := s.trimMxc core
    let c := s.core core
    let m : MxCmd :=
      { op := s.uid, swap := true, tid := t, crew := (s.crewIdOf t).getD 0, ctx := s.ctxOf t, pb := [], tag := 0, stat := false, seq := 0,
        pc := (s.thread t).pc.toNat, insn := (encode .mxswap).toNat }
    .done ((({ s with uid := s.uid + 1 }.setCore core { c with mxc := c.mxc ++ [m] })).advance t) []

/-! ### Starting (R310 to R312) -/

/-- Commands accepted before one and still in mxc. -/
def mxBefore (l : List MxCmd) (m : MxCmd) : List MxCmd := l.takeWhile fun x => x.op ≠ m.op

/-- Whether a command is the head of its source (R310). -/
def isHead (l : List MxCmd) (m : MxCmd) : Bool :=
  m.stage = 0 && (mxBefore l m).all fun x => x.stage ≠ 0 || quarterOf x.tid ≠ quarterOf m.tid

/-- R311 for an MXOP. -/
def State.eligible (s : State) (core : Nat) (m : MxCmd) : Bool :=
  let l := (s.core core).mxc
  let before := mxBefore l m
  let out := dropBase (s.mxRows core m).2
  !m.swap && isHead l m && (s.core core).bankCrew = some m.crew && before.all (fun x => !x.swap)
    && (!(parseMx m.pb).f64 || before.all fun x => x.swap || !(parseMx x.pb).f64 || x.stage ≠ 0)
    && before.all fun x => x.swap || x.stage ≠ 0 || !rangesMeet (dropBase (s.mxRows core x).2) out

/-- The MXOP that wins arbitration (R312). -/
def arbitrate (l : List MxCmd) : Option MxCmd :=
  match l.find? (fun m => 4 ≤ m.passed) with
  | some m => some m
  | none => l.foldl (fun b m => match b with
    | none => some m
    | some x => if m.units < x.units || (m.units = x.units && quarterOf m.tid < quarterOf x.tid) then some m else b) none

/-- Bytes of the ranges of one row or column, others read as 0: each with its poison. -/
def maskRanges (l : List (Nat × Nat)) (bs : List MByte) : List MByte :=
  bs.zipIdx.map fun (b, i) => if l.any fun x => x.1 ≤ i && i < x.1 + x.2 then b else (0, false)

/-- A row of A (R248): the bytes the operation reads, an F64P row in the layout of a B column. -/
def State.aRow (s : State) (core : Nat) (r : TileRec) (p : MxPb) (i : Nat) : List MByte :=
  let l := p.aRanges r.fmt r.soff
  if r.fmt = 11 then
    let i := p.arow + i
    let plane (j : Nat) : List MByte := s.tile.read 4 (tileByte core (r.base + r.rowsPer * i + j / 4) (128 * (j % 4))) 128
    let words := s.tile.read 4 (tileByte core (r.base + r.xrow + i / 64) (8 * (i % 64))) 8
    maskRanges l ((List.range 8).flatMap (fun j => if j < p.s then plane j else List.replicate 128 (0, false)) ++ words)
  else maskRanges l (s.tile.read 4 (tileByte core (r.base + p.arow + i) 0) 512)

/-- A column of B (R254). -/
def State.bCol (s : State) (core : Nat) (fmt : Nat) (p : MxPb) (n : Nat) : List MByte :=
  let l := p.bRanges fmt
  maskRanges l (s.banks.read 4 (bankByte core p.bank n (256 * p.bcol)) (spanOf l))

/-- An operation's access, for its records. -/
def MxCmd.access (m : MxCmd) (core : Nat) : PendOp :=
  { id := 2 ^ 62 + m.op, grp := 2 ^ 62 + m.op, tid := m.tid, core := core, ctx := m.ctx, op := .load false, space := 0, ptr := 0, pa := 0, place := 0,
    size := 4, pc := m.pc, insn := m.insn, pkt := 2 ^ 62 + m.op }

/-- Notes the poisoned granules of the operands that an operation takes (R375). -/
def State.noteOperands (s : State) (core : Nat) (m : MxCmd) (r : TileRec) (p : MxPb) : State :=
  let o := m.access core
  let s := (List.range p.m).foldl (fun s i =>
    if r.fmt = 11 then
      let i := p.arow + i
      let s := (List.range p.s).foldl (fun (s : State) j =>
        let a := tileByte core (r.base + r.rowsPer * i + j / 4) (128 * (j % 4))
        s.noteReads o 6 4 (a % 2 ^ 22) (s.tile.read 4 a p.k)) s
      let a := tileByte core (r.base + r.xrow + i / 64) (8 * (i % 64))
      s.noteReads o 6 4 (a % 2 ^ 22) (s.tile.read 4 a (4 * (p.k / 64)))
    else
      (p.aRanges r.fmt r.soff).foldl (fun (s : State) x =>
        let a := tileByte core (r.base + p.arow + i) x.1
        s.noteReads o 6 4 (a % 2 ^ 22) (s.tile.read 4 a x.2)) s) s
  (List.range p.n).foldl (fun s n => (p.bRanges r.fmt).foldl (fun (s : State) x =>
    let a := bankByte core p.bank n (256 * p.bcol + x.1)
    s.noteReads o 7 4 (a % 2 ^ 23) (s.banks.read 4 a x.2)) s) s

/-- An F64 operation that starts: its accumulators, and whether they go on from those of the last F64 operation to start (R87, R311). -/
def State.startUnit (s : State) (core : Nat) (m : MxCmd) (p : MxPb) : State × Bool :=
  if !p.f64 then (s, false)
  else
    let c := s.core core
    let key := [m.ctx, m.crew, p.cres, p.crow, p.m, p.n]
    let keep := p.acc && (c.units.look c.lastUnit).any fun u => u.valid && decide (u.key = key)
    (s.setCore core { c with units := c.units.put m.op { valid := true, key := key, prev := if keep then some c.lastUnit else none }, lastUnit := m.op }, keep)

/-- The array takes a command's operands (R304). -/
def State.startMx (s : State) (core : Nat) (m : MxCmd) : State :=
  let p := parseMx m.pb
  match s.resOf core m.crew p.ares with
  | none => s
  | some (_, r) =>
    let (s, keep) := s.startUnit core m p
    let m' : MxCmd := { m with stage := 1, arows := (List.range p.m).map (s.aRow core r p), bcols := (List.range p.n).map (s.bCol core r.fmt p), part := { keep := keep } }
    let s := s.noteOperands core m r p
    let c := s.core core
    let passOver (x : MxCmd) : MxCmd :=
      if x.op = m.op then m' else if s.eligible core x then { x with passed := x.passed + 1 } else x
    s.setCore core { c with mxc := c.mxc.map passOver, busum := c.busum + BitVec.ofNat 64 m.units }

/-- MATRIX_START (R312): the array starts the head that wins. -/
def execMatrixStart (core : Nat) (s : State) : Host.Outcome State Fault Refusal :=
  match arbitrate ((s.core core).mxc.filter (s.eligible core)) with
  | none => .next s
  | some m => .next (s.startMx core m)

/-- MXSWAP_EFFECT (R257, R310): the other bank becomes current once every MXOP accepted before the swap has started. -/
def execMxswapEffect (core : Nat) (s : State) : Host.Outcome State Fault Refusal :=
  let c := s.core core
  match c.mxc.find? (·.swap) with
  | none => .next s
  | some m =>
    if isHead c.mxc m && (mxBefore c.mxc m).all (fun x => x.stage ≠ 0) && c.bankCrew = some m.crew then
      .next (s.setCore core { c with mxc := c.mxc.filter fun x => x.op ≠ m.op, bank := 1 - c.bank })
    else .next s

/-! ### Completing (R255, R256, R416 to R420) -/

/-- An output's place in the tile store (R248). -/
def outByte (core : Nat) (r : TileRec) (p : MxPb) (row col : Nat) : Nat × Nat :=
  if r.fmt = 10 then (tileByte core (r.base + 2 * (p.crow + row) + col / 64) (8 * (col % 64)), 8)
  else (tileByte core (r.base + p.crow + row) (4 * col), 4)

/-- What a completing operation has computed so far. -/
structure MxRun extends MxPart where
  s : State
  /-- Its accumulators, and those of the operation whose chain it continues. -/
  rec' : Recomb
  prev' : Recomb

/-- What the recombination unit holds of an output. -/
def Recomb.get (u : Recomb) (i : Nat) : Option OutAcc :=
  match u.acc.look i with
  | none => none
  | some q => some { q := q, l := u.expo.look i, e := u.err.lookD i 0, sp := u.sums.lookD i 0, bad := u.bad.lookD i false, spec := u.spec.lookD i false }

def Recomb.set (u : Recomb) (i : Nat) (o : OutAcc) (psn : Bool) : Recomb :=
  { u with
    acc := u.acc.put i o.q, expo := match o.l with
      | some l => u.expo.put i l
      | none => u.expo.del i
    err := u.err.put i o.e, sums := u.sums.put i o.sp, bad := u.bad.put i o.bad, spec := u.spec.put i o.spec, psn := u.psn.put i psn
    lost := u.lost || o.lost, trunc := u.trunc || o.trunc }

/-- A chain that goes on keeps what its earlier operations have lost or truncated (R91). -/
def Recomb.after (u v : Recomb) : Recomb := { u with lost := u.lost || v.lost, trunc := u.trunc || v.trunc }

/-- Computes and writes one output (R255). Accumulators are those of output elements, row and column, and an element that has none takes its stored value, where a chain's operations differ in TR (log 55, DESIGN CHOICE: the manual does not say). -/
def mxOutput (core : Nat) (m : MxCmd) (p : MxPb) (ra rc : TileRec) (x : MxRun) (i n : Nat) : MxRun :=
  let (row, col) := if p.tr then (n, i) else (i, n)
  let a := m.arows.getD i []
  let b := m.bcols.getD n []
  let av := a.map (·.1)
  let bv := b.map (·.1)
  let (at_, w) := outByte core rc p row col
  let idx := row * 128 + col
  let old := if x.keep then x.prev'.get idx else none
  let readsC := p.acc && old.isNone
  let cb := if readsC then x.s.tile.read 4 at_ w else []
  let s := x.s.noteReads (m.access core) 6 4 (at_ % 2 ^ 22) cb
  let y := leNat (cb.map (·.1))
  let psn := a.any (·.2) || b.any (·.2) || cb.any (·.2) || (p.f64 && p.acc && old.isSome && x.prev'.psn.lookD idx false)
  let write (s : State) (v : Nat) : State := { s with tile := s.tile.writeM 4 at_ ((leBytes w v).map fun c => (c, psn)) }
  if p.f64 then
    let o := recombine p.s p.k (p.kind = 4) p.acc old.isSome (old.getD {}) y av bv
    { x with
      s := write s o.value, rec' := (x.rec'.set idx o psn).after x.prev', poisoned := x.poisoned + psn.toNat, spread := x.spread + o.bad.toNat
      spreadL := if o.bad && x.spread = 0 then o.l.getD 0 else x.spreadL
      bits := if psn then 0 else min x.bits o.bits, spec := x.spec || o.spec }
  else
    let v := if p.kind = 1 then intOut p.k av bv y
      else scaledOut ra.fmt ra.soff 128 p.k av bv (if p.acc then y else 0) p.tscale
    { x with s := write s v, poisoned := x.poisoned + psn.toNat }

/-- %slb after an F64 operation (R90, R91). -/
def slbWord (p : MxPb) (x : MxRun) : Nat :=
  let full := decide (p.kind = 4)
  let exact := full && !x.rec'.lost && !x.rec'.trunc && !x.spec && x.spread = 0 && x.poisoned = 0
  exact.toNat * 2 ^ 31 + 2 ^ 30 + p.s * 2 ^ 16 + full.toNat * 2 ^ 15 + x.spec.toNat * 2 ^ 8 + x.bits

/-- Writes the records of a core's clashes whose second operation is this one, and drops the pairs (R417, R418). `first` tells the operation's half of a pair. -/
def State.settleClashes (s : State) (core op : Nat) (o : PendOp) : State :=
  let c := s.core core
  let mine := c.clashes.filter fun x => x.1 = op || x.2.1 = op
  let other (x : Nat × Nat × Nat × Nat) : Nat := if x.1 = op then x.2.1 else x.1
  let running (k : Nat) : Bool := s.ops.any (fun e => e.id = k) || c.mxc.any fun m => m.op = k && m.stage ≠ 2
  let due := mine.filter fun x => !running (other x)
  let s := s.setCore core { c with clashes := c.clashes.filter fun x => !due.contains x }
  due.foldl (fun s x =>
    let seq := (c.mxc.find? fun m => m.op = x.2.1).map (·.seq) |>.getD (x.2.2.2 / 2 ^ 32)
    let (d0, d1) := if x.2.2.1 = 2 then (seq, x.2.2.2 % 2 ^ 32) else (3, seq)
    s.opRec { o with ptr := 0 } (causeWord false false false 0 4 x.2.2.1) d0 d1) s

/-- Notes the SEQ of a completing MXOP in its pairs, whose record the copy will write. -/
def State.seqClashes (s : State) (core : Nat) (m : MxCmd) : State :=
  let c := s.core core
  s.setCore core { c with clashes := c.clashes.map fun x => if x.2.1 = m.op then (x.1, x.2.1, x.2.2.1, x.2.2.2 % 2 ^ 32 + m.seq * 2 ^ 32) else x }

/-- An operation as it stands: nothing written, or some of its outputs. -/
def State.mxRun (s : State) (core : Nat) (m : MxCmd) : MxRun :=
  let us := (s.core core).units
  let u := us.lookD m.op {}
  { m.part with s := s, rec' := u, prev' := (u.prev.bind us.look).getD {} }

/-- Computes and writes the next outputs, up to `n` of them, row by row. -/
def MxRun.go (x : MxRun) (core : Nat) (m : MxCmd) (p : MxPb) (ra rc : TileRec) (n : Nat) : MxRun :=
  let todo := (List.range' x.outs n).filter (· < p.m * p.n)
  let y := todo.foldl (fun x j => mxOutput core m p ra rc x (j / p.n) (j % p.n)) x
  { y with outs := x.outs + todo.length }

/-- Every output of an operation that is left, computed and written. -/
def State.runMx (s : State) (core : Nat) (m : MxCmd) (p : MxPb) (ra rc : TileRec) : MxRun :=
  (s.mxRun core m).go core m p ra rc (p.m * p.n)

/-- What the recombination unit holds after a run. -/
def MxRun.hold (x : MxRun) (core : Nat) (m : MxCmd) (p : MxPb) : State :=
  if p.f64 then x.s.setCore core { x.s.core core with units := (x.s.core core).units.put m.op x.rec' } else x.s

/-- The recombination unit keeps what it holds of the last F64 operation to start, of those under way, and of those whose chains they continue. -/
def Core.trimUnits (c : Core) : Core :=
  let live (o : Nat) : Bool := c.mxc.any fun m => m.op = o && m.stage = 1
  { c with units := c.units.filter fun x => x.1 = c.lastUnit || live x.1 || c.units.any fun y => live y.1 && y.2.prev = some x.1 }

/-- The operation completes: its records, %slb, tag and status entry (R90, R244, R256). -/
def State.finishMx (s : State) (core : Nat) (m : MxCmd) (p : MxPb) (ra rc : TileRec) : State :=
  let x := s.runMx core m p ra rc
  let o := m.access core
  let s := x.hold core m p
  let s := if x.spread = 0 then s else s.opRec o (causeWord false false false 0 4 4) x.spread (trunc x.spreadL 64)
  let s := if x.poisoned = 0 then s else s.opRec o (causeWord false true false 0 4 5) x.poisoned 0
  let err := x.spread ≠ 0 || x.poisoned ≠ 0
  let s := if p.f64 then s.setThread m.tid { s.thread m.tid with slb := BitVec.ofNat 32 (slbWord p x) } else s
  let c := s.core core
  let c : Core := { c with mxDone := c.mxDone + 1, mxc := c.mxc.map fun (y : MxCmd) => if y.op = m.op then { y with stage := 2, arows := [], bcols := [] } else y }
  let s := s.setCore core c.trimUnits
  let s := s.settleClashes core m.op o |>.seqClashes core m
  let s := (s.tagComplete m.crew m.tag p.scope).subTiles m.tid
  let word := err.toNat * 2 ^ 31 + p.kind * 2 ^ 24 + m.tag * 2 ^ 16 + m.seq
  let s := if m.stat then s.pushPop m.tid 1 { val := BitVec.ofNat 64 word, src := m.op } else s
  s.trimMxc core

/-- Where an operation's `j`-th output lies: its first byte and its length. -/
def State.mxPlace (s : State) (core : Nat) (m : MxCmd) (j : Nat) : Option (Nat × Nat) :=
  let p := parseMx m.pb
  (s.resOf core m.crew p.cres).map fun r => let (row, col) := if p.tr then (j % p.n, j / p.n) else (j / p.n, j % p.n); outByte core r.2 p row col

/-- Whether an output may be read and written: earlier operations under way have written the elements that it overlaps (R145, R311). -/
def State.mxFree (s : State) (core : Nat) (m : MxCmd) (j : Nat) : Bool :=
  let left (x : MxCmd) : List Nat := let p := parseMx x.pb; List.range' x.part.outs (p.m * p.n - x.part.outs)
  ((mxBefore (s.core core).mxc m).filter fun x => !x.swap && x.stage = 1).all fun x => (left x).all fun i =>
    match s.mxPlace core m j, s.mxPlace core x i with
    | some (a, n), some (b, k) => a + n ≤ b || b + k ≤ a
    | _, _ => true

/-- A started operation whose next `n` outputs may be written: its core and it. -/
def State.mxWriting (s : State) (op n : Nat) : Option (Nat × MxCmd) :=
  (s.cores.findSome? fun (k, c) => (c.mxc.find? fun m => m.op = op && m.stage = 1).map fun m => (k, m)).filter fun (core, m) =>
    let p := parseMx m.pb
    ((List.range' m.part.outs n).filter (· < p.m * p.n)).all (s.mxFree core m)

/-- The next output of an operation is written by itself (R138). -/
def State.mxAccess (s : State) (op : Nat) : State :=
  match s.mxWriting op 1 with
  | none => s
  | some (core, m) =>
    let p := parseMx m.pb
    match s.resOf core m.crew p.ares, s.resOf core m.crew p.cres with
    | some (_, ra), some (_, rc) =>
      let x := (s.mxRun core m).go core m p ra rc 1
      let s := x.hold core m p
      let c := s.core core
      s.setCore core { c with mxc := c.mxc.map fun y => if y.op = op then { y with part := x.toMxPart } else y }
    | _, _ => s

/-- MXOP_COMPLETE (R244, R255, R311): an operation writes the outputs that are left, and completes once its release has. -/
def execMxopComplete (op : Nat) (s : State) : Host.Outcome State Fault Refusal :=
  match s.mxWriting op (2 ^ 16) with
  | none => .next s
  | some (core, m) =>
    let p := parseMx m.pb
    match s.tryRelease p.scope core m.ctx with
    | (s, false) => .next s
    | (s, true) =>
      match s.resOf core m.crew p.ares, s.resOf core m.crew p.cres with
      | some (_, ra), some (_, rc) => .next (s.finishMx core m p ra rc)
      | _, _ => .next s

/-! ### Suspended banks (R110) -/

/-- Both banks of a core as the save path moves them. -/
def State.bankContents (s : State) (core : Nat) : PMem × PMem × Nat :=
  (s.banks.slice 4 (bankByte core 0 0 0) (2 ^ 22), s.banks.slice 4 (bankByte core 1 0 0) (2 ^ 22), (s.core core).bank)

/-- Whether an accepted operation of a crew names the banks of a core. -/
def State.namesBanks (s : State) (core k : Nat) : Bool :=
  (s.core core).mxc.any (fun m => m.crew = k && m.stage ≠ 2)
    || s.ops.any fun o => o.core = core && o.crew = k && o.kind = .copy true

/-- A crew holds the banks of a core from its first BLOAD to its end, wherever it runs (R110). -/
def State.claimBanks (s : State) (core k : Nat) : State :=
  match s.crews.look k with
  | none => s
  | some w => s.setCrew k { w with holdsBanks := (w.parity core :: w.holdsBanks).eraseDups }

/-- A crew comes to hold the banks (R110): bank 0 is current, and banks of another context are zeroed. -/
def State.giveBanks (s : State) (core k : Nat) : State :=
  let ctx := ((s.crews.look k).bind fun c => s.grids.look c.grid).map (·.ctx)
  let c := s.core core
  let s := if c.bankCtx = ctx then s
    else { s with banks := (s.banks.erase 4 (bankByte core 0 0 0) (2 ^ 22)).erase 4 (bankByte core 1 0 0) (2 ^ 22) }
  (s.setCore core { s.core core with bankCrew := some k, bankTaker := none, bankCtx := ctx, bank := 0 }).claimBanks core k

/-- BANK_SAVE (R110): the banks of a pre-empted crew go to its save area once its operations on them have completed, and the crew that waits takes them. -/
def execBankSave (core : Nat) (s : State) : Host.Outcome State Fault Refusal :=
  match (s.core core).bankTaker, (s.core core).bankCrew with
  | some j, some k =>
    if s.namesBanks core k then .next s
    else
      let s := match s.crews.look k with
        | none => s
        | some c => s.setCrew k { c with saved := { c.saved with banks := c.saved.banks.put (c.parity core) (s.bankContents core) } }
      .next (s.giveBanks core j)
  | some j, none => .next (s.giveBanks core j)
  | none, _ => .next s

/-- Pushes a matrix operation into mxc (R255). -/
def execMxop (a : BitVec 7) (t : BitVec 6) (f : Bool) (s : State) : Host.Outcome State Fault Refusal :=
  runPacket (.mxop a t f) false (mxopLane (.mxop a t f) t.toNat f) s

/-- Pushes a bank swap into mxc (R257). -/
def execMxswap (s : State) : Host.Outcome State Fault Refusal :=
  runPacket .mxswap false mxswapLane s

end Sys2Proof.Machine
end

