-- ==== Sys2Proof/Machine/CopyUnit.lean ====
section
/-! DEFINITION. The copy engine: BLOAD, COPY, GATH and SCAT accepted and performed (R259 to R269, R410, R421). -/

namespace Sys2Proof.Machine

/-! ### Conversions (R263) -/

/-- Bytes in pieces of `n`, from a bound. -/
def chunks (n : Nat) : Nat → List MByte → List (List MByte)
  | 0, _ => []
  | k + 1, l => if l.isEmpty then [] else l.take n :: chunks n k (l.drop n)

/-- Little-endian values of `n` bytes. -/
def valuesOf (n : Nat) (bs : List MByte) : List Nat :=
  (chunks n bs.length bs).map fun c => leNat (c.map (·.1))

def markAll (p : Bool) (bs : List Byte) : List MByte := bs.map fun b => (b, p)

/-- Bytes to be written in a destination row, by their offset from its start or from where its scales begin. -/
structure Packed where
  codes : List MByte
  scales : List MByte := []

/-- BxPack of a row (R78): each block of 16 values, poisoned where a value of it is. -/
def packBx (k : Nat) (bs : List MByte) : List MByte :=
  (chunks 64 bs.length bs).flatMap fun c => markAll (c.any (·.2)) (leBytes (bxBytes k) (bxPack k ((valuesOf 4 c).map f32.decode)).1)

/-- MX packing of a row (R75): codes and scales of each block of 32 values. -/
def packMx (f : MxFmt) (bs : List MByte) : Packed :=
  (chunks 128 bs.length bs).foldl (fun (r : Packed) c =>
    let p := c.any (·.2)
    let (es, sc, _) := mxPack f ((valuesOf 4 c).map fun v => (f32.decode v, v))
    { codes := r.codes ++ markAll p (es.map (BitVec.ofNat 8)), scales := r.scales ++ markAll p [BitVec.ofNat 8 sc] }) { codes := [] }

/-- A row in the form that a mode but for slicing writes. -/
def packRow (mode : Nat) (bs : List MByte) : Packed :=
  if mode = 0 then { codes := bs }
  else if mode ≤ 3 then { codes := packBx (if mode = 1 then 2 else if mode = 2 then 4 else 7) bs }
  else packMx (mxFmtOf (mode - 3)) bs

/-- SWZ (R265): byte o goes to o XOR ((r mod 2^p) × 16). -/
def swizzle (p r : Nat) (bs : List MByte) : List MByte :=
  if p = 0 then bs else (List.range bs.length).map fun i => bs.getD (i ^^^ (r % 2 ^ p * 16)) (0, false)

/-! ### Rows (R262, R264) -/

/-- Whether a row's access is to stored bytes of a COMPRESSED page (R131). -/
def EngRun.rawAt (r : EngRun) (raw : Bool) (ptr n : Nat) (k : Need) : EngRun × Option Tr :=
  if raw then
    match r.place ptr n k with
    | (r, some tr) => (r, if tr.cls = 3 && tr.remote.isNone && !inRegs tr.pa then some tr else none)
    | (_, none) => (r, none)
  else (r, none)

def EngRun.readRaw (r : EngRun) (raw : Bool) (ptr n : Nat) : EngRun × List MByte :=
  (pieces (n / 8 + 2) ptr n).foldl (fun (x : EngRun × List MByte) (p : Nat × Nat) =>
    let (r, bs) := x.1.readStep p.2 fun r => match r.rawAt raw p.1 p.2 .read with
      | (r, some tr) =>
        let bs := r.s.phys.read 8 tr.pa p.2
        let code := r.s.homeCode (dieOfCore r.o.core) tr.pa
        ({ r with s := (r.s.touchHome (dieOfCore r.o.core) tr.pa).noteReads (r.o.access (.load false) p.1 p.2 tr) code 8 tr.pa bs }, bs)
      | (r, none) => r.readNow p.1 p.2
    (r, x.2 ++ bs)) (r.group, [])

def EngRun.writeRaw (r : EngRun) (raw : Bool) (ptr : Nat) (bs : List MByte) : EngRun :=
  ((pieces (bs.length / 8 + 2) ptr bs.length).foldl (fun (x : EngRun × List MByte) (p : Nat × Nat) =>
    (x.1.writeStep fun r => match r.rawAt raw p.1 p.2 .write with
      | (r, some tr) => { r with s := { r.s.touchHome (dieOfCore r.o.core) tr.pa with phys := r.s.phys.writeM 8 tr.pa (x.2.take p.2) } }
      | (r, none) => r.writeNow p.1 (x.2.take p.2), x.2.drop p.2)) (r.group, bs)).1

/-- The core tile row where row `r` of a tile endpoint starts. -/
def EngRun.tileRow (x : EngRun) (e : Rows) (r : Nat) : Option (TileRec × Nat) :=
  (x.s.resOf x.o.core x.o.crew e.res).map fun (_, t) => (t, t.base + (if t.fmt = 11 then t.rowsPer else 1) * (e.row0 + r))

/-- Reads row `r` of a source. -/
def EngRun.readRow (x : EngRun) (e : Rows) (raw : Bool) (r : Nat) : EngRun × List MByte :=
  if e.kind = 0 then x.readRaw raw (ptrAdd e.enc (e.stride * (r : Int))) e.len
  else if e.kind = 1 then x.readScratch (trunc ((e.enc : Int) + e.stride * (r : Int)) 32) e.len
  else match x.tileRow e r with
    | some (_, row) => x.readTile row e.byte0 e.len
    | none => (x, badBytes e.len)

/-- Writes row `r` of a destination: the codes from its start, the scales at their place (R263). A swizzle moves the codes alone, the scales staying at SOFF (log 60, DESIGN CHOICE: R265 speaks of every byte of the row). -/
def EngRun.writeRow (x : EngRun) (e : Rows) (raw : Bool) (swz : Nat) (r : Nat) (p : Packed) : EngRun :=
  if e.kind = 0 then x.writeRaw raw (ptrAdd e.enc (e.stride * (r : Int))) (p.codes ++ p.scales)
  else if e.kind = 1 then x.writeScratch (trunc ((e.enc : Int) + e.stride * (r : Int)) 32) (swizzle swz r (p.codes ++ p.scales))
  else if e.kind = 2 then
    match x.tileRow e r with
    | some (t, row) =>
      let x := x.writeTile row e.byte0 (swizzle swz r p.codes)
      if p.scales.isEmpty then x else x.writeTile row t.soff p.scales
    | none => x
  else
    let x := x.writeBank e.bank (e.col0 + r) e.byte0 p.codes
    if p.scales.isEmpty then x else x.writeBank e.bank (e.col0 + r) (e.byte0 + 128) p.scales

/-- Writes row `r` of a slicing (R84, R85, R248, R254): planes and exponent words of each K-block. -/
def EngRun.writeSlices (x : EngRun) (c : CopyCmd) (r : Nat) (bs : List MByte) : EngRun :=
  let e := c.dst
  ((chunks 512 4 bs).zipIdx).foldl (fun (x : EngRun) (blk, b) =>
    let p := blk.any (·.2)
    let (planes, word) := sliceBlock c.sc ((valuesOf 8 blk).map f64.decode)
    let w := markAll p (leBytes 4 word)
    let put (x : EngRun) (j : Nat) (v : List MByte) : EngRun :=
      if e.kind = 3 then x.writeBank e.bank (e.col0 + r) (128 * j + 64 * b) v
      else match x.tileRow e r with
        | some (_, row) => x.writeTile (row + j / 4) (128 * (j % 4) + 64 * b) v
        | none => x
    let x := planes.zipIdx.foldl (fun x (pl, j) => put x j (markAll p (pl.map (BitVec.ofNat 8)))) x
    if e.kind = 3 then x.writeBank e.bank (e.col0 + r) (1024 + 4 * b) w
    else match x.tileRow e r with
      | some (t, _) => x.writeTile (t.base + t.xrow + (e.row0 + r) / 64) (8 * ((e.row0 + r) % 64) + 4 * b) w
      | none => x) x

/-! ### Commands performed -/

/-- A COPY or BLOAD, row by row in ascending order (R264). -/
def EngRun.copyRows (x : EngRun) : EngRun :=
  let c := parseCopy x.o.cmd
  (List.range c.src.rows).foldl (fun (x : EngRun) r =>
    let (x, bs) := x.readRow c.src c.rawc r
    if c.mode = 8 then x.writeSlices c r bs else x.writeRow c.dst c.rawc c.swz r (packRow c.mode bs)) x

/-- A GATH or SCAT (R267, R268), with its count of indices out of range. -/
def EngRun.tableRows (x : EngRun) (gath : Bool) : EngRun × Nat :=
  let c := parseTable x.o.cmd x.o.desc
  let fill := clean ((List.range c.rowb).map fun i => c.fill.getD (i % 8) 0)
  (List.range ((c.n + 7) / 8)).foldl (fun (y : EngRun × Nat) batch =>
    let (x, idx) := y.1.read (ptrAdd c.idx (32 * batch : Nat)) 32
    let rows := (List.range 8).filterMap fun m => if 8 * batch + m < c.n then some (8 * batch + m) else none
    if idx.any (·.2) then
      (if gath then rows.foldl (fun (x : EngRun) r => x.writeRow c.loc false c.swz r { codes := badBytes c.rowb }) x else x, y.2)
    else
      rows.foldl (fun (y : EngRun × Nat) r =>
        let u := le32 (idx.map (·.1)) (r % 8)
        let row := ptrAdd c.base (u * c.rowb : Nat)
        if c.nrows ≤ u then (if gath then y.1.writeRow c.loc false c.swz r { codes := fill } else y.1, y.2 + 1)
        else if gath then
          let (x, bs) := y.1.read row c.rowb
          (x.writeRow c.loc false c.swz r { codes := bs }, y.2)
        else
          let (x, bs) := y.1.readRow c.loc false r
          (x.write row bs, y.2)) (x, y.2)) (x, 0)

/-- OORC of a table (R267): one device-scope atomic add at its home. -/
def EngRun.countOut (x : EngRun) (n : Nat) : EngRun := x.group.addAt (ptrAdd (parseTable x.o.cmd x.o.desc).desc 24) 8 n

/-- The accesses of a command. -/
def EngRun.perform (x : EngRun) : EngRun :=
  match x.o.kind with
  | .copy _ => x.copyRows
  | .gath => let (x, n) := x.tableRows true; x.countOut n
  | .scat => let (x, n) := x.tableRows false; x.countOut n
  | .trace | .march | .emit => x

/-- The record of a command refused as overlapping (R410). -/
def State.overlapRec (s : State) (o : EngOp) : State :=
  match o.overlap with
  | none => s
  | some (q, tag) =>
    let d0 := memD0 { code := 4 } (regionOf o.ptr) 5 32
    s.opRec (o.access .store o.ptr 32 { pa := 0 }) (causeWord false false false 0 3 4) d0 (o.queue + q * 2 ^ 8 + tag * 2 ^ 16)

/-- Completion scope of a copy-engine command. -/
def EngOp.copyScope (o : EngOp) : Nat :=
  match o.kind with
  | .gath | .scat => (parseTable o.cmd o.desc).scope
  | .copy _ | .trace | .march | .emit => (parseCopy o.cmd).scope

/-- The first command of its queue (R145) that need not wait for the banks (R110). -/
def State.copyTurn (s : State) (o : EngOp) : Bool :=
  ((s.copiesOn o.core).find? (·.queue = o.queue)).map (·.id) = some o.id
    && !(o.kind = .copy true && (s.core o.core).bankTaker = some o.crew)

/-- A performed command completes (R244): its own atomics performed, its release, tag and counter. -/
def State.finishCopy (s : State) (o : EngOp) : State :=
  if s.pend.any (fun p => p.grp = engId o.id 0) || s.remotes.any (fun r => r.op.grp = engId o.id 0) then s
  else match s.completeEng o o.copyScope with
    | (s, false) => s
    | (s, true) => (s.settleClashes o.core o.id (o.access .store o.ptr 32 { pa := 0 })).subCopies o.tid

/-- COPY_COMPLETE (R244, R264): the accesses of the first command of a queue, once, then its completion. -/
def execCopyComplete (op : Nat) (s : State) : Host.Outcome State Fault Refusal :=
  match s.findEng op with
  | none => .next s
  | some o =>
    if !s.copyTurn o then .next s
    else if o.step = 1 then .next (s.finishCopy o)
    else if o.overlap.isSome then .next (((s.overlapRec o).setEng { o with step := 1 }).finishCopy { o with step := 1 })
    else
      let r := (s.engRun o).perform
      match r.stop with
      | some w => .next (s.engWait o w)
      | none => .next ((r.logFaults.setEng { r.kept with step := 1 }).finishCopy { r.kept with step := 1 })

/-! ### Issue -/

/-- The earliest outstanding command of another queue whose destination a new one overlaps (R269). -/
def State.overlapped (s : State) (o : EngOp) : Option (Nat × Nat) :=
  ((s.copiesOn o.core).find? fun x => x.queue ≠ o.queue && s.dstMeet x o).map fun x => (x.queue, x.tag)

/-- Accepts a copy-engine command: the pairs it makes with matrix operations, its tag and counter (R242, R269). -/
def State.acceptCopy (s : State) (o : EngOp) : State :=
  let o := { o with overlap := s.overlapped o }
  let c := s.core o.core
  let clashes := c.mxc.flatMap fun m => s.clashOf o m
  ((s.setCore o.core { c with clashes := c.clashes ++ clashes }).acceptEng o).addCopies o.tid

/-- Whether a queue of a core is full, or the thread's counter is (R223, R243). -/
def State.copyFull (s : State) (t q : Nat) : Bool :=
  8 ≤ ((s.copiesOn (coreOf t)).filter (·.queue = q)).length || 255 ≤ (s.thread t).copies

/-- What a crew's BLOAD finds (R110, R418). -/
inductive BankTake where
  /-- It holds them, or takes them now or after the save of a pre-empted crew's. -/
  | taken (s : State)
  /-- Another crew's claim on them is being settled: a save that has begun, or a resumption. -/
  | wait
  /-- Another running crew holds them. -/
  | misuse

/-- Banks for a BLOAD (R110, R418). Where a crew that resumes or saves holds them it waits (log 47). -/
def State.takeBanks (s : State) (core k : Nat) : BankTake :=
  let c := s.core core
  let others := (s.bankHolders core).filter (· ≠ k)
  if s.holdsBanks core (some k) then .taken s
  else if others.any fun j => (s.crews.look j).any fun d => d.run ≠ .resuming then .misuse
  else if others ≠ [] || c.bankTaker.isSome then .wait
  else match c.bankCrew.bind s.crews.look with
    | none => .taken (s.giveBanks core k)
    | some _ => .taken ((s.setCore core { c with bankTaker := some k }).claimBanks core k)

/-- One lane of COPY or BLOAD. -/
def copyLane (i : Instr) (bload : Bool) (q tag : Nat) (s : State) (t : Nat) (a : Given) : LaneOut :=
  let core := coreOf t
  let p := a.v 0
  let insn := (encode i).toNat
  if s.copyFull t q then .wait
  else engineLane 5 32 32 insn (some tag) s t p fun s b _ offs =>
    match s.crewIdOf t with
    | none => .wait
    | some k =>
      refuseOr 5 p s (offs ++ s.copyOffences core k (s.ctxOf t) bload b)
        (let o := { s.newEng t (.copy bload) tag p insn b with queue := q }
        if bload then
          match s.takeBanks core k with
          | .misuse => .trap s (bankMisuse p 2)
          | .wait => .wait
          | .taken s => .done ((s.acceptCopy o).advance t) []
        else .done ((s.acceptCopy o).advance t) [])

/-- One lane of GATH or SCAT: the descriptor is read with the command (R266). -/
def tableLane (i : Instr) (gath : Bool) (q tag : Nat) (s : State) (t : Nat) (a : Given) : LaneOut :=
  let core := coreOf t
  let p := a.v 0
  let insn := (encode i).toNat
  if s.copyFull t q then .wait
  else engineLane 5 32 32 insn (some tag) s t p fun s b _ offs =>
    match s.crewIdOf t with
    | none => .wait
    | some k =>
      let desc := fld b 0 8
      if desc % 32 ≠ 0 then refuseOr 5 p s (offs ++ [(1, 0)]) .wait
      else match s.readStruct t desc 32 insn with
        | .out r => r
        | .ok s d psn wrong =>
          refuseOr 5 p s (offs ++ offends psn 5 noField ++ s.tableOffences core k (s.ctxOf t) gath b d wrong)
            (.done ((s.acceptCopy { s.newEng t (if gath then .gath else .scat) tag p insn b with queue := q, desc := d }).advance t) [])

/-- The copy queue that a D code names (R61). -/
def copyQueue (d : BitVec 7) : Nat := d.toNat - 82

/-- Pushes a copy into the B banks, taking them on first use (R259). -/
def execBload (d : BitVec 7) (a : BitVec 7) (t : BitVec 6) (s : State) : Host.Outcome State Fault Refusal :=
  runPacket (.bload d a t) false (copyLane (.bload d a t) true (copyQueue d) t.toNat) s

/-- Pushes a strided copy with optional conversion (R260). -/
def execCopy (d : BitVec 7) (a : BitVec 7) (t : BitVec 6) (s : State) : Host.Outcome State Fault Refusal :=
  runPacket (.copy d a t) false (copyLane (.copy d a t) false (copyQueue d) t.toNat) s

/-- Pushes an indexed gather of table rows (R267). -/
def execGath (d : BitVec 7) (a : BitVec 7) (t : BitVec 6) (s : State) : Host.Outcome State Fault Refusal :=
  runPacket (.gath d a t) false (tableLane (.gath d a t) true (copyQueue d) t.toNat) s

/-- Pushes an indexed scatter into table rows (R268). -/
def execScat (d : BitVec 7) (a : BitVec 7) (t : BitVec 6) (s : State) : Host.Outcome State Fault Refusal :=
  runPacket (.scat d a t) false (tableLane (.scat d a t) false (copyQueue d) t.toNat) s

end Sys2Proof.Machine
end

