-- ==== Sys2Proof/Machine/Cross.lean ====
section
/-! DEFINITION. Cross-thread instructions: arriving, forming the group, and its result (R38, R197 to R200, R393, R394). -/

namespace Sys2Proof.Machine

/-- A live member of a group: its thread, its mask, its B, its old D (R198), its destination. -/
structure Party where
  tid : Nat
  vals : List (Pos × OpVal)
  dst : Dest
  /-- Its thread with the address registers moved (R59). -/
  moved : Thread := {}
  /-- The poison marks of its sources (R393). -/
  marks : List (List Bool) := []
  deriving DecidableEq, Repr

def Party.lane (m : Party) : Nat := laneOf m.tid
def Party.val (m : Party) (i : Nat) : OpVal := ((m.vals.map (·.2)).getD i ⟨0, false⟩)
def Party.b (m : Party) : Word := BitVec.ofNat 32 (m.val 1).val

/-- What a member receives: nothing, or a value with its flags. -/
abbrev XtResult := Option (OpVal × Flags)

/-- The effective mask's non-exited threads of the wave (R197). -/
def State.named (s : State) (i : Instr) (t : Nat) : List Nat :=
  let m := match i.positions with
    | p :: _ => (s.source t p none).val
    | [] => 0
  ((List.range 128).map (waveOf t * 128 + ·)).filter fun u =>
    (u = t || bit m (laneOf u)) && (s.thread u).run ≠ .exited

def Run.isConverging : Run → Bool
  | .converging _ => true
  | .exited | .ready | .parked _ => false

/-- Converging at a PC (R38). -/
def State.convergingAt (s : State) (pc : Dword) (t : Nat) : Bool :=
  (s.thread t).run.isConverging && (s.thread t).pc = pc && s.crewRuns t

/-- The group that issues at a PC of a wave: that of the lowest Converging thread whose named threads are all Converging there (R197). -/
def State.xtGroup (s : State) (i : Instr) (wave : Nat) (pc : Dword) : Option (List Nat) :=
  (((List.range 128).map (wave * 128 + ·)).filter (s.convergingAt pc)).findSome? fun t =>
    let g := s.named i t
    if g.all (s.convergingAt pc) then some g else none

/-- Threads of the packet reach the instruction and become Converging (R38). -/
def State.arrive (s : State) (i : Instr) (t : Nat) : State :=
  if s.canIssue t && laneReady i s t then s.setThread t { s.thread t with run := .converging (s.etimeOf t) } else s

def State.leave (s : State) (t : Nat) : State := s.setThread t { s.thread t with run := .ready }

/-- Splits a group into members that take part and members that trap on their operands, which are outside the group (R197): with U = 1 the first that takes part gives the values whose poison is consumed, `w` (R65). -/
def State.members (s : State) (i : Instr) (u : Bool) (w : Option (List OpVal)) : List Nat → List Party × List (Nat × Cause)
  | [] => ([], [])
  | t :: r =>
    match operands i s t w with
    | .error c =>
      let (ms, cs) := s.members i u w r
      (ms, (s.trapReads t i w c ++ [c]).map (fun c => (t, c)) ++ cs)
    | .ok (x', vs, d, reads) =>
      let (ms, cs) := s.members i u (if u then some (w.getD (vs.map (·.2))) else none) r
      ({ tid := t, vals := vs, dst := d, moved := x', marks := s.poisonMarks t i } :: ms, reads.map (fun c => (t, c)) ++ cs)

/-- One member takes its result: operands consumed, D written, flags set; a poisoned scratchpad result traps (R368). -/
def State.deliver (s : State) (i : Instr) (m : Party) (r : XtResult) : State × List (Nat × Cause) :=
  let s1 := (s.took i m.tid m.moved).advance m.tid
  match r with
  | none => (s1, [])
  | some (v, fl) =>
    if v.psn then
      match m.dst with
      | .scratch .. => (s, [(m.tid, poisonCause 2 (dstCode i))])
      | .reg .. | .none => (s1.writePoison m.tid m.dst, [])
    else ((s1.writeResult m.tid m.dst v.val).setFlags m.tid fl, [])

def State.deliverAll (s : State) (i : Instr) : List (Party × XtResult) → State × List (Nat × Cause)
  | [] => (s, [])
  | (m, r) :: l =>
    let (s, cs) := s.deliver i m r
    let (s, ds) := s.deliverAll i l
    (s, cs ++ ds)

/-- The record of R394: the lowest thread of the group whose mask names another set, where some thread performs the instruction (R377). -/
def State.disagree (s : State) (i : Instr) (g : List Nat) (ms : List Party) : List (Nat × Cause) :=
  match (if ms = [] then none else g.find? (fun t => s.named i t ≠ g)) with
  | none => []
  | some t =>
    let gm := g.foldl (fun a t => a + 2 ^ laneOf t) 0
    [(t, { group := 1, code := 0x81, d0 := gm % 2 ^ 64, d1 := gm / 2 ^ 64, trap := false })]

/-- Members that differ from the lowest (R393). -/
def dissent (u : Bool) (ms : List Party) : List (Nat × Nat) :=
  match u, ms with
  | true, l :: r => r.filterMap fun m =>
    (lowerOf (firstDiff m.vals (l.vals.map (·.2))) (firstMark (m.vals.map (·.1)) m.marks l.marks)).map fun p => (m.tid, p)
  | _, _ => []

/-- The result of each member (R197): from all members; with U = 1 evaluated once, every member having the lowest one's operands, whose d is the result where its d would stay unchanged (R65, log 16). -/
def xtResult (u : Bool) (f : List Party → Party → XtResult) (ms : List Party) (m : Party) : XtResult :=
  match u, ms with
  | true, l :: _ =>
    if dissent u ms = [] then f ms l
    else
      let as (y : Party) : Party := { y with vals := l.vals }
      (f (ms.map as) (as l)).or (some (l.val 2, {}))
  | _, _ => f ms m

/-- A destination in the scratchpad. -/
def Dest.inScratch : Dest → Bool
  | .scratch .. => true
  | .reg .. | .none => false

/-- Members that keep the group: one whose scratchpad destination would store a poisoned result traps and is outside the group (R197, R368), first those whose own sources are poisoned. `n` bounds the removals. -/
def keepMembers (res : List Party → Party → XtResult) : Nat → List Party → List Party
  | 0, ms => ms
  | n + 1, ms =>
    let bad := ms.filter fun m => m.dst.inScratch && (res ms m).any (·.1.psn)
    match bad.find? (fun m => m.vals.any (·.2.psn)), bad with
    | some m, _ => keepMembers res n (ms.filter (·.tid ≠ m.tid))
    | none, m :: _ => keepMembers res n (ms.filter (·.tid ≠ m.tid))
    | none, [] => ms

/-- A group issues (R197): all its threads leave Converging in this cycle, and each member that takes part receives its result. -/
def State.xtIssue (s : State) (i : Instr) (u : Bool) (f : List Party → Party → XtResult) (g : List Nat) : State :=
  let errs := g.flatMap fun t => (registerNotes t (latentRead i (s.thread t))).map fun c => (t, c)
  let s0 := g.foldl (fun (s : State) t => (s.foundErrors t (latentRead i (s.thread t))).leave t) s
  let (ms, bad) := s0.members i u none g
  let kept := keepMembers (xtResult u f) ms.length ms
  let out := (ms.filter fun m => kept.all (·.tid ≠ m.tid)).map fun m => (m.tid, poisonCause 2 (dstCode i))
  let (s1, cs) := s0.deliverAll i (kept.map fun m => (m, xtResult u f kept m))
  ({ s := s1, causes := errs ++ (bad ++ out).mergeSort (fun a b => a.1 ≤ b.1) ++ cs ++ s.disagree i g kept, differ := dissent u kept, doer := kept.head?.map (·.tid) } : Acc).finishGroup
    (encode i).toNat (coreOf (g.headD 0)) s.leadPc

/-- An XT instruction of the current packet. -/
def crossThread (i : Instr) (u : Bool) (f : List Party → Party → XtResult) (s : State) : Host.Outcome State Fault Refusal :=
  match i.check s.onQueue, s.lead with
  | some e, _ =>
    let ts := s.cur.tids.filter s.canIssue
    .next (({ s := s, causes := ts.map fun t => (t, wordCause e) } : Acc).finish (encode i).toNat 0)
  | none, none => .next s
  | none, some t =>
    let pc := (s.thread t).pc
    let s := s.cur.tids.foldl (fun (s : State) t => s.arrive i t) s
    match s.xtGroup i (waveOf t) pc with
    | none => .next s
    | some g => .next (s.xtIssue i u f g)

/-! ### Results -/

/-- SHFL (R198): `src` gives the lane that sends. A poisoned index poisons what is received (log 9). -/
def shfl (src : Int → Int → Int) (ms : List Party) (m : Party) : XtResult :=
  match ms.find? fun x => (x.lane : Int) = src m.lane (m.b.toNat : Int) with
  | some x => some (⟨(x.val 2).val, (x.val 2).psn || (m.val 1).psn⟩, {})
  | none => if (m.val 1).psn then some (⟨0, true⟩, {}) else none

/-- A result that every member receives, poisoned where any B is (R367). -/
def reduced (f : List (Nat × Word) → Nat × Flags) (ms : List Party) (_ : Party) : XtResult :=
  if ms.any (fun m => (m.val 1).psn) then some (⟨0, true⟩, {})
  else
    let (v, fl) := f (ms.map fun m => (m.lane, m.b))
    some (⟨v, false⟩, fl)

/-- A reduction of the members' values. -/
def foldB (f : Word → Word → Word) (l : List (Nat × Word)) : Nat × Flags :=
  match l with
  | [] => (0, {})
  | x :: r => ((r.foldl (fun a y => f a y.2) x.2).toNat, {})

/-- The exact sum of finite binary32 values as an integer times 2^−149. -/
def sumF32 (l : List Word) : Int :=
  l.foldl (fun a w => match f32.decode w.toNat with
    | .fin n m e => a + scaled n m e (-149)
    | .nan _ => a
    | .inf _ => a) 0

/-- WRED.add.f32 (R200). -/
def wredF32 (l : List Word) : Nat × Flags :=
  let ns := l.map (·.toNat)
  match f32.firstNaN ns with
  | some n => (n, { nv := f32.anySNaN ns })
  | none =>
    let pos := ns.contains f32.infBits
    let neg := ns.contains (f32.withSign true f32.infBits)
    if pos && neg then (f32.defaultNaN, { nv := true })
    else if pos then (f32.infBits, {})
    else if neg then (f32.withSign true f32.infBits, {})
    else f32.roundInt .rne (sumF32 l) (-149) (l.all fun w => w = 0x80000000)

/-- Receives d_old from the thread indexed by b (R198). -/
def execShflIdx (u : Bool) (d : BitVec 7) (a : BitVec 7) (b : BitVec 7) (s : State) : Host.Outcome State Fault Refusal :=
  crossThread (.shflIdx u d a b) u (shfl (fun _ b => b)) s

/-- Receives d_old from thread t − b (R198). -/
def execShflUp (u : Bool) (d : BitVec 7) (a : BitVec 7) (b : BitVec 7) (s : State) : Host.Outcome State Fault Refusal :=
  crossThread (.shflUp u d a b) u (shfl (fun t b => t - b)) s

/-- Receives d_old from thread t + b (R198). -/
def execShflDown (u : Bool) (d : BitVec 7) (a : BitVec 7) (b : BitVec 7) (s : State) : Host.Outcome State Fault Refusal :=
  crossThread (.shflDown u d a b) u (shfl (fun t b => t + b)) s

/-- Receives d_old from thread t XOR b (R198). -/
def execShflXor (u : Bool) (d : BitVec 7) (a : BitVec 7) (b : BitVec 7) (s : State) : Host.Outcome State Fault Refusal :=
  crossThread (.shflXor u d a b) u (shfl (fun t b => ((t.toNat ^^^ b.toNat : Nat) : Int))) s

/-- 1 if b is nonzero in every thread of the group (R199). -/
def execVoteAll (u : Bool) (d : BitVec 7) (a : BitVec 7) (b : BitVec 7) (s : State) : Host.Outcome State Fault Refusal :=
  crossThread (.voteAll u d a b) u (reduced fun l => ((l.all fun x => x.2 ≠ 0).toNat, {})) s

/-- 1 if b is nonzero in some thread of the group (R199). -/
def execVoteAny (u : Bool) (d : BitVec 7) (a : BitVec 7) (b : BitVec 7) (s : State) : Host.Outcome State Fault Refusal :=
  crossThread (.voteAny u d a b) u (reduced fun l => ((l.any fun x => x.2 ≠ 0).toNat, {})) s

/-- 1 if b is equal in every thread of the group (R199). -/
def execVoteEq (u : Bool) (d : BitVec 7) (a : BitVec 7) (b : BitVec 7) (s : State) : Host.Outcome State Fault Refusal :=
  crossThread (.voteEq u d a b) u (reduced fun l => ((l.all fun x => l.all fun y => x.2 = y.2).toNat, {})) s

/-- Collects a 128-bit mask of threads with nonzero b (R199). -/
def execBallot (u : Bool) (d : BitVec 7) (a : BitVec 7) (b : BitVec 7) (s : State) : Host.Outcome State Fault Refusal :=
  crossThread (.ballot u d a b) u (reduced fun l => (l.foldl (fun a x => if x.2 ≠ 0 then a + 2 ^ x.1 else a) 0, {})) s

/-- Integer sum over the group (R200). -/
def execWredAddI32 (u : Bool) (d : BitVec 7) (a : BitVec 7) (b : BitVec 7) (s : State) : Host.Outcome State Fault Refusal :=
  crossThread (.wredAddI32 u d a b) u (reduced (foldB (· + ·))) s

/-- Signed minimum over the group (R200). -/
def execWredMinI32 (u : Bool) (d : BitVec 7) (a : BitVec 7) (b : BitVec 7) (s : State) : Host.Outcome State Fault Refusal :=
  crossThread (.wredMinI32 u d a b) u (reduced (foldB minS)) s

/-- Signed maximum over the group (R200). -/
def execWredMaxI32 (u : Bool) (d : BitVec 7) (a : BitVec 7) (b : BitVec 7) (s : State) : Host.Outcome State Fault Refusal :=
  crossThread (.wredMaxI32 u d a b) u (reduced (foldB maxS)) s

/-- binary32 sum over the group with one RNE rounding (R200). -/
def execWredAddF32 (u : Bool) (d : BitVec 7) (a : BitVec 7) (b : BitVec 7) (s : State) : Host.Outcome State Fault Refusal :=
  crossThread (.wredAddF32 u d a b) u (reduced fun l => wredF32 (l.map (·.2))) s

/-- Bitwise AND over the group (R200). -/
def execWredAnd (u : Bool) (d : BitVec 7) (a : BitVec 7) (b : BitVec 7) (s : State) : Host.Outcome State Fault Refusal :=
  crossThread (.wredAnd u d a b) u (reduced (foldB (· &&& ·))) s

/-- Bitwise OR over the group (R200). -/
def execWredOr (u : Bool) (d : BitVec 7) (a : BitVec 7) (b : BitVec 7) (s : State) : Host.Outcome State Fault Refusal :=
  crossThread (.wredOr u d a b) u (reduced (foldB (· ||| ·))) s

/-- Bitwise XOR over the group (R200). -/
def execWredXor (u : Bool) (d : BitVec 7) (a : BitVec 7) (b : BitVec 7) (s : State) : Host.Outcome State Fault Refusal :=
  crossThread (.wredXor u d a b) u (reduced (foldB (· ^^^ ·))) s

end Sys2Proof.Machine
end

