-- ==== Sys2Proof/Machine/Fetch.lean ====
section
/-! DEFINITION. Fetching the word at a packet's PC (R151), the traps of a fetch that fails (R387, R401), and words that are no instruction (R379). -/

namespace Sys2Proof.Machine

/-- What a fetch comes to: the word, the cause each thread takes, or nothing yet. -/
inductive Fetched where
  | word (w : Word)
  | fail (c : Cause)
  | wait
  deriving DecidableEq, Repr

/-- The failure of a fetch (R401): KIND 3, INSN 0. -/
def fetchCause (pc : Nat) (e : MemErr) : Cause := { e.cause 0 pc 3 4 false with noInsn := true }

/-- The word in bytes that were read. -/
def fetchedWord (bs : List MByte) : Fetched := .word (BitVec.ofNat 32 (leNat (bs.map (·.1))))

/-- Where a view keeps a remote line that was fetched, apart from the lines that loads read: its page passed the check for X (R151, R342). -/
def fetchAddr (pa : Nat) : Nat := 2 ^ 66 + pa

/-- The fetch as a read of a remote line (R112, R137). -/
def State.fetchOp (s : State) (t pc pa : Nat) : PendOp :=
  { id := 2 ^ 59 + t, grp := 2 ^ 59 + t, tid := t, core := coreOf t, ctx := s.ctxOf t, op := .load false, space := 0, ptr := pc, pa := pa,
    place := 2, size := 4, pc := pc, insn := 0, pkt := 2 ^ 59 + t, fetch := true }

/-- Parks the packet's threads on a host-owned page that they fetch from (R129). -/
def State.parkFetch (s : State) (page : HostPage) (pc : Nat) : State :=
  (s.cur.tids.filter s.canIssue).foldl (fun s t => s.park t (.hostshare page pc 3 4 0 false .none)) s

/-- A word read at its home: the line is in L2 after it (R445), and a poisoned granule is recorded (R375), as is metadata that cannot be read (R411, KIND 3); the word runs all the same (log 27). -/
def State.fetchHome (s : State) (t pc pa : Nat) (bs : List MByte) : State :=
  let o := s.fetchOp t pc pa
  let die := dieOfWho (whoOf t) pa
  let code := s.homeCode die pa
  let line := lineOf pa
  let e : MemErr := { code := 0x10, d1 := line }
  let s := if s.metaBad line && !s.noted.contains (s.cur.num, 2 ^ 100 + line) then
      { s.opRec o (causeWord false true false 0 2 0x10) (memD0 e (regionOf pc) 3 4 + laneMask (s.cur.tids.filter s.canIssue)) line with
        noted := (s.cur.num, 2 ^ 100 + line) :: s.noted }
    else s
  let s := s.touchHome die pa
  if bs.any (·.2) then s.opRec o (causeWord false true (s.thread t).trap.inh 0 10 code) (pa / 8 * 8) 0 else s

/-- The fetch at the packet's PC (R151): alignment (R387), bounds with X, translation with X, the page's class, and the word's bytes at their home; a leaf in register space is CODE 7. Logs 27, 57. -/
def State.fetch (s : State) (t : Nat) : State × Fetched :=
  let pc := (s.thread t).pc.toNat
  let ctx := s.ctxOf t
  if pc % 4 ≠ 0 then (s, .fail { group := 1, code := 0xc, addr := pc, noInsn := true })
  else match s.translateEngine (whoOf t) ctx pc 4 .fetch with
    | (s, .error e) => (s, .fail (fetchCause pc e))
    | (s, .ok tr) =>
      if tr.remote.isSome then
        let at' := fetchAddr tr.pa
        let o := s.fetchOp t pc at'
        if s.l1Has o.core ctx at' 4 then
          let bs := s.l1Bytes o.core ctx at' 4
          (if isQueueTid t then s.l1Drop o.core ctx fun a => lineOf a = lineOf at' else s, fetchedWord bs)
        else (s.requestFill o, .wait)
      else if inRegs tr.pa then (s, .fail (fetchCause pc { code := 7, d1 := tr.pa }))
      else match s.fencedErr tr.pa with
        | some e => (s, .fail (fetchCause pc e))
        | none =>
          let base := tr.pa / tr.psize * tr.psize
          if tr.cls = 2 && tr.owner then ((s.wantPage t ctx pc ⟨base, tr.psize, tr.leaf⟩).parkFetch ⟨base, tr.psize, tr.leaf⟩ pc, .wait)
          else if tr.cls = 1 && s.badAppend tr.leaf tr.psize then
            (s, .fail (fetchCause pc { code := 4, reason := 7, d1 := s.homeNat tr.leaf 8 }))
          else if s.mapPending (lineOf tr.pa) then (s, .wait)
          else
            let bs := s.homeRead tr.pa 4 (if tr.cls = 1 then some (base, s.tailOf base tr.leaf) else none)
            (s.fetchHome t pc tr.pa bs, fetchedWord bs)

/-- INSTRUCTION_FETCH_FAULT (R387, R401): every thread of the packet traps, with INSN 0. Where the fetch does not fail nothing happens. -/
def execInstructionFetchFault (s : State) : Host.Outcome State Fault Refusal :=
  match s.lead with
  | none => .next s
  | some t =>
    match s.fetch t with
    | (_, .word _) | (_, .wait) => .next s
    | (s, .fail c) =>
      let ts := s.cur.tids.filter s.canIssue
      .next (({ s := s, causes := ts.map fun t => (t, c) } : Acc).finish 0 0)

/-- ILLEGAL_INSTRUCTION (R379, R380): a word that fails a word check, one record for the packet. Where the word passes its checks nothing happens. -/
def execIllegalInstruction (w : Word) (s : State) : Host.Outcome State Fault Refusal :=
  match wordFault s.onQueue w with
  | none => .next s
  | some f =>
    let ts := s.cur.tids.filter s.canIssue
    .next (({ s := s, causes := ts.map fun t => (t, wordCause f) } : Acc).finish w.toNat 0)

end Sys2Proof.Machine
end

