-- ==== Sys2Proof/Machine/Sched.lean ====
section
/-! DEFINITION. A core's threads and waves: timing classes, the convergence table, join-hold, ordered waves, cycle lengths and counters, what an issue costs, gating, and the convergence watchdog (R28 to R31, R33 to R35, R40 to R46, R427). -/

namespace Sys2Proof.Machine

/-! ### Classes (R40, R158, R159, R175) -/

/-- The timing class of a word. -/
def wordClass (w : Word) : Nat :=
  let maj := bits w.toNat 30 25
  let min := bits w.toNat 24 21
  if maj = 2 then (if 7 ≤ min && min ≤ 10 then 1 else 0)
  else if maj = 4 then (if min = 15 then 1 else 0)
  else if maj ≤ 0x17 then 0
  else if maj ≤ 0x1b then 1
  else if maj ≤ 0x1e then 2
  else if maj = 0x1f then 3
  else if maj = 0x21 || maj = 0x23 then 2
  else if maj = 0x34 || 0x38 ≤ maj then 0
  else 1

/-- Whether a word runs on the FP64 pipeline. -/
def wordFp64 (w : Word) : Bool :=
  let maj := bits w.toNat 30 25
  (0x1c ≤ maj && maj ≤ 0x1e) || maj = 0x21 || (maj = 0x1f && 7 ≤ bits w.toNat 24 21 && bits w.toNat 24 21 ≤ 9)
/-- Whether a word is a cross-thread instruction. -/
def wordXt (w : Word) : Bool := bits w.toNat 30 25 = 0x24

def cycleLength (cls : Nat) : Nat := if cls = 0 then 450 else if cls = 1 then 571 else if cls = 2 then 700 else 1000

/-! ### Threads of a core -/

/-- Threads of a core that have not exited, ascending. -/
def State.threadsOn (s : State) (core : Nat) : FMap Thread :=
  s.threads.filter fun (t, x) => t < Config.coreThreads && coreOf t = core && x.run ≠ .exited

/-- Waves of a core that hold their slot, by slot. -/
def State.wavesOn (s : State) (core : Nat) : List (Nat × Wave) :=
  (s.waves.filter fun (w, _) => w / 96 = core && s.threads.any fun (t, x) => waveOf t = w && x.run ≠ .exited).map fun (w, v) => (w % 96, v)

/-- The word at a thread's PC, 0 where its fetch fails or waits. -/
def State.peek (s : State) (t : Nat) : Word :=
  match (s.fetch t).2 with
  | .word w => w
  | .fail _ | .wait => 0

/-- A register that may not be read yet in this cycle (R34). -/
def recentOn (i : Instr) (x : Thread) (now : Nat) : Bool :=
  (readKeys i x.wb).any fun k => x.recent.any fun r => r.1 = k && now < r.2

/-! ### The convergence table (R29 to R31, R35) -/

/-- The pseudo PC of a wave's overflow list, which counts as one entry for its age (R33). -/
def ovfPc : Nat := 2 ^ 64

/-- Whether a thread has been in its wave's overflow list with its PC since an earlier cycle (R31). -/
def Core.wasOver (c : Core) (t : Nat) (x : Thread) : Bool := c.overflow.look t = some x.pc.toNat

/-- Places of threads, in the order of slot and lowest thread. -/
def places (ts : FMap Thread) : List (Nat × Nat) := (ts.map fun (t, x) => (slotOf t, x.pc.toNat)).eraseDups

/-- Places in the order in which they are served: by slot (R30), those of the overflow list before those of threads that have just moved, then by lowest thread (R31). -/
def Core.served (c : Core) (ts : FMap Thread) : List (Nat × Nat) :=
  let ps := (places (ts.filter fun (t, x) => c.wasOver t x) ++ places ts).eraseDups
  ((ts.map fun (t, _) => slotOf t).eraseDups).flatMap fun k => ps.filter fun p => p.1 = k

/-- Entries beyond their waves' reserves (R30). -/
def sharedEntries (es : List Entry) : Nat :=
  ((es.map (·.slot)).eraseDups).foldl (fun n k => n + ((es.filter fun e => e.slot = k).length - 4)) 0

/-- Allocates entries for places that have none, up to a number for each slot (R29, R30). -/
def allocate (cap : Nat → Nat) : List (Nat × Nat) → List Entry → List Entry
  | [], es => es
  | (k, pc) :: r, es =>
    let n := (es.filter fun e => e.slot = k).length
    if es.any (fun e => e.slot = k && e.pc = pc) then allocate cap r es
    else if n < cap k && n < 32 && (n < 4 || sharedEntries es < 640) then allocate cap r (es ++ [{ slot := k, pc := pc }])
    else allocate cap r es

/-- The allocation of a cycle: freed entries return first to waves with overflowed threads (R30), then lower slots are served first. -/
def allocation (old kept : List Entry) (ps : List (Nat × Nat)) : List Entry :=
  let own (k : Nat) : Nat :=
    if old.any fun e => e.slot = k && e.pc = ovfPc then (old.filter fun e => e.slot = k && e.pc ≠ ovfPc).length else 0
  allocate (fun _ => 32) ps (allocate own ps kept)

/-- The entry at a place. -/
def entryAt (es : List Entry) (k pc : Nat) : Option Entry := es.find? fun e => e.slot = k && e.pc = pc

/-- Clears join-hold at a place: its threads become ready (R35). -/
def State.clearHold (s : State) (core slot pc : Nat) : State :=
  let c := s.core core
  let s := s.setCore core { c with entries := c.entries.map fun e => if e.slot = slot && e.pc = pc then { e with hold := false, holdAge := 0 } else e }
  (s.threadsOn core).foldl (fun s (t, x) => if slotOf t = slot && x.pc.toNat = pc then s.setThread t { x with joined := false } else s) s

/-- Whether a place's join-hold ends: no thread of the wave is below it. -/
def noneBelow (ts : FMap Thread) (slot pc : Nat) : Bool := ts.all fun (t, x) => slotOf t ≠ slot || pc ≤ x.pc.toNat

/-- Join-hold is given where a branch with J = 1 has brought threads (R35); its age counts from the first arrival. -/
def holdAt (ts : FMap Thread) (now : Nat) (e : Entry) : Entry :=
  match ts.filter fun (_, x) => x.joined && x.pc.toNat = e.pc with
  | [] => e
  | y :: r => if e.hold then e else { e with hold := true, holdAge := now - r.foldl (fun m x => min m x.2.joinAt) y.2.joinAt }

/-- The table brought up to date: entries freed and allocated, overflow lists, join-hold set and cleared. -/
def State.refreshTable (s : State) (core : Nat) : State :=
  let ts := s.threadsOn core
  let c := s.core core
  let now := c.cyc.toNat
  let ps := c.served ts
  let kept := c.entries.filter fun e => e.pc ≠ ovfPc && ps.contains (e.slot, e.pc)
  let es := (allocation c.entries kept ps).map fun e => holdAt (ts.filter fun (t, _) => slotOf t = e.slot) now e
  let listed := ts.filter fun (t, x) => (entryAt es (slotOf t) x.pc.toNat).isNone
  let lists := (listed.map fun (t, _) => slotOf t).eraseDups
  let ovf := lists.map fun k => (c.entries.find? fun e => e.slot = k && e.pc = ovfPc).getD { slot := k, pc := ovfPc }
  let s := s.setCore core { c with entries := es ++ ovf, overflow := listed.map fun (t, x) => (t, x.pc.toNat) }
  let s := (es.filter (·.hold)).foldl (fun s e => if noneBelow ts e.slot e.pc || 4096 ≤ e.holdAge then s.clearHold core e.slot e.pc else s) s
  let late := listed.filter fun (t, x) => x.joined && (noneBelow ts (slotOf t) x.pc.toNat || x.joinAt + 4096 ≤ now)
  late.foldl (fun s (t, _) => s.setThread t { s.thread t with joined := false }) s

/-- JOIN_HOLD_TIMEOUT (R35): an entry has held join-hold for 4096 cycles. -/
def execJoinHoldTimeout (core slot : Nat) (pc : Dword) (s : State) : Host.Outcome State Fault Refusal :=
  match entryAt (s.core core).entries slot pc.toNat with
  | some e => if e.hold && 4096 ≤ e.holdAge then .next (s.clearHold core slot pc.toNat) else .next s
  | none => .next s

/-- An entry whose age has reached 4096 takes its place among the saturated ones (R33). -/
def Core.saturate (c : Core) (p : Entry → Bool) : Core :=
  if c.entries.any fun e => e.age = 4096 && e.sat.isNone && p e then
    { c with entries := c.entries.map (fun e => if e.age = 4096 && e.sat.isNone && p e then { e with sat := some c.satNext } else e),
             satNext := c.satNext + 1 }
  else c

/-- AGE_SATURATION (R33): an entry's age count reaches 4096. -/
def execAgeSaturation (core slot : Nat) (pc : Dword) (s : State) : Host.Outcome State Fault Refusal :=
  .next (s.setCore core ((s.core core).saturate fun e => e.slot = slot && e.pc = pc.toNat))

/-! ### Handlers that wait (R54, R372) -/

/-- Threads between a fault and their handler whose results have all been written enter it. -/
def State.enterWaiting (s : State) (core : Nat) : State :=
  (s.threadsOn core).foldl (fun s (t, x) => match x.run with
    | .parked (.entry addr cause insn seq lost after ts) => if s.anyPending t || !s.moveRoomy t (x.wb + 64 : Nat) || !(s.crewOf t).any (fun c => c.run = .running || c.run = .stopping) then s else s.enterNow ts t addr cause insn seq lost after
    | _ => s) s

/-! ### Ordered grids (R46) -/

/-- The logical wave index. -/
def State.logicalWave (s : State) (w : Wave) : Nat :=
  match s.crews.look w.crew with
  | some c => c.index * c.waves + w.index
  | none => 0

/-- Whether a wave's running stops: every thread parked at a phaser or yielded. -/
def waveStops (ts : List Thread) : Bool :=
  ts.all fun x => x.yielded || match x.run with
    | .parked (.phaser _ _ w _) => w
    | _ => false

/-- Whether a wave has a thread that is not parked. -/
def runnable (ts : List Thread) : Bool :=
  ts.any fun x => match x.run with
    | .parked _ => false
    | _ => true

/-- ORDERED_WAVE_SWITCH for one grid on a core: the running wave stops, the lowest runnable one runs. -/
def State.switchGrid (s : State) (core g : Nat) : State :=
  let ws := s.waves.filter fun (w, v) => w / 96 = core && ((s.crews.look v.crew).map (·.grid)) = some g
  let ts (w : Nat) : List Thread := (s.threads.filter fun (t, x) => waveOf t = w && x.run ≠ .exited).map (·.2)
  let cur := ws.find? fun (_, v) => v.running
  let goOn := match cur with
    | some (w, _) => !waveStops (ts w)
    | none => false
  if goOn then s
  else
    let s := match cur with
      | some (w, v) => { s with waves := s.waves.put w { v with running := false, ceded := (ts w).any (·.yielded) } }
      | none => s
    let stopping := ws.any fun (_, v) => (s.crews.look v.crew).any fun c => c.run = .stopping
    let live := ws.filter fun (w, v) => runnable (ts w) && (s.crews.look v.crew).any fun c => c.run = .running
    let other := live.filter fun (w, _) => !(s.waves.look w).any (·.ceded)
    let pool := if other = [] then live else other
    match pool with
    | [] => s
    | x :: r =>
      if stopping then s
      else
        let (w, v) := r.foldl (fun m y => if s.logicalWave y.2 < s.logicalWave m.2 then y else m) x
        let still : FMap Wave := s.waves.map fun (x : Nat × Wave) => if ws.any (·.1 = x.1) then (x.1, { x.2 with ceded := false }) else x
        let s := { s with waves := still.put w { v with running := true, ceded := false } }
        { s with threads := s.threads.map fun (t, y) => if waveOf t = w then (t, { y with yielded := false }) else (t, y) }

/-- Every ordered grid of a core. -/
def State.switchWaves (s : State) (core : Nat) : State :=
  let gs := ((s.wavesOn core).filterMap fun (_, v) => (s.crews.look v.crew).map (·.grid)).eraseDups
  (gs.filter fun g => (s.grids.look g).any (·.flag 0)).foldl (fun s g => s.switchGrid core g) s

/-! ### Cycles and counters (R41, R43) -/

/-- Adds one to a counter of a list. -/
def countAt (l : List Dword) (i n : Nat) : List Dword := l.set i (l.getD i 0 + BitVec.ofNat 64 n)

/-- The end of a core's cycle: its length and counters by the packets in its execute stages, the packets that issued in it counted; the next begins with them in E1 (R41, R43). -/
def Core.cycle (c : Core) : Core :=
  let cls := c.stages.foldl (fun m x => max m x.2.2.1) 0
  { c with
    cyc := c.cyc + 1
    etime := c.etime + BitVec.ofNat 64 (cycleLength cls)
    cycT := countAt c.cycT cls 1
    spillb := c.spillb + BitVec.ofNat 64 c.spilling
    fillb := c.fillb + BitVec.ofNat 64 c.filling
    spilling := 0
    filling := 0
    issT := c.issuing.foldl (fun l x => countAt l x.2.1 1) c.issT
    stages := ((c.stages.filter fun x => 2 ≤ x.2.1).map fun x => (x.1, x.2.1 - 1, x.2.2)) ++ c.issuing.map fun x => (x.1, 3, x.2)
    issuing := [] }

/-- Crews that issue their first instruction: their watchdog's time begins (R427). -/
def State.beginCrews (s : State) (ks : List Nat) : State :=
  ks.foldl (fun s k =>
    match s.crews.look k with
    | some c => if c.begun then s else s.setCrew k { c with begun := true, began := (s.core c.core).etime.toNat }
    | none => s) s

/-- A packet's place in its core's pipelines: its execute stages from the next cycle on (R41), a pipeline's extra cycles (R37, R60), and the age of its entry (R29). -/
def State.chargeCore (s : State) (p : Packet) (pc core : Nat) : State :=
  let c := s.core core
  let slots := (p.tids.map slotOf).eraseDups
  let issued (e : Entry) : Bool := slots.contains e.slot && (e.pc = pc || (e.pc = ovfPc && (entryAt c.entries e.slot pc).isNone))
  s.setCore core { c with
    issuing := c.issuing ++ p.pipes.map fun k => (k, p.cls, p.prio)
    blocked := p.gap.foldl (fun (b : FMap Nat) x => b.put x.1 x.2) c.blocked
    entries := c.entries.map fun e => if issued e then { e with age := 0, sat := none } else e }

/-- The waves of a packet issued in a cycle (R293). -/
def State.noteIssued (s : State) (p : Packet) (cyc : Nat) : State :=
  ((p.tids.map waveOf).eraseDups).foldl (fun (s : State) w =>
    match s.waves.look w with
    | some x => { s with waves := s.waves.put w { x with last := p.pipes.foldl (fun (m : FMap Nat) k => m.put k cyc) x.last } }
    | none => s) s

/-- What the issue of a packet costs its core, and that its crews have begun. -/
def State.charge (s : State) (p : Packet) : State :=
  match p.pc, p.tids.head? with
  | some pc, some t =>
    if isQueueTid t then s
    else ((s.chargeCore p pc.toNat (coreOf t)).noteIssued p (s.core (coreOf t)).cyc.toNat).beginCrews ((p.tids.filterMap s.crewIdOf).eraseDups)
  | _, _ => s

/-- Whether a packet's instruction has happened, begun to wait in its place, or trapped in a thread, or has aborted its crew; one left where it was has not issued (R34, R62). -/
def State.movedBy (s s' : State) (t : Nat) : Bool :=
  let x := s.thread t
  let y := s'.thread t
  decide ((x.pc, x.run, x.joinAt, x.trap, (s.crewOf t).map (·.run)) ≠ (y.pc, y.run, y.joinAt, y.trap, (s'.crewOf t).map (·.run)))

/-- What an instruction's issue costs its core, where it has issued in some thread (R29, R41, R43). -/
def State.charged (s : State) (o : Host.Outcome State Fault Refusal) : Host.Outcome State Fault Refusal :=
  match o with
  | .next s' => .next (if s.cur.tids.any (s.movedBy s') then s'.charge s.cur else s')
  | .fault f => .fault f
  | .refused r => .refused r

/-- Whether a core's clock runs. -/
def Core.runs (c : Core) : Bool := !c.held && !c.fenced

/-! ### Gating, and the convergence watchdog (R44, R427) -/

/-- A stretch in which a core's clock stands still (R43). -/
def Core.stand (c : Core) (ps : Nat) : Core := { c with etime := c.etime + BitVec.ofNat 64 ps, htime := c.htime + BitVec.ofNat 64 ps }

/-- Whether an engine works for a core. -/
def State.engineOn (s : State) (core : Nat) : Bool := s.ops.any (fun o => o.core = core) || !(s.mxSlots core).isEmpty

/-- CLOCK_GATE (R44): a core with no resident wave and no active engine had its clock gated for a time. -/
def execClockGate (core ps : Nat) (s : State) : Host.Outcome State Fault Refusal :=
  let c := s.core core
  if Config.cores ≤ core || !(s.wavesOn core).isEmpty || s.engineOn core || c.held || c.fenced then .next s
  else .next (s.setCore core (c.stand ps))

/-- A watchdog limit of a context in ps (R427): CONV and CREW. -/
def State.convLimit (s : State) (ctx : Nat) : Nat := bits (s.regVal (offWdcfg + 8 * ctx)) 47 32
def State.crewLimit (s : State) (ctx : Nat) : Nat := bits (s.regVal (offWdcfg + 8 * ctx)) 31 0

/-- CONV_WATCHDOG (R427): a Converging group has waited CONV µs; its threads trap, and converge afresh after ERET. -/
def execConvWatchdog (core slot : Nat) (pc : Dword) (s : State) : Host.Outcome State Fault Refusal :=
  let conv := (s.threadsOn core).filter fun (t, x) => slotOf t = slot && x.pc = pc && x.run.isConverging
  match conv with
  | [] => .next s
  | (t, _) :: _ =>
    let lim := s.convLimit (s.ctxOf t)
    let due := conv.any fun (u, x) => match x.run with
      | .converging since => lim * 10 ^ 6 ≤ elapsed (s.etimeOf u) since
      | _ => false
    if lim = 0 || !due then .next s
    else
      let insn := (s.peek t).toNat
      let s := conv.foldl (fun s (u, _) => s.leave u) s
      .next (s.report (conv.length + 1) (conv.map fun (u, _) => (u, { group := 8, code := 4, d0 := lim, whole := true })) insn 0)

end Sys2Proof.Machine
end

