-- ==== Sys2Proof/Machine/Queue.lean ====
section
/-! DEFINITION. Queue programs and grids: GO, LAUNCH, GWAIT, QSIG, the dispatcher's taking of a record, and a grid's finish (R280 to R285, R288, R290, R392). -/

namespace Sys2Proof.Machine

/-! ### Starting a program (R284, R285) -/

/-- A write of QC_QPC: ENTRY, then GO. -/
def State.queueGo (s : State) (q : Nat) (value : Dword) : State :=
  let x := { s.queue q with entry := value }
  let e := s.slot q
  if value.getLsbD 0 = false then s.setQueue q x
  else if x.run || s.gridsOf q ≠ 0 || !e.valid then s.setQueue q { s.queue q with rej := true }
  else
    let t := Config.coreThreads + q
    let s := { s with heldPops := s.heldPops.filter fun h => h.tid ≠ t }
    (s.setQueue q { x with run := true, qctx := e.ctx }).setThread t { run := .ready, pc := value &&& ~~~3 }

/-- The start-up step after which the host port and the pod links work (R346). -/
def State.hostUp (s : State) : Bool := s.bootStep = 6
def State.podUp (s : State) : Bool := 5 ≤ s.bootStep

/-- QUEUE_GO (R285): a write of a queue's QC_QPC by the host, which is served once the device has started (R436). -/
def execQueueGo (q : Nat) (value : Dword) (s : State) : Host.Outcome State Fault Refusal :=
  if q < Config.queues && s.hostUp then .next (s.queueGo q value) else .next s

/-! ### Launch records (R281, R288, R392) -/

/-- Waves of a depth that a core holds (R52). -/
def wavesFor (depth : Nat) : Nat := min 96 (3072 * 1024 / (512 * (max depth 1)))

/-- Cores of a slot-table entry's CMASK that are in service. -/
def State.boundCores (s : State) (e : Slot) : List Nat :=
  (List.range Config.cores).filter fun c => bit e.cmask c && !(s.core c).fenced && !(s.die (dieOfCore c)).fenced

/-- Wave slots that SHARE lets a queue's crews hold on a core (R287). -/
def Slot.slots (e : Slot) : Nat := 96 * e.share / 64

def recFlag (r : List Byte) (b : Nat) : Bool := bit (recField r 42 1) b
/-- Waves that a crew places on the even core of a pair or on its only core, and on the odd core (R27). -/
def crewSplit (w : Nat) (paired : Bool) : Nat × Nat := if paired then ((w + 1) / 2, w / 2) else (w, 0)

/-- Cores, or even cores of pairs, that could ever hold one crew of a record (R288). -/
def State.couldHold (s : State) (e : Slot) (r : List Byte) : List Nat :=
  let paired := recFlag r 4
  let n := (crewSplit (recField r 34 1) paired).1
  let cs := s.boundCores e
  if n ≤ e.slots && n ≤ wavesFor (32 * recField r 35 1) then
    if paired then cs.filter fun c => c % 2 = 0 && cs.contains (c + 1) else cs
  else []

/-- Why a record is invalid: pairs of a reason and an offset (R392). -/
def State.launchOffences (s : State) (q : Nat) (r : List Byte) : List Offence :=
  let w := recField r 34 1
  let paired := recFlag r 4
  let depth := recField r 35 1
  let z := recField r 32 2
  let e := s.slot q
  let could := s.couldHold e r
  let inRange := 2 ≤ depth && depth ≤ 8 && 1 ≤ w && w ≤ (if paired then 64 else 32)
  offends (recField r 43 1 ≠ 0) 1 43 ++ offends (recField r 48 16 ≠ 0) 1 48 ++ offends (recField r 0 8 % 4 ≠ 0) 2 0
    ++ offends (2 ^ 31 ≤ recField r 24 4) 3 24 ++ offends (z % 128 ≠ 0 || 16384 < z) 3 32 ++ offends (depth < 2 || 8 < depth) 3 35
    ++ offends (1048576 < recField r 36 4) 3 36 ++ offends (64 < recField r 40 1) 3 40 ++ offends (63 < recField r 41 1) 3 41
    ++ offends (bits (recField r 42 1) 7 5 ≠ 0) 3 42 ++ offends (!recFlag r 3 && recField r 44 4 ≠ 0) 3 44
    ++ offends (w = 0 || (if paired then 64 else 32) < w) 4 34
    ++ offends (inRange && wavesFor (32 * depth) < (crewSplit w paired).1) 5 34
    ++ offends (recFlag r 1 && recFlag r 0) 6 42 ++ offends (recFlag r 2 && recFlag r 3) 7 42
    ++ offends (inRange && could = []) 8 noField
    ++ offends (inRange && recFlag r 2 && could.length = 1) 9 noField

/-- The record of an invalid launch record (R392): reason 10 before all others, then the lowest. -/
def launchCause (psn : Option Nat) (l : List Offence) : Option Cause :=
  match psn with
  | some o => some { group := 1, code := 0x11, d0 := o, d1 := 10, trap := false }
  | none =>
    (refusal 1 0 l).map fun c => { c with code := 0x11, addr := 0, trap := false }

/-! ### LAUNCH (R280) -/

/-- The handle of a queue's n-th grid, counted from 0 (R282). -/
def handleOf (q n : Nat) : Nat := q * 2 ^ 26 + n % (2 ^ 26 - 1) + 1

/-- Finished handles of a queue's program not yet popped. -/
def State.unpopped (s : State) (q : Nat) : Nat :=
  let t := Config.coreThreads + q
  (s.thread t).gdn.length + (s.heldPops.filter fun h => h.tid = t).length

/-- Whether a queue does not issue LAUNCH for now (R280, R243). -/
def State.launchStalled (s : State) (q : Nat) : Bool :=
  64 ≤ s.gridsOf q || 256 ≤ s.unpopped q || 16 ≤ (s.qcore (q / 8)).lch.length

/-- Crews of a record. -/
def crewsOf (r : List Byte) : Nat := (recField r 24 4 + 1) * (recField r 28 2 + 1) * (recField r 30 2 + 1)

/-- Pushes a valid record to lch. -/
def State.pushLaunch (s : State) (q : Nat) (r : List Byte) : State × Nat :=
  let x := s.queue q
  let h := handleOf q x.launches
  let c := s.qcore (q / 8)
  let g : Grid := { queue := q, ctx := x.qctx, record := r, order := s.uid, total := crewsOf r }
  let s := { s with grids := s.grids.put h g, uid := s.uid + 1 }
  ((s.setQueue q { x with launches := x.launches + 1 }).setQcore (q / 8) { c with lch := c.lch ++ [h] }, h)

/-- The first poisoned 8-byte granule of bytes read at a pointer. -/
def firstPoisoned (bs : List MByte) : Option Nat := (bs.findIdx? (·.2)).map fun i => i / 8 * 8

/-- A launch record that has been read: refused with D := 0 and a record at level 0 (R392), or pushed with its handle in D. -/
def takeLaunch (q t : Nat) (d : Dest) (s : State) (bs : List MByte) : LaneOut :=
  match launchCause (firstPoisoned bs) (s.launchOffences q (bs.map (·.1))) with
  | some c => .done ((s.writeDest t d 0 false).advance t) [c]
  | none => .done (((s.pushLaunch q (bs.map (·.1))).1.writeDest t d (s.pushLaunch q (bs.map (·.1))).2 false).advance t) []

/-- LAUNCH's effect: the record is read, then refused with D := 0, or pushed. -/
def launchLane (i : Instr) (s : State) (t : Nat) (a : Given) : LaneOut :=
  let q := queueOf t
  let p := a.v 0
  let insn := (encode i).toNat
  if s.launchStalled q || s.busy t then .wait
  else match s.check t 0 p 64 64 .read with
    | (s, .bad e) => .trap s (e.cause 0 p 0 32 false)
    | (s, .hostOwned page) => .stay (s.wantPage t (s.ctxOf t) p page) (hostPark page p 0 32 insn false .none)
    | (s, .ok g) =>
      let o := s.issueRead t g 64 insn
      if g.place = 3 then takeLaunch q t a.dst s (clean (s.regRead g.pa 64))
      else if g.place = 2 then
        if s.l1Has o.core o.ctx o.pa 64 then takeLaunch q t a.dst (s.l1Drop o.core o.ctx fun x => lineOf x = lineOf o.pa) (s.l1Bytes o.core o.ctx o.pa 64)
        else .stay (s.requestFill o) none
      else if !s.reachable o then .wait
      else
        let (bs, s) := s.readOp o
        takeLaunch q t a.dst s bs

/-! ### GWAIT and QSIG (R282, R283) -/

/-- GWAIT's effect. -/
def gwaitLane (s : State) (t : Nat) (a : Given) : LaneOut :=
  let q := queueOf t
  let h := a.v 0 % 2 ^ 32
  let n := h % 2 ^ 26
  if h / 2 ^ 26 ≠ q || n = 0 || (s.queue q).launches < n then .trap s { group := 1, code := 0x10, d0 := h }
  else if s.readsPending t then .wait
  else if (s.grids.look h).isSome then .done (s.park t (.gwait h)) []
  else .done (s.advance t) []

/-- QSIG's effect: after a system release, QC_SIG and vector q. -/
def qsigLane (s : State) (t : Nat) (a : Given) : LaneOut :=
  let q := queueOf t
  if s.busy t then .wait
  else match s.tryRelease 4 (coreOf t) (s.ctxOf t) with
    | (s, false) => .stay s none
    | (s, true) =>
      let x := s.queue q
      .done (((s.setQueue q { x with sigCount := x.sigCount + 1, sigValue := BitVec.ofNat 32 (a.v 0) }).raise q).advance t) []

/-! ### The dispatcher (R280, R290) -/

/-- Splits a contiguous range in proportion to weights, by rounding cumulative shares down (log 29). -/
def splitRange (first n total : Nat) : Nat → List (Nat × Nat) → List (Nat × Nat × Nat)
  | _, [] => []
  | done, (k, w) :: r =>
    let lo := n * done / total
    let hi := n * (done + w) / total
    (if lo < hi then [(k, first + lo, hi - lo)] else []) ++ splitRange first n total (done + w) r

/-- Bound cores under each of some places. -/
def weigh (cs : List Nat) (place : Nat → Nat) (ks : List Nat) : List (Nat × Nat) :=
  (ks.map fun k => (k, (cs.filter fun c => place c = k).length)).filter fun x => x.2 ≠ 0

/-- Splits a range over the clusters of a die. -/
def splitDie (cs : List Nat) (die first n : Nat) : List (Nat × Nat × Nat) :=
  let w := weigh cs clusterOf ((List.range 12).map (12 * die + ·))
  splitRange first n (w.foldl (fun m x => m + x.2) 0) 0 w

/-- Ranges of a grid's crews by cluster (R290). -/
def State.splitGrid (s : State) (g : Grid) : List (Nat × Nat × Nat) :=
  let cs := s.boundCores (s.slot g.queue)
  if cs = [] then [(0, 0, g.total)]
  else
    let w := weigh cs dieOfCore (List.range 4)
    (splitRange 0 g.total (w.foldl (fun m x => m + x.2) 0) 0 w).flatMap fun x => splitDie cs x.1 x.2.1 x.2.2

/-- The clock by which a grid's unplaced crews wait (R296; log 58): its queue core's. -/
def State.waitClock (s : State) (g : Grid) : Nat := s.etimeAt (Config.cores + g.queue / 8)

/-- LAUNCH_DISPATCH (R280): the dispatcher takes the oldest record of a queue core's lch. -/
def execLaunchDispatch (qcore : Nat) (s : State) : Host.Outcome State Fault Refusal :=
  let c := s.qcore qcore
  match c.lch with
  | [] => .next s
  | h :: r =>
    let s := s.setQcore qcore { c with lch := r }
    match s.grids.look h with
    | none => .next s
    | some g => if g.aborted then .next s else .next { s with grids := s.grids.put h { g with taken := true, ranges := s.splitGrid g, since := s.waitClock g } }

/-- A grid finishes (R148, R282): its handle goes to gdn, and GWAIT returns. -/
def State.finishGrid (s : State) (h : Nat) : State :=
  match s.grids.look h with
  | none => s
  | some g =>
    let s := { s with grids := s.grids.del h }
    let t := Config.coreThreads + g.queue
    if (s.queue g.queue).run then
      let s := s.pushPop t 12 { val := BitVec.ofNat 64 h }
      if (s.thread t).run = .parked (.gwait h) then s.unpark t else s
    else s

/-- Queue core releases, validates a launch record and pushes it to lch (R280). -/
def execLaunch (d : BitVec 6) (a : BitVec 7) (s : State) : Host.Outcome State Fault Refusal :=
  runPacket (.launch d a) false (launchLane (.launch d a)) s

/-- Parks until a grid finishes, then acquires (R282). -/
def execGwait (a : BitVec 7) (s : State) : Host.Outcome State Fault Refusal :=
  runPacket (.gwait a) false gwaitLane s

/-- System release, then QC_SIG and the queue's MSI-X vector (R283). -/
def execQsig (a : BitVec 7) (s : State) : Host.Outcome State Fault Refusal :=
  runPacket (.qsig a) false qsigLane s

end Sys2Proof.Machine
end

