-- ==== Sys2Proof/Machine/Shake.lean ====
section
/-! DEFINITION. SHAKE256 (R299, R349): the Keccak permutation on 25 lanes of 64 bits, and the sponge of rate 136 bytes. -/

namespace Sys2Proof.Shake

/-- Rotation left of a 64-bit lane. -/
def rotl (x : Dword) (n : Nat) : Dword := x.rotateLeft n

/-- The lane at x + 5y. -/
def lane (a : List Dword) (x y : Nat) : Dword := a.getD (x % 5 + 5 * (y % 5)) 0

/-- One step of the round-constant LFSR of 8 bits. -/
def lfsr (r : Nat) : Nat := if r / 128 = 1 then (2 * r) ^^^ 0x171 else 2 * r

/-- The round constant after the LFSR steps of a round, and the register after it: bit 2^j − 1 for j from 0 to 6. -/
def rcBits : Nat → Nat → Nat → Nat × Nat
  | 0, r, c => (c, r)
  | n + 1, r, c => rcBits n (lfsr r) (if r % 2 = 1 then c + 2 ^ (2 ^ (6 - n) - 1) else c)

/-- Rotation offsets by x + 5y. -/
def offsets : List Nat := [0, 1, 62, 28, 27, 36, 44, 6, 55, 20, 3, 10, 43, 25, 39, 41, 45, 15, 21, 8, 18, 2, 61, 56, 14]

def theta (a : List Dword) : List Dword :=
  let c := (List.range 5).map fun x => (List.range 5).foldl (fun v y => v ^^^ lane a x y) 0
  let d (x : Nat) : Dword := c.getD ((x + 4) % 5) 0 ^^^ rotl (c.getD ((x + 1) % 5) 0) 1
  (List.range 25).map fun i => a.getD i 0 ^^^ d (i % 5)

/-- ρ and π: the lane at (y, 2x + 3y) comes from (x, y). -/
def rhoPi (a : List Dword) : List Dword :=
  (List.range 25).map fun i =>
    let x' := i % 5
    let y' := i / 5
    let y := x'
    let x := (y' + 10 - 3 * y % 5) * 3 % 5
    rotl (lane a x y) (offsets.getD (x + 5 * y) 0)

def chi (b : List Dword) : List Dword :=
  (List.range 25).map fun i =>
    let x := i % 5
    let y := i / 5
    lane b x y ^^^ (~~~ (lane b (x + 1) y) &&& lane b (x + 2) y)

def round (a : List Dword) (rc : Nat) : List Dword :=
  match chi (rhoPi (theta a)) with
  | h :: t => (h ^^^ BitVec.ofNat 64 rc) :: t
  | [] => []

/-- Rounds of Keccak-f[1600], with the LFSR register. -/
def rounds : Nat → Nat → List Dword → List Dword
  | 0, _, a => a
  | n + 1, r, a => let (c, r') := rcBits 7 r 0; rounds n r' (round a c)

def keccakF (a : List Dword) : List Dword := rounds 24 1 a

/-- Adds a block of bytes into the state. -/
def absorb (a : List Dword) (block : List Byte) : List Dword :=
  keccakF (a.zipIdx.map fun (v, i) => v ^^^ BitVec.ofNat 64 (leNat ((block.drop (8 * i)).take 8)))

/-- Absorbs a padded message, `n` bounding its blocks. -/
def absorbAll : Nat → List Byte → List Dword → List Dword
  | 0, _, a => a
  | n + 1, m, a => if m.isEmpty then a else absorbAll n (m.drop 136) (absorb a (m.take 136))

/-- The message with the domain bits of SHAKE and the padding. -/
def pad (m : List Byte) : List Byte :=
  let k := 136 - m.length % 136
  if k = 1 then m ++ [0x9f] else m ++ [0x1f] ++ List.replicate (k - 2) 0 ++ [0x80]

/-- SHAKE256 with an output of up to 17 lanes. -/
def shakeLanes (lanes : Nat) (m : List Byte) : List Byte :=
  let p := pad m
  (absorbAll (p.length / 136 + 1) p (List.replicate 25 0)).take lanes |>.flatMap fun v => leBytes 8 v.toNat

/-- SHAKE256 with 256 bits of output (R299), and with the 512 bits of the signatures' n = 64 (R347). -/
def shake256 (m : List Byte) : List Byte := shakeLanes 4 m
def shake512 (m : List Byte) : List Byte := shakeLanes 8 m

end Sys2Proof.Shake
end

