-- ==== Sys2Proof/Machine/Crews.lean ====
section
/-! DEFINITION. Crews: placement by the distributors and stealing, a crew's start and end, SAMPLED digests, ordered reductions drained, and a grid's end (R25 to R28, R104, R289, R290, R298 to R301, R365). -/

namespace Sys2Proof.Machine

/-! ### Numbers of threads (R25, R28) -/

/-- Every mention of some threads takes another number: a wave whose slot another takes, a crew saved or placed again. -/
def State.rename (s : State) (p : Nat → Bool) (f : Nat → Nat) : State :=
  let g (t : Nat) : Nat := if p t then f t else t
  let op (o : PendOp) : PendOp := { o with tid := g o.tid, bcast := o.bcast.map fun x => (g x.1, x.2) }
  let pw (w : Nat) : Bool := p (w * 128)
  let core (c : Core) : Core :=
    { c with mxc := c.mxc.map (fun m => { m with tid := g m.tid }), tresQ := c.tresQ.map g }
  { s with
    threads := (s.threads.filter fun x => p x.1).foldl (fun (m : FMap Thread) x => m.put (f x.1) x.2) (s.threads.filter fun x => !p x.1)
    waves := (s.waves.filter fun x => pw x.1).foldl (fun (m : FMap Wave) x => m.put (f (x.1 * 128) / 128) x.2) (s.waves.filter fun x => !pw x.1)
    streams := (s.streams.filter fun x => p x.1).foldl (fun (m : FMap Stream) x => m.put (f x.1) { x.2 with tid := f x.1 }) (s.streams.filter fun x => !p x.1)
    cores := s.cores.map fun x => (x.1, core x.2)
    pend := s.pend.map op
    ops := s.ops.map fun o => { o with tid := g o.tid }
    heldPops := s.heldPops.map fun h => { h with tid := g h.tid }
    duals := s.duals.map fun d => { d with op := op d.op }
    remotes := s.remotes.map fun r => { r with op := op r.op }
    slews := s.slews.map fun w => { w with left := w.left.map g }
    hsRing := s.hsRing.map fun e => { e with tid := g e.tid }
    toHost := s.toHost.map fun e => { e with tid := g e.tid } }

/-- Whether every thread of a wave has exited: its slot is free (R28). -/
def State.waveExited (s : State) (w : Nat) : Bool := s.threads.all fun (t, x) => waveOf t ≠ w || x.run = .exited

/-- Slots of a core that a new wave may take. -/
def State.freeSlots (s : State) (core : Nat) : List Nat :=
  (List.range Config.slots).filter fun k =>
    let w := core * 96 + k
    match s.waves.look w with
    | none => true
    | some v => s.waveExited w && (s.waves.look (waveOf (savedTid v.crew (w * 128)))).isNone

/-- Clears a slot: what an exited wave's operations still name takes numbers of its own. -/
def State.evict (s : State) (w : Nat) : State :=
  match s.waves.look w with
  | none => s
  | some v => s.rename (fun t => waveOf t = w) (savedTid v.crew)

/-! ### Room on a core (R52, R287, R289) -/

/-- Bytes of register file that a wave of a grid takes. -/
def Grid.waveBytes (g : Grid) : Nat := 512 * g.depth
/-- Allocation of a record's crews on each core, in bytes (R63). -/
def Grid.allocSize (g : Grid) : Nat := (g.field 36 4 + 1023) / 1024 * 1024

/-- Crews that hold room on a core, but for some. -/
def State.holders (s : State) (core : Nat) (skip : List Nat) : List (Nat × Crew) :=
  s.crews.filter fun (k, c) => c.cores.contains core && c.run ≠ .saved && c.run ≠ .ended && !skip.contains k

/-- Whether an operation reads or writes its crew's scratchpad. -/
def EngOp.usesScratch (o : EngOp) : Bool :=
  match o.kind with
  | .copy _ => let c := parseCopy o.cmd; c.src.kind = 1 || c.dst.kind = 1
  | .gath | .scat => (parseTable o.cmd o.desc).loc.kind = 1
  | .trace | .march | .emit => false

/-- Allocations in a core's scratchpad, but for some crews': base and length. That of a saved crew stays taken while an operation still names it (R297 step 5). -/
def State.allocations (s : State) (core : Nat) (skip : List Nat) : List (Nat × Nat) :=
  let left := s.crews.filter fun (k, c) => c.cores.contains core && c.run = .saved && !skip.contains k && s.ops.any fun o => o.crew = k && o.core = core && o.usesScratch
  (s.holders core skip ++ left).map fun x => (if x.2.paired && core % 2 = 1 then x.2.base2 else x.2.base, x.2.alloc)

/-- The lowest base at which a scratchpad has a contiguous free range. -/
def gap (used : List (Nat × Nat)) (n : Nat) : Option Nat :=
  if n = 0 then some 0
  else
    let bases := (0 :: used.map fun u => u.1 + u.2).mergeSort fun a b => a ≤ b
    bases.find? fun b => b + n ≤ 2 ^ 20 && used.all fun u => u.2 = 0 || b + n ≤ u.1 || u.1 + u.2 ≤ b

/-- Tags of a core in use: those of crews there, and those that operations of crews that have left still name, until the last completes (R289, R297). -/
def State.tagsUsed (s : State) (core : Nat) (skip : List Nat) : Nat :=
  let left (o : EngOp) : Bool := skip.contains o.crew || (s.crews.look o.crew).any fun c => c.run = .saved || o.id < c.start
  (s.holders core skip).foldl (fun n x => n + x.2.ntags) 0
    + (((s.ops.filter fun o => o.tagAt = core && o.kind ≠ .emit && left o).map fun o => (o.crew, o.tag)).eraseDups).length

/-- The scratchpad base where a core has room for `n` waves of a grid (R289); crews in `skip` count as gone. -/
def State.coreRoom (s : State) (g : Grid) (core n : Nat) (skip : List Nat) : Option Nat :=
  let e := s.slot g.queue
  let ws := s.wavesOn core
  let gone := ws.filter fun x => skip.contains x.2.crew
  let stay := ws.filter fun x => !skip.contains x.2.crew
  let gridOf (v : Wave) : Option Grid := (s.crews.look v.crew).bind fun c => s.grids.look c.grid
  let file := stay.foldl (fun m x => m + ((gridOf x.2).map Grid.waveBytes).getD 0) 0
  let mine := (stay.filter fun x => (gridOf x.2).any fun h => h.queue = g.queue).length
  if e.valid && bit e.cmask core && !(s.core core).fenced && !(s.die (dieOfCore core)).fenced
      && n ≤ (s.freeSlots core).length + gone.length && file + n * g.waveBytes ≤ 3072 * 1024 && mine + n ≤ e.slots
      && s.tagsUsed core skip + g.field 40 1 ≤ 64 then
    gap (s.allocations core skip) g.allocSize
  else none

/-- Room for a crew on a core, or on the pair of an even core: the bases. -/
def State.crewRoom (s : State) (g : Grid) (core : Nat) (split : Nat × Nat) (skip : List Nat) : Option (Nat × Nat) :=
  if g.flag 4 then
    if core % 2 = 1 then none
    else match s.coreRoom g core split.1 skip, s.coreRoom g (core + 1) split.2 skip with
      | some a, some b => some (a, b)
      | _, _ => none
  else (s.coreRoom g core split.1 skip).map fun a => (a, 0)

/-- Cores of a cluster in ascending order. -/
def clusterCores (cl : Nat) : List Nat := (List.range 4).map (4 * cl + ·)

/-- Waves of a new crew of a grid on its cores (R27). -/
def Grid.split (g : Grid) : Nat × Nat := crewSplit (g.field 34 1) (g.flag 4)

/-! ### Room for a crew that resumes (R289) -/

/-- Live waves of a crew, by wave number. -/
def State.liveWaves (s : State) (k : Nat) : List (Nat × Wave) := s.waves.filter fun (w, v) => v.crew = k && !s.waveExited w

/-- The core of a pair that a wave of a crew runs on (R27). -/
def Crew.waveCore (c : Crew) (core : Nat) (index : Nat) : Nat := if c.paired && (c.waves + 1) / 2 ≤ index then core + 1 else core

def State.liveSplit (s : State) (k : Nat) (c : Crew) : Nat × Nat :=
  let l := s.liveWaves k
  let a := (l.filter fun x => c.waveCore 0 x.2.index = 0).length
  (a, l.length - a)

/-- A crew's reservations by parity: those in place with their core, and those in the save area. -/
def State.ownRecs (s : State) (k : Nat) : List (Nat × TileRec) := s.cores.flatMap fun (core, x) => (x.recs.filter fun y => y.2.crew = k).map fun y => (core, y.2)

/-- Whether a core can take back a crew's reservations and banks of one parity (R289); crews in `skip` count as pre-empted. -/
def State.takesBack (s : State) (k : Nat) (c : Crew) (core par : Nat) (skip : List Nat := []) : Bool :=
  let x := s.core core
  let own := s.ownRecs k
  let away := (own.filter fun y => y.1 ≠ core && c.parity y.1 = par).map (·.2) ++ (c.saved.recs.filter fun y => y.1 / 64 = par).map (·.2)
  let kept := (x.recs.map (·.2)).filter fun r => (!r.susp && !skip.contains r.crew) || r.crew = k
  let fit := away.foldl (fun (m : Option (List TileRec)) r =>
    match m with
    | none => none
    | some l => (findBase l r.align r.rows).map fun b => { r with base := b } :: l) (some kept)
  let banks := !c.holdsBanks.contains par || (s.bankHolders core).all fun j => j = k || skip.contains j
  fit.any (fun l => l.length ≤ 64) && banks

/-! ### Starting a crew (R25, R55, R104, R141) -/

/-- A wave that takes a slot finds no entry of an earlier one there: its ages and join-hold begin afresh (R50). -/
def State.clearSlot (s : State) (core slot : Nat) : State :=
  let c := s.core core
  s.setCore core { c with
    entries := c.entries.filter fun e => e.slot ≠ slot
    overflow := c.overflow.filter fun x => slotOf x.1 ≠ slot
    passed := c.passed.filter fun x => x.1.2.1 ≠ slot }

/-- Waves of a new crew take the lowest free slots of its cores. They are resident from one step on, so that R33 ranks them by their index (log 54, DESIGN CHOICE: R33 has no order among waves that came together). -/
def State.placeWave (s : State) (k core index entry : Nat) : State :=
  match s.freeSlots core with
  | [] => s
  | slot :: _ =>
    let w := core * 96 + slot
    let s := (s.evict w).clearSlot core slot
    let now := (s.core core).cyc.toNat
    let v : Wave := { crew := k, index := index, spillX := w, since := s.uid, last := (List.range 4).map fun p => (p, now) }
    let s := { s with waves := s.waves.put w v, uid := s.uid + 1 }
    (List.range 128).foldl (fun (s : State) l => s.setThread (w * 128 + l) { run := .ready, pc := BitVec.ofNat 64 entry }) s

/-- Zeroes an allocation (R104). -/
def State.zeroScratch (s : State) (core base n : Nat) : State := { s with scratch := s.scratch.erase 4 (core * 2 ^ 20 + base) n }

/-- Starts a crew (R28): its record, its allocation, its waves, and the acquire before its first instruction. -/
def State.startCrew (s : State) (h : Nat) (g : Grid) (index core : Nat) (bases : Nat × Nat) (copy : Nat) (twin : Option Nat) : State × Nat :=
  let k := s.uid
  let e := s.slot g.queue
  let c : Crew :=
    { grid := h, index := index, waves := g.field 34 1, core := core, paired := g.flag 4, prio := min (g.field 41 1) e.pcap, alloc := g.allocSize,
      base := bases.1, base2 := bases.2, ntags := g.field 40 1, start := k, copy := copy, twin := twin, cluster := clusterOf core }
  let s := ({ s with uid := k + 1 }).setCrew k c
  let s := c.cores.foldl (fun s x => (s.zeroScratch x (if x = core then bases.1 else bases.2) c.alloc).acquire 3 x g.ctx) s
  ((List.range c.waves).foldl (fun s i => s.placeWave k (c.waveCore core i) i (g.field 0 8)) s, k)

/-- Whether a crew of a SAMPLED grid is sampled (R299). -/
def Grid.sampled (g : Grid) (index : Nat) : Bool :=
  g.flag 3 && (rngK (BitVec.ofNat 64 index) (BitVec.ofNat 64 (g.field 44 4))).toNat % 1024 = 0

/-- A place for a crew: the core and its bases. -/
def State.findRoom (s : State) (g : Grid) (cores : List Nat) : Option (Nat × Nat × Nat) :=
  cores.findSome? fun c => (s.crewRoom g c g.split []).map fun b => (c, b.1, b.2)

/-- Whether a crew of a grid runs as two copies (R298, R299). -/
def Grid.twofold (g : Grid) (index : Nat) : Bool := g.flag 2 || g.sampled index

/-- Cores for the other copy of a crew (R298): of other clusters, or where CMASK names none there that a crew of the grid can run on, other cores of its own (log 50, DESIGN CHOICE: R299 does not say which). -/
def State.copyCores (s : State) (g : Grid) (core : Nat) : List Nat :=
  let all := s.boundCores (s.slot g.queue)
  let far := all.filter fun c => clusterOf c ≠ clusterOf core && (!g.flag 4 || (c % 2 = 0 && all.contains (c + 1)))
  if far = [] then all.filter fun c => c ≠ core && (!g.flag 4 || c / 2 ≠ core / 2) else far

/-- Places a new crew of a grid in a cluster, with its checking copy where it has one; none where there is no room. -/
def State.placeNew (s : State) (h : Nat) (g : Grid) (index cl : Nat) : Option State :=
  match s.findRoom g (clusterCores cl) with
  | none => none
  | some (core, bases) =>
    let dual := g.flag 2
    if !g.twofold index then some (s.startCrew h g index core bases 0 none).1
    else
      let (s1, k) := s.startCrew h g index core bases (if dual then 0 else 3) none
      match s1.findRoom g (s1.copyCores g core) with
      | none => none
      | some (core2, bases2) =>
        let (s2, j) := s1.startCrew h g index core2 bases2 (if dual then 1 else 2) (some k)
        match s2.crews.look k with
        | none => none
        | some c => some (s2.setCrew k { c with twin := some j })

/-! ### Placing a saved crew again (R289, R297) -/

/-- What a parked thread keeps, with its destination and its core phaser changed. -/
def Park.move (fd : Dest → Dest) (fk : Nat → Nat) (p : Park) : Park :=
  match p with
  | .waita a b d i => .waita a b (fd d) i
  | .waitaWoken a b d i => .waitaWoken a b (fd d) i
  | .tags w m d => .tags w m (fd d)
  | .counters l st c t => .counters l st c t
  | .phaser k a b d => .phaser (fk k) a b (fd d)
  | .tres r d => .tres r (fd d)
  | .trel n => .trel n
  | .spmap n d => .spmap n (fd d)
  | .spunmap n => .spunmap n
  | .gwait h => .gwait h
  | .hostshare a b c e i l d => .hostshare a b c e i l (fd d)
  | .entry a c n q l f _ => .entry a c n q l f []

def Dest.shift (lo hi : Nat) (d : Dest) : Dest :=
  match d with
  | .scratch b n => .scratch (b - lo + hi) n
  | .reg p n => .reg p n
  | .none => .none

/-- A thread as it stands apart from its core: scratchpad destinations as offsets, core phasers by number, times as lengths. -/
def Thread.unplace (x : Thread) (base etime : Nat) : Thread :=
  let fk (k : Nat) : Nat := if isDevPhaser k then k else k % 64
  { x with
    recent := [], joined := false, yieldTo := 0, phas := x.phas.map fun m => { m with key := fk m.key }
    run := match x.run with
      | .parked (.waita a b d i) => .parked (.waitaWoken a b (d.shift base 0) i)
      | .parked p => .parked (p.move (·.shift base 0) fk)
      | .converging since => .converging ((etime + 2 ^ 64 - since) % 2 ^ 64)
      | .ready => .ready
      | .exited => .exited }

/-- A saved thread on its new core. -/
def Thread.replace (x : Thread) (base holder etime : Nat) : Thread :=
  let fk (k : Nat) : Nat := if isDevPhaser k then k else corePhaser holder (k % 64)
  { x with
    phas := x.phas.map fun m => { m with key := fk m.key }
    run := match x.run with
      | .parked p => .parked (p.move (·.shift 0 base) fk)
      | .converging since => .converging ((etime + 2 ^ 64 - since) % 2 ^ 64)
      | .ready => .ready
      | .exited => .exited }

/-- A live wave of a saved crew takes a slot of its new core. -/
def State.landWave (s : State) (c : Crew) (core : Nat) (w : Nat) (v : Wave) : State :=
  let x := c.waveCore core v.index
  match s.freeSlots x with
  | [] => s
  | slot :: _ =>
    let u := x * 96 + slot
    let now := (s.core x).cyc.toNat
    let s := ((s.evict u).clearSlot x slot).rename (fun t => waveOf t = w) fun t => u * 128 + laneOf t
    let s : State := { s with
      waves := s.waves.put u { v with since := s.uid, running := false, last := (List.range 4).map fun p => (p, now) }, uid := s.uid + 1
      threads := s.threads.map fun (y : Nat × Thread) =>
        if waveOf y.1 = u then (y.1, y.2.replace (c.scratchByte x 0) core (s.core x).etime.toNat) else y }
    s.threads.foldl (fun (s : State) (y : Nat × Thread) =>
      match y.2.run with
      | .parked (.tres _ _) => if waveOf y.1 = u then let z := s.core x; s.setCore x { z with tresQ := z.tresQ ++ [y.1] } else s
      | _ => s) s

/-- Places a saved crew on a core or pair: its allocation and waves come back; the rest follows in CREW_RESUME. -/
def State.placeBack (s : State) (k : Nat) (c : Crew) (g : Grid) (core : Nat) (bases : Nat × Nat) : State :=
  let e := s.slot g.queue
  let ran := c.began
  let c := { c with
    core := core, base := bases.1, base2 := bases.2, prio := min (g.field 41 1) e.pcap, run := .resuming, start := s.uid
    began := if c.begun then ((s.core core).etime.toNat + 2 ^ 64 - ran) % 2 ^ 64 else 0 }
  let s := ({ s with uid := s.uid + 1 }).setCrew k { c with saved := { c.saved with scratch := [] } }
  let s := (c.cores.zip c.saved.scratch).foldl (fun (s : State) y =>
    { s with scratch := s.scratch.paste 4 (c.scratchByte y.1 0) c.alloc y.2 }) s
  (s.liveWaves k).foldl (fun s y => s.landWave c core y.1 y.2) s

/-- Whether a copy of a checked crew may run on a core, its other copy standing where it does (R298, R299). -/
def State.apart (s : State) (c : Crew) (g : Grid) (core : Nat) : Bool :=
  match c.twin.bind s.crews.look with
  | some d => d.run = .saved || d.run = .ended || (s.copyCores g d.core).contains core
  | none => true

/-- Whether a core, or its pair, can take back a saved crew, where it has room (R289). -/
def State.canReturn (s : State) (k : Nat) (c : Crew) (g : Grid) (core : Nat) (skip : List Nat) : Bool :=
  s.takesBack k c core 0 skip && (!c.paired || s.takesBack k c (core + 1) 1 skip) && s.apart c g core

/-- Places a saved crew in a cluster, where it finds room. -/
def State.placeSaved (s : State) (k : Nat) (c : Crew) (g : Grid) (cl : Nat) : Option State :=
  (clusterCores cl).findSome? fun core =>
    match s.crewRoom g core (s.liveSplit k c) [k] with
    | none => none
    | some b => if s.canReturn k c g core [] then some (s.placeBack k c g core b) else none

/-! ### Distributors (R290, R296) -/

/-- An unplaced crew of a cluster's distributor: a saved one, or the first of a range. -/
inductive Waiting where
  | saved (k : Nat)
  | new (h index : Nat)
  deriving DecidableEq, Repr

/-- Priority, whether it has not started, launch order, and index: the order of service. -/
structure Rank where
  prio : Nat
  fresh : Nat
  order : Nat
  index : Nat
  deriving DecidableEq, Repr

def Rank.before (a b : Rank) : Bool :=
  if a.prio ≠ b.prio then b.prio < a.prio
  else if a.fresh ≠ b.fresh then a.fresh < b.fresh
  else if a.order ≠ b.order then a.order < b.order
  else a.index ≤ b.index

/-- Effective priority of a grid's unplaced crews (R287). -/
def State.effPrio (s : State) (g : Grid) : Nat := min (g.field 41 1) (s.slot g.queue).pcap

/-- Saved crews of a cluster. -/
def State.returned (s : State) (cl : Nat) : List (Nat × Crew) := s.crews.filter fun (_, c) => c.run = .saved && c.cluster = cl

/-- The unplaced crews that a cluster serves, in its order: saved ones, and the next of each grid's range. -/
def State.waiting (s : State) (cl : Nat) : List (Rank × Waiting) :=
  let back := (s.returned cl).filterMap fun (k, c) =>
    (s.grids.look c.grid).map fun g => (({ prio := s.effPrio g, order := g.order, fresh := 0, index := c.index } : Rank), Waiting.saved k)
  let new := s.grids.filterMap fun (h, g) =>
    if !g.taken || g.aborted then none
    else match g.ranges.filter fun r => r.1 = cl with
      | [] => none
      | r :: rs =>
        let first := rs.foldl (fun m x => min m x.2.1) r.2.1
        some (({ prio := s.effPrio g, order := g.order, fresh := 1, index := first } : Rank), Waiting.new h first)
  (back ++ new).mergeSort fun a b => a.1.before b.1

/-- Takes the crew of an index out of a grid's ranges. -/
def takeIndex (l : List (Nat × Nat × Nat)) (cl i : Nat) : List (Nat × Nat × Nat) :=
  (l.map fun (c, f, n) => if c = cl && f = i then (c, f + 1, n - 1) else (c, f, n)).filter fun x => x.2.2 ≠ 0

/-- Places one unplaced crew. -/
def State.placeOne (s : State) (cl : Nat) (w : Waiting) : Option State :=
  match w with
  | .saved k =>
    match s.crews.look k with
    | none => none
    | some c => (s.grids.look c.grid).bind fun g => s.placeSaved k c g cl
  | .new h i =>
    match s.grids.look h with
    | none => none
    | some g =>
      let g' := { g with ranges := takeIndex g.ranges cl i, started := g.started + 1 }
      ({ s with grids := s.grids.put h g' }).placeNew h g' i cl

/-- CREW_PLACE (R289, R290): a cluster's distributor places the first of its unplaced crews, in their order, that has room. -/
def execCrewPlace (cluster : Nat) (s : State) : Host.Outcome State Fault Refusal :=
  .next (((s.waiting cluster).findSome? fun w => s.placeOne cluster w.2).getD s)

/-- What a cluster still has to place of a grid: saved crews, and the crews of its ranges. -/
def State.remaining (s : State) (h : Nat) (g : Grid) (cl : Nat) : Nat :=
  ((s.returned cl).filter fun x => x.2.grid = h).length + (g.ranges.filter fun r => r.1 = cl).foldl (fun n r => n + r.2.2) 0

/-- The largest remaining range among some clusters: grid, cluster. -/
def State.largest (s : State) (cls : List Nat) : Option (Nat × Nat) :=
  let all := s.grids.flatMap fun (h, g) => if !g.taken || g.aborted then [] else cls.map fun cl => (s.remaining h g cl, h, cl)
  match all.filter fun x => x.1 ≠ 0 with
  | [] => none
  | x :: r => some (r.foldl (fun m y => if m.1 < y.1 then y else m) x).2

/-- The upper half of a cluster's ranges of a grid, removed. -/
def upperHalf (l : List (Nat × Nat × Nat)) (cl : Nat) : List (Nat × Nat × Nat) × Option (Nat × Nat) :=
  match l.filter fun r => r.1 = cl with
  | [] => (l, none)
  | r :: rs =>
    let (c, f, n) := rs.foldl (fun m x => if m.2.2 < x.2.2 then x else m) r
    let k := (n + 1) / 2
    ((l.map fun x => if x = (c, f, n) then (c, f, n - k) else x).filter fun x => x.2.2 ≠ 0, some (f + (n - k), k))

/-- Takes from a victim's range: its saved crews first, else the upper half of its unstarted ones, given out by `give`. -/
def State.stealFrom (s : State) (h victim thief : Nat) (give : Nat → Nat → List (Nat × Nat × Nat)) : State :=
  let back := (s.returned victim).filter fun x => x.2.grid = h
  if back ≠ [] then back.foldl (fun (s : State) (k, c) => s.setCrew k { c with cluster := thief }) s
  else match s.grids.look h with
    | none => s
    | some g =>
      match upperHalf g.ranges victim with
      | (_, none) => s
      | (l, some (f, n)) => { s with grids := s.grids.put h { g with ranges := l ++ give f n } }

/-- Whether some core of a cluster has room for a crew of a grid. -/
def State.hasRoom (s : State) (h cl : Nat) : Bool :=
  match s.grids.look h with
  | none => false
  | some g => (s.findRoom g (clusterCores cl)).isSome

/-- CREW_STEAL (R290): a cluster with nothing to place and a core with room takes from a sibling, or its die from another die. -/
def execCrewSteal (cluster : Nat) (s : State) : Host.Outcome State Fault Refusal :=
  let die := cluster / 12
  let siblings := ((List.range 12).map (12 * die + ·)).filter (· ≠ cluster)
  let others := (List.range 48).filter fun c => c / 12 ≠ die
  if 48 ≤ cluster || !(s.waiting cluster).isEmpty then .next s
  else match s.largest siblings with
    | some (h, v) => if s.hasRoom h cluster then .next (s.stealFrom h v cluster fun f n => [(cluster, f, n)]) else .next s
    | none =>
      match s.largest others with
      | some (h, v) =>
        match s.grids.look h with
        | none => .next s
        | some g =>
          if s.hasRoom h cluster then
            .next (s.stealFrom h v cluster fun f n => splitDie (s.boundCores (s.slot g.queue)) die f n)
          else .next s
      | none => .next s

/-! ### The end of crews and grids (R28, R301, R365) -/

/-- A grid whose last crew has ended: its flush point where contributions are held (R301), else its finish. -/
def State.endOfGrid (s : State) (h : Nat) : State :=
  match s.grids.look h with
  | none => s
  | some g =>
    if !g.taken || g.started ≠ g.ended || (g.started ≠ g.total && !g.aborted) || s.crews.any (fun x => x.2.grid = h) then s
    else if s.flushes.any fun f => f.grid = h then s
    else if g.flag 0 && s.holdsContributions h then s.beginFlush h none
    else s.finishGrid h

/-- Whether anything of a crew is still running: its threads, unless it is aborted (R364), its operations, its streams (R28). -/
def State.crewBusy (s : State) (k : Nat) : Bool :=
  (!(s.crewThreads k).isEmpty && (s.crews.look k).all (·.run ≠ .aborted)) || s.ops.any (fun o => o.crew = k) || s.streams.any (fun x => x.2.crew = k)
    || s.cores.any (fun x => x.2.mxc.any fun m => m.crew = k && m.stage ≠ 2) || s.pend.any (fun o => !o.op.isPref && s.crewIdOf o.tid = some k)
    || s.duals.any fun d => d.crew = k && !d.shadow

/-- Frees what a crew holds on a core (R28, R104, R109, R110, R236, R239). -/
def State.freeOn (s : State) (k core : Nat) : State :=
  let s := s.closeShared k core
  let x := s.core core
  s.setCore core { x with
    recs := x.recs.filter fun y => y.2.crew ≠ k
    bankCrew := if x.bankCrew = some k then none else x.bankCrew
    bankTaker := if x.bankTaker = some k then none else x.bankTaker
    phasers := x.phasers.map fun y => if y.2.crew = some k then (y.1, {}) else y }

/-- Removes a crew's waves and threads. -/
def State.removeWaves (s : State) (k : Nat) : State :=
  let ws := (s.waves.filter fun x => x.2.crew = k).map (·.1)
  let mine (t : Nat) : Bool := ws.contains (waveOf t)
  { s with
    waves := s.waves.filter fun x => x.2.crew ≠ k
    threads := s.threads.filter fun x => !mine x.1
    pend := s.pend.filter fun o => !mine o.tid
    heldPops := s.heldPops.filter fun h => !mine h.tid }

/-- What the storages of a die's cores hold is lost when its domain is switched off (R343). -/
def State.powerOff (s : State) (d : Nat) : State :=
  let mine (c : Nat) : Bool := c / 48 = d
  let l1 := s.l1.filter fun (x : Nat × L1Cell) => !mine (x.1 / 2 ^ 80 / 256)
  { s.setDie d { s.die d with off := true } with
    l1 := l1, l1psn := s.l1psn.filter fun (x : Nat × Bool) => !mine (x.1 * 8 / 2 ^ 80 / 256)
    scratch := s.scratch.erase 4 (48 * d * 2 ^ 20) (48 * 2 ^ 20), tile := s.tile.erase 4 (48 * d * 2 ^ 22) (48 * 2 ^ 22)
    banks := s.banks.erase 4 (96 * d * 2 ^ 22) (96 * 2 ^ 22)
    l2 := s.l2.filter fun (x : Nat × List Nat) => x.1 / 2048 / 48 ≠ d
    replicas := s.replicas.erase 8 (d * 2 ^ 48) (2 ^ 48), replicaLines := s.replicaLines.filter fun a => a / 2 ^ 48 ≠ d
    cores := s.cores.map fun (x : Nat × Core) => if mine x.1 then (x.1, { x.2 with redbuf := [], tlb := [], lastPage := [], units := [] }) else x }

/-- Whether a crew that a fence aborts is still on a die. -/
def State.dieBusy (s : State) (d : Nat) : Bool := s.crews.any fun (_, c) => c.run ≠ .saved && c.run ≠ .ended && c.cores.any fun x => dieOfCore x = d

/-- A fenced die's domain is switched off once the crews aborted there have ended (R364, R433 step 4). -/
def State.switchOff (s : State) (d : Nat) : State := if (s.die d).fenced && !(s.die d).off && !s.dieBusy d then s.powerOff d else s

/-- Contributions held on the cores of a fenced die are lost with it (R364, R433). -/
def State.loseHeld (s : State) (d : Nat) : State :=
  { s with
    cores := s.cores.map fun (x : Nat × Core) => if dieOfCore x.1 = d then (x.1, { x.2 with redbuf := [] }) else x
    flushes := s.flushes.map fun f => { f with left := f.left.filter fun r => dieOfCore r.core ≠ d } }

/-- CREW_END (R28): a crew whose waves have exited and whose operations have completed frees everything and counts for its grid; of an aborted one steps 3 to 5 of R364 follow here. -/
def execCrewEnd (crew : Nat) (s : State) : Host.Outcome State Fault Refusal :=
  match s.crews.look crew with
  | none => .next s
  | some c =>
    if c.run = .ended || s.crewBusy crew then .next s
    else
      let s := if c.run = .aborted then s.endAborted crew else s
      let s := (s.cores.map (·.1)).foldl (fun s x => s.freeOn crew x) s
      let shadows := s.duals.filter fun d => d.crew = crew
      let s := shadows.foldl (fun (s : State) d => if d.op.op = .store then s.l1Remove d.op.core d.op.ctx d.op.pa d.op.size else s) s
      let s := ({ s with duals := s.duals.filter fun d => d.crew ≠ crew }).removeWaves crew
      let s := if 2 ≤ c.copy then s.setCrew crew { c with run := .ended, saved := {} } else { s with crews := s.crews.del crew }
      let s := match s.grids.look c.grid with
        | none => s
        | some g => if c.copy = 0 || c.copy = 3 then { s with grids := s.grids.put c.grid { g with ended := g.ended + 1 } } else s
      .next ((s.endOfGrid c.grid).switchOff (dieOfCore c.core))

/-! ### SAMPLED digests (R299, R430) -/

/-- The digest of a crew: SHAKE256 over its threads' digests in %tid order, each over the thread's writes in program order. -/
def State.crewDigest (s : State) (k waves : Nat) : List Byte :=
  let sorted (l : List ((Nat × Nat) × List Byte)) := l.mergeSort fun a b => a.1.1 < b.1.1 || (a.1.1 = b.1.1 && a.1.2 ≤ b.1.2)
  Shake.shake256 ((List.range (waves * 128)).flatMap fun i => Shake.shake256 ((sorted (s.digests.lookD (k * 2 ^ 16 + i) [])).flatMap (·.2)))

/-- SAMPLED_DIGEST_COMPARE (R299, R430): both copies of a crew have ended. -/
def execSampledDigestCompare (crew : Nat) (s : State) : Host.Outcome State Fault Refusal :=
  match s.crews.look crew with
  | none => .next s
  | some p =>
    match p.twin with
    | none => .next s
    | some j =>
      match s.crews.look j with
      | none => .next s
      | some d =>
        if p.copy ≠ 3 || p.run ≠ .ended || d.run ≠ .ended then .next s
        else
          let a := s.crewDigest crew p.waves
          let b := s.crewDigest j d.waves
          let gone : State :=
            { s with
              crews := (s.crews.del crew).del j
              digests := s.digests.filter fun (x, _) => x / 2 ^ 16 ≠ crew && x / 2 ^ 16 ≠ j
              samples := s.samples.filter fun x => x.1.1 ≠ crew }
          if a = b then .next (gone.endOfGrid p.grid)
          else
            let s := s.crewRec crew 0 8 3 (leNat (a.take 8)) (leNat (b.take 8))
            .next (({ s with crews := gone.crews, digests := gone.digests, samples := gone.samples }.noteMismatch p.core d.core).endOfGrid p.grid)

/-! ### Ordered reductions (R300, R301) -/

/-- A contribution as the operation its home performs. -/
def Contribution.op' (r : Contribution) (id : Nat) : PendOp :=
  { id := id, grp := id, tid := r.tid, core := r.core, ctx := r.ctx, op := if r.op < 16 then .atomic r.op false false false 3 else .bred (r.op = 17),
    space := r.space, ptr := r.ptr, pa := r.pa, place := r.place, size := r.size, data := leBytes r.size r.val, pc := r.pc, insn := r.insn,
    pkt := 2 ^ 61 + id, grid := r.grid }

/-- What a drained contribution comes to. -/
inductive Drained where
  | done (s : State)
  /-- It waits, and with it the later ones of its location. -/
  | later (s : State)

/-- Where a contribution to a scratchpad goes at the drain. -/
inductive DrainPlace where
  | byte (a : Nat)
  /-- A slot that is closed by then, or a single-writer violation (R107, R408). -/
  | bad (e : MemErr)
  /-- The scratchpad of a crew that has ended is gone (log 50). -/
  | gone
  /-- Its crew is saved. -/
  | later

/-- The byte of its crew's scratchpad, or of a window, that a contribution names. -/
def State.drainPlace (s : State) (r : Contribution) : DrainPlace :=
  match s.crews.find? fun x => x.2.grid = r.grid && x.2.index = r.index && x.2.copy = r.copy with
  | none => .gone
  | some (k, c) =>
    if c.run = .saved || c.run = .resuming then .later
    else if r.space = 1 then
      let core := c.waveCore c.core r.wave
      match s.singleWriter core k r.ptr (core % 4) with
      | some e => .bad e
      | none => .byte (c.scratchByte core r.ptr)
    else match s.checkWindow (tidOf r.core 0 0) r.ptr .rmw with
      | .ok g => .byte g.pa
      | .bad e => .bad e
      | .hostOwned _ => .gone

/-- A contribution that its home refuses at the drain is lost with a record, whose instruction has long issued: LEVEL 0 (log 60). -/
def State.drainFail (s : State) (o : PendOp) (e : MemErr) : State :=
  let c := e.cause o.space o.ptr 2 o.accessSize false
  s.opRec o (causeWord false false false 0 e.group e.code) (c.d0 + (if e.group = 9 then 0 else 2 ^ (laneOf o.tid % 32))) c.d1

/-- One contribution performed at its home; a remote one is sent there once its core's dirty bytes of the location have been sent back (R142); lost where the home's die is fenced (R433). -/
def State.performContribution (s : State) (r : Contribution) : Drained :=
  let o := r.op' s.uid
  let s := { s with uid := s.uid + 1 }
  if o.place = 2 then
    match s.ownSentBack o (if r.op < 16 then o.size else 64) with
    | (s, true) => .done (s.sendRem o true false)
    | (s, false) => .later s
  else if o.place = 1 then
    match s.drainPlace r with
    | .later => .later s
    | .gone => .done s
    | .bad e => .done (s.drainFail o e)
    | .byte a => .done (s.rmwAt { o with pa := a } r.op 3).1
  else if s.mapPending (lineOf r.pa) then .later s
  else match s.fencedErr r.pa with
    | some e => .done (s.drainFail o e)
    | none => .done (if r.op < 16 then (s.rmwAt o r.op 3).1 else s.bredAt o (r.op = 17))

/-- Two copies of a DUAL crew contribute alike (R298). -/
def Contribution.twinOf (a b : Contribution) : Bool :=
  a.copy ≠ b.copy && a.index = b.index && a.wave = b.wave && a.lane = b.lane && a.order = b.order

def Contribution.agrees (a b : Contribution) : Bool := a.ptr = b.ptr && a.size = b.size && a.op = b.op && a.val = b.val

/-- Why a contribution of a DUAL crew does not match: the record's CODE, D0, D1 (R428, R429). The shadow's alone counts, and so does the primary's. -/
def dualClash (all : List Contribution) (r : Contribution) : Option (Nat × Nat × Nat) :=
  match all.find? r.twinOf with
  | none => some (2, (all.filter fun x => x.index = r.index && (all.find? x.twinOf).isNone).length, 0)
  | some x => if r.agrees x then none else some (1, if r.copy = 0 then r.val else x.val, if r.copy = 0 then x.val else r.val)

/-- The contributions of a DUAL grid that its cores have drained, compared (R298, R429): each crew whose copies clash takes one record and both copies are aborted, its clashing contributions are discarded, and of every matching pair the primary's stays (log 60). -/
def State.compareDrained (s : State) (all : List Contribution) : State × List Contribution :=
  let bad := all.filter fun r => (dualClash all r).isSome
  let firsts := ((bad.map (·.index)).eraseDups).filterMap fun i => bad.find? (·.index = i)
  let s := firsts.foldl (fun s r =>
    match dualClash all r with
    | none => s
    | some (code, d0, d1) =>
      let s := s.opRec (r.op' s.uid) (causeWord true false false 2 8 code) d0 d1
      let s := match s.crews.find? fun x => x.2.grid = r.grid && x.2.index = r.index with
        | some (k, _) => s.abortPair k
        | none => s
      match code, all.find? r.twinOf with
      | 1, some x => s.noteMismatch r.core x.core
      | _, _ => s) s
  (s, all.filter fun r => r.copy = 0 && (dualClash all r).isNone)

/-- The location of a contribution, by the 64 bytes that a bin record takes. -/
def Contribution.spot (r : Contribution) : Nat × Nat := (r.place, r.pa / 64)

/-- Remote locations whose last contribution of a grid is not yet acknowledged. -/
def State.drainSent (s : State) (grid : Nat) : List (Nat × Nat) :=
  (s.remotes.filter fun x => x.wb && x.op.grid = grid && 2 ^ 61 ≤ x.op.pkt && x.op.pkt < 2 ^ 62).map fun x => (x.op.place, x.op.pa / 64)

/-- The drained contributions performed in order, each after the earlier ones of its location; those that wait stay. A SAMPLED shadow's are never performed. -/
def drainAll (grid : Nat) : List Contribution → List (Nat × Nat) → State → State × List Contribution
  | [], _, s => (s, [])
  | r :: l, held, s =>
    let keep (s : State) : State × List Contribution :=
      let (s, rest) := drainAll grid l (r.spot :: held) s
      (s, r :: rest)
    if r.copy = 2 then drainAll grid l held s
    else if held.contains r.spot || (s.drainSent grid).contains r.spot then keep s
    else match s.performContribution r with
      | .done s => drainAll grid l held s
      | .later s => keep s

/-- REDUCTION_DRAIN (R147, R301): at a grid's oldest flush point each home performs the contributions to a location in key order; after the last, the device release, then the Advance or the finish. -/
def execReductionDrain (grid : Nat) (s : State) : Host.Outcome State Fault Refusal :=
  match s.flushes.find? fun f => f.grid = grid with
  | none => .next s
  | some f =>
    let ctx := ((s.grids.look grid).map (·.ctx)).getD 0
    let mine (x : Flush) : Bool := x.grid = grid && x.phaser = f.phaser
    let (s, all) := if !f.compared && (s.grids.look grid).any (·.flag 2) then s.compareDrained f.left else (s, f.left)
    let (s, left) := drainAll grid all [] s
    if !left.isEmpty || !(s.drainSent grid).isEmpty || f.cores.any (fun c => s.unmatched c ctx) then
      .next { s with flushes := s.flushes.map fun x => if mine x then { x with compared := true, left := left } else x }
    else
      let s := f.cores.foldl (fun (s : State) c => s.release 3 c ctx) { s with flushes := s.flushes.filter fun x => !mine x }
      match f.phaser with
      | some p => .next ((s.phAdvanceNow p).endOfGrid grid)
      | none => .next (s.finishGrid grid)

end Sys2Proof.Machine
end

