-- ==== Sys2Proof/Machine/Fp.lean ====
section
/-! DEFINITION. Floating-point arithmetic, comparison, packed 16-bit, transcendental, division and conversion instructions (R186 to R193). -/

namespace Sys2Proof.Machine

/-! ### Shapes -/

/-- The rounding mode of MODE.RM (R68). -/
def modeRm (a : Given) : Rm := rmOf a.mode.toNat

def fp2 (i : Instr) (u : Bool) (f : Rm → Nat → Nat → Nat × Flags) (s : State) : Host.Outcome State Fault Refusal :=
  compute i u (fun a => f (modeRm a) (a.v 0) (a.v 1)) s
def fp3 (i : Instr) (u : Bool) (f : Rm → Nat → Nat → Nat → Nat × Flags) (s : State) : Host.Outcome State Fault Refusal :=
  compute i u (fun a => f (modeRm a) (a.v 0) (a.v 1) (a.v 2)) s
def fp1 (i : Instr) (u : Bool) (f : Rm → Nat → Nat × Flags) (s : State) : Host.Outcome State Fault Refusal :=
  compute i u (fun a => f (modeRm a) (a.v 0)) s

/-- Both 16-bit elements (R189): the flags are the OR of both. -/
def both16 (f : Nat → Nat × Flags) : Nat × Flags :=
  let lo := f 0
  let hi := f 16
  (lo.1 + hi.1 * 65536, lo.2.or hi.2)
def half (x at' : Nat) : Nat := x / 2 ^ at' % 65536
def pk2 (f : Nat → Nat → Nat × Flags) (x y : Nat) : Nat × Flags := both16 fun k => f (half x k) (half y k)
def pk3 (f : Nat → Nat → Nat → Nat × Flags) (x y z : Nat) : Nat × Flags := both16 fun k => f (half x k) (half y k) (half z k)

/-! ### FP32 (R186 to R188) -/

/-- binary32 addition, rounded by MODE.RM (R186). -/
def execFadd (u : Bool) (d : BitVec 7) (a : BitVec 7) (b : BitVec 7) (s : State) : Host.Outcome State Fault Refusal :=
  fp2 (.fadd u d a b) u (fun rm x y => f32.add rm x y) s

/-- binary32 subtraction (R186). -/
def execFsub (u : Bool) (d : BitVec 7) (a : BitVec 7) (b : BitVec 7) (s : State) : Host.Outcome State Fault Refusal :=
  fp2 (.fsub u d a b) u (fun rm x y => f32.sub rm x y) s

/-- binary32 multiplication (R186). -/
def execFmul (u : Bool) (d : BitVec 7) (a : BitVec 7) (b : BitVec 7) (s : State) : Host.Outcome State Fault Refusal :=
  fp2 (.fmul u d a b) u (fun rm x y => f32.mul rm x y) s

/-- binary32 fused multiply-add with one rounding (R186). -/
def execFma (u : Bool) (d : BitVec 7) (a : BitVec 7) (b : BitVec 7) (s : State) : Host.Outcome State Fault Refusal :=
  fp3 (.fma u d a b) u (fun rm x y z => f32.fma rm x y z) s

/-- binary32 minimum, −0 below +0 (R187). -/
def execFmin (u : Bool) (d : BitVec 7) (a : BitVec 7) (b : BitVec 7) (s : State) : Host.Outcome State Fault Refusal :=
  fp2 (.fmin u d a b) u (fun _ x y => f32.minMax false x y) s

/-- binary32 maximum (R187). -/
def execFmax (u : Bool) (d : BitVec 7) (a : BitVec 7) (b : BitVec 7) (s : State) : Host.Outcome State Fault Refusal :=
  fp2 (.fmax u d a b) u (fun _ x y => f32.minMax true x y) s

/-- binary32 addition in an explicit rounding mode (R186). -/
def execFaddRm (u : Bool) (m : BitVec 2) (d : BitVec 7) (a : BitVec 7) (b : BitVec 7) (s : State) : Host.Outcome State Fault Refusal :=
  fp2 (.faddRm u m d a b) u (fun _ x y => f32.add (rmOf m.toNat) x y) s

/-- binary32 subtraction in an explicit rounding mode (R186). -/
def execFsubRm (u : Bool) (m : BitVec 2) (d : BitVec 7) (a : BitVec 7) (b : BitVec 7) (s : State) : Host.Outcome State Fault Refusal :=
  fp2 (.fsubRm u m d a b) u (fun _ x y => f32.sub (rmOf m.toNat) x y) s

/-- binary32 multiplication in an explicit rounding mode (R186). -/
def execFmulRm (u : Bool) (m : BitVec 2) (d : BitVec 7) (a : BitVec 7) (b : BitVec 7) (s : State) : Host.Outcome State Fault Refusal :=
  fp2 (.fmulRm u m d a b) u (fun _ x y => f32.mul (rmOf m.toNat) x y) s

/-- binary32 FMA in an explicit rounding mode (R186). -/
def execFmaRm (u : Bool) (m : BitVec 2) (d : BitVec 7) (a : BitVec 7) (b : BitVec 7) (s : State) : Host.Outcome State Fault Refusal :=
  fp3 (.fmaRm u m d a b) u (fun _ x y z => f32.fma (rmOf m.toNat) x y z) s

/-- binary32 compare equal (R188). -/
def execFseteq (u : Bool) (d : BitVec 7) (a : BitVec 7) (b : BitVec 7) (s : State) : Host.Outcome State Fault Refusal :=
  fp2 (.fseteq u d a b) u (fun _ x y => f32.rel .eq x y) s

/-- binary32 compare not equal (R188). -/
def execFsetne (u : Bool) (d : BitVec 7) (a : BitVec 7) (b : BitVec 7) (s : State) : Host.Outcome State Fault Refusal :=
  fp2 (.fsetne u d a b) u (fun _ x y => f32.rel .ne x y) s

/-- binary32 compare less-than (R188). -/
def execFsetlt (u : Bool) (d : BitVec 7) (a : BitVec 7) (b : BitVec 7) (s : State) : Host.Outcome State Fault Refusal :=
  fp2 (.fsetlt u d a b) u (fun _ x y => f32.rel .lt x y) s

/-- binary32 compare less-or-equal (R188). -/
def execFsetle (u : Bool) (d : BitVec 7) (a : BitVec 7) (b : BitVec 7) (s : State) : Host.Outcome State Fault Refusal :=
  fp2 (.fsetle u d a b) u (fun _ x y => f32.rel .le x y) s

/-- binary32 compare greater-than (R188). -/
def execFsetgt (u : Bool) (d : BitVec 7) (a : BitVec 7) (b : BitVec 7) (s : State) : Host.Outcome State Fault Refusal :=
  fp2 (.fsetgt u d a b) u (fun _ x y => f32.rel .gt x y) s

/-- binary32 compare greater-or-equal (R188). -/
def execFsetge (u : Bool) (d : BitVec 7) (a : BitVec 7) (b : BitVec 7) (s : State) : Host.Outcome State Fault Refusal :=
  fp2 (.fsetge u d a b) u (fun _ x y => f32.rel .ge x y) s

/-- binary32 unordered test (R188). -/
def execFsetun (u : Bool) (d : BitVec 7) (a : BitVec 7) (b : BitVec 7) (s : State) : Host.Outcome State Fault Refusal :=
  fp2 (.fsetun u d a b) u (fun _ x y => f32.rel .un x y) s

/-- binary32 ordered test (R188). -/
def execFsetor (u : Bool) (d : BitVec 7) (a : BitVec 7) (b : BitVec 7) (s : State) : Host.Outcome State Fault Refusal :=
  fp2 (.fsetor u d a b) u (fun _ x y => f32.rel .or x y) s

/-! ### FP64 (R186 to R188) -/

/-- binary64 addition (R186). -/
def execDadd (u : Bool) (d : BitVec 7) (a : BitVec 7) (b : BitVec 7) (s : State) : Host.Outcome State Fault Refusal :=
  fp2 (.dadd u d a b) u (fun rm x y => f64.add rm x y) s

/-- binary64 subtraction (R186). -/
def execDsub (u : Bool) (d : BitVec 7) (a : BitVec 7) (b : BitVec 7) (s : State) : Host.Outcome State Fault Refusal :=
  fp2 (.dsub u d a b) u (fun rm x y => f64.sub rm x y) s

/-- binary64 multiplication (R186). -/
def execDmul (u : Bool) (d : BitVec 7) (a : BitVec 7) (b : BitVec 7) (s : State) : Host.Outcome State Fault Refusal :=
  fp2 (.dmul u d a b) u (fun rm x y => f64.mul rm x y) s

/-- binary64 fused multiply-add (R186). -/
def execDfma (u : Bool) (d : BitVec 7) (a : BitVec 7) (b : BitVec 7) (s : State) : Host.Outcome State Fault Refusal :=
  fp3 (.dfma u d a b) u (fun rm x y z => f64.fma rm x y z) s

/-- binary64 minimum (R187). -/
def execDmin (u : Bool) (d : BitVec 7) (a : BitVec 7) (b : BitVec 7) (s : State) : Host.Outcome State Fault Refusal :=
  fp2 (.dmin u d a b) u (fun _ x y => f64.minMax false x y) s

/-- binary64 maximum (R187). -/
def execDmax (u : Bool) (d : BitVec 7) (a : BitVec 7) (b : BitVec 7) (s : State) : Host.Outcome State Fault Refusal :=
  fp2 (.dmax u d a b) u (fun _ x y => f64.minMax true x y) s

/-- binary64 addition in an explicit rounding mode (R186). -/
def execDaddRm (u : Bool) (m : BitVec 2) (d : BitVec 7) (a : BitVec 7) (b : BitVec 7) (s : State) : Host.Outcome State Fault Refusal :=
  fp2 (.daddRm u m d a b) u (fun _ x y => f64.add (rmOf m.toNat) x y) s

/-- binary64 subtraction in an explicit rounding mode (R186). -/
def execDsubRm (u : Bool) (m : BitVec 2) (d : BitVec 7) (a : BitVec 7) (b : BitVec 7) (s : State) : Host.Outcome State Fault Refusal :=
  fp2 (.dsubRm u m d a b) u (fun _ x y => f64.sub (rmOf m.toNat) x y) s

/-- binary64 multiplication in an explicit rounding mode (R186). -/
def execDmulRm (u : Bool) (m : BitVec 2) (d : BitVec 7) (a : BitVec 7) (b : BitVec 7) (s : State) : Host.Outcome State Fault Refusal :=
  fp2 (.dmulRm u m d a b) u (fun _ x y => f64.mul (rmOf m.toNat) x y) s

/-- binary64 FMA in an explicit rounding mode (R186). -/
def execDfmaRm (u : Bool) (m : BitVec 2) (d : BitVec 7) (a : BitVec 7) (b : BitVec 7) (s : State) : Host.Outcome State Fault Refusal :=
  fp3 (.dfmaRm u m d a b) u (fun _ x y z => f64.fma (rmOf m.toNat) x y z) s

/-- binary64 compare equal (R188). -/
def execDseteq (u : Bool) (d : BitVec 7) (a : BitVec 7) (b : BitVec 7) (s : State) : Host.Outcome State Fault Refusal :=
  fp2 (.dseteq u d a b) u (fun _ x y => f64.rel .eq x y) s

/-- binary64 compare not equal (R188). -/
def execDsetne (u : Bool) (d : BitVec 7) (a : BitVec 7) (b : BitVec 7) (s : State) : Host.Outcome State Fault Refusal :=
  fp2 (.dsetne u d a b) u (fun _ x y => f64.rel .ne x y) s

/-- binary64 compare less-than (R188). -/
def execDsetlt (u : Bool) (d : BitVec 7) (a : BitVec 7) (b : BitVec 7) (s : State) : Host.Outcome State Fault Refusal :=
  fp2 (.dsetlt u d a b) u (fun _ x y => f64.rel .lt x y) s

/-- binary64 compare less-or-equal (R188). -/
def execDsetle (u : Bool) (d : BitVec 7) (a : BitVec 7) (b : BitVec 7) (s : State) : Host.Outcome State Fault Refusal :=
  fp2 (.dsetle u d a b) u (fun _ x y => f64.rel .le x y) s

/-- binary64 compare greater-than (R188). -/
def execDsetgt (u : Bool) (d : BitVec 7) (a : BitVec 7) (b : BitVec 7) (s : State) : Host.Outcome State Fault Refusal :=
  fp2 (.dsetgt u d a b) u (fun _ x y => f64.rel .gt x y) s

/-- binary64 compare greater-or-equal (R188). -/
def execDsetge (u : Bool) (d : BitVec 7) (a : BitVec 7) (b : BitVec 7) (s : State) : Host.Outcome State Fault Refusal :=
  fp2 (.dsetge u d a b) u (fun _ x y => f64.rel .ge x y) s

/-- binary64 unordered test (R188). -/
def execDsetun (u : Bool) (d : BitVec 7) (a : BitVec 7) (b : BitVec 7) (s : State) : Host.Outcome State Fault Refusal :=
  fp2 (.dsetun u d a b) u (fun _ x y => f64.rel .un x y) s

/-- binary64 ordered test (R188). -/
def execDsetor (u : Bool) (d : BitVec 7) (a : BitVec 7) (b : BitVec 7) (s : State) : Host.Outcome State Fault Refusal :=
  fp2 (.dsetor u d a b) u (fun _ x y => f64.rel .or x y) s

/-! ### PK16 (R189) -/

/-- Packed binary16 addition (R189). -/
def execHadd2F16 (u : Bool) (d : BitVec 7) (a : BitVec 7) (b : BitVec 7) (s : State) : Host.Outcome State Fault Refusal :=
  fp2 (.hadd2F16 u d a b) u (fun rm x y => pk2 (f16.add rm) x y) s

/-- Packed binary16 multiplication (R189). -/
def execHmul2F16 (u : Bool) (d : BitVec 7) (a : BitVec 7) (b : BitVec 7) (s : State) : Host.Outcome State Fault Refusal :=
  fp2 (.hmul2F16 u d a b) u (fun rm x y => pk2 (f16.mul rm) x y) s

/-- Packed binary16 fused multiply-add (R189). -/
def execHfma2F16 (u : Bool) (d : BitVec 7) (a : BitVec 7) (b : BitVec 7) (s : State) : Host.Outcome State Fault Refusal :=
  fp3 (.hfma2F16 u d a b) u (fun rm x y z => pk3 (f16.fma rm) x y z) s

/-- Packed bfloat16 addition (R189). -/
def execHadd2Bf16 (u : Bool) (d : BitVec 7) (a : BitVec 7) (b : BitVec 7) (s : State) : Host.Outcome State Fault Refusal :=
  fp2 (.hadd2Bf16 u d a b) u (fun rm x y => pk2 (bf16.add rm) x y) s

/-- Packed bfloat16 multiplication (R189). -/
def execHmul2Bf16 (u : Bool) (d : BitVec 7) (a : BitVec 7) (b : BitVec 7) (s : State) : Host.Outcome State Fault Refusal :=
  fp2 (.hmul2Bf16 u d a b) u (fun rm x y => pk2 (bf16.mul rm) x y) s

/-- Packed bfloat16 fused multiply-add (R189). -/
def execHfma2Bf16 (u : Bool) (d : BitVec 7) (a : BitVec 7) (b : BitVec 7) (s : State) : Host.Outcome State Fault Refusal :=
  fp3 (.hfma2Bf16 u d a b) u (fun rm x y z => pk3 (bf16.fma rm) x y z) s

/-! ### TRANS (R190, R191) -/

/-- binary32 reciprocal within 1 ulp (R190). -/
def execRcpF32 (u : Bool) (d : BitVec 7) (a : BitVec 7) (s : State) : Host.Outcome State Fault Refusal :=
  fp1 (.rcpF32 u d a) u (fun _ x => f32.rcp 0 x) s

/-- binary32 reciprocal square root (R190). -/
def execRsqF32 (u : Bool) (d : BitVec 7) (a : BitVec 7) (s : State) : Host.Outcome State Fault Refusal :=
  fp1 (.rsqF32 u d a) u (fun _ x => f32.rsq 1 x) s

/-- Correctly rounded binary32 square root (R190). -/
def execSqrtF32 (u : Bool) (d : BitVec 7) (a : BitVec 7) (s : State) : Host.Outcome State Fault Refusal :=
  fp1 (.sqrtF32 u d a) u (fun rm x => f32.sqrt rm x) s

/-- binary32 base-2 exponential (R190). -/
def execExp2 (u : Bool) (d : BitVec 7) (a : BitVec 7) (s : State) : Host.Outcome State Fault Refusal :=
  fp1 (.exp2 u d a) u (fun _ x => exp2F32 x) s

/-- binary32 base-2 logarithm (R190). -/
def execLog2 (u : Bool) (d : BitVec 7) (a : BitVec 7) (s : State) : Host.Outcome State Fault Refusal :=
  fp1 (.log2 u d a) u (fun _ x => log2F32 x) s

/-- binary32 sine in radians (R190). -/
def execSin (u : Bool) (d : BitVec 7) (a : BitVec 7) (s : State) : Host.Outcome State Fault Refusal :=
  fp1 (.sin u d a) u (fun _ x => trigF32 false x) s

/-- binary32 cosine in radians (R190). -/
def execCos (u : Bool) (d : BitVec 7) (a : BitVec 7) (s : State) : Host.Outcome State Fault Refusal :=
  fp1 (.cos u d a) u (fun _ x => trigF32 true x) s

/-- binary64 reciprocal (R190). -/
def execRcpF64 (u : Bool) (d : BitVec 7) (a : BitVec 7) (s : State) : Host.Outcome State Fault Refusal :=
  fp1 (.rcpF64 u d a) u (fun _ x => f64.rcp 7 x) s

/-- binary64 reciprocal square root (R190). -/
def execRsqF64 (u : Bool) (d : BitVec 7) (a : BitVec 7) (s : State) : Host.Outcome State Fault Refusal :=
  fp1 (.rsqF64 u d a) u (fun _ x => f64.rsq 8 x) s

/-- Correctly rounded binary64 square root (R190). -/
def execSqrtF64 (u : Bool) (d : BitVec 7) (a : BitVec 7) (s : State) : Host.Outcome State Fault Refusal :=
  fp1 (.sqrtF64 u d a) u (fun rm x => f64.sqrt rm x) s

/-- The quotient and remainder of R191: by zero the quotient is all ones, the remainder the dividend, and DZ is set. -/
def divide (signed rem : Bool) (a b : Word) : Nat × Flags :=
  if b = 0 then ((if rem then a else 0xffffffff).toNat, { dz := true })
  else if signed && a = 0x80000000 && b = 0xffffffff then ((if rem then 0 else a).toNat, {})
  else if signed then
    let q := Int.tdiv a.toInt b.toInt
    (trunc (if rem then a.toInt - q * b.toInt else q) 32, {})
  else (if rem then a.toNat % b.toNat else a.toNat / b.toNat, {})

/-- Signed 32-bit division truncated toward zero (R191). -/
def execIdivI32 (u : Bool) (d : BitVec 7) (a : BitVec 7) (b : BitVec 7) (s : State) : Host.Outcome State Fault Refusal :=
  compute (.idivI32 u d a b) u (fun x => divide true false (w32 x 0) (w32 x 1)) s

/-- Unsigned 32-bit division (R191). -/
def execIdivN32 (u : Bool) (d : BitVec 7) (a : BitVec 7) (b : BitVec 7) (s : State) : Host.Outcome State Fault Refusal :=
  compute (.idivN32 u d a b) u (fun x => divide false false (w32 x 0) (w32 x 1)) s

/-- Signed 32-bit remainder (R191). -/
def execIremI32 (u : Bool) (d : BitVec 7) (a : BitVec 7) (b : BitVec 7) (s : State) : Host.Outcome State Fault Refusal :=
  compute (.iremI32 u d a b) u (fun x => divide true true (w32 x 0) (w32 x 1)) s

/-- Unsigned 32-bit remainder (R191). -/
def execIremN32 (u : Bool) (d : BitVec 7) (a : BitVec 7) (b : BitVec 7) (s : State) : Host.Outcome State Fault Refusal :=
  compute (.iremN32 u d a b) u (fun x => divide false true (w32 x 0) (w32 x 1)) s

/-! ### Conversions (R192, R193) -/

/-- What a type code names (R160): an integer of a width and signedness, or a format. -/
inductive CvtType where
  | int (w : Nat) (signed : Bool)
  | flt (f : Fmt)
  deriving DecidableEq, Repr

def cvtType (t : Nat) : CvtType :=
  if t = 8 then .flt f16 else if t = 9 then .flt bf16 else if t = 10 then .flt f32 else if t = 11 then .flt f64
  else .int (8 * 2 ^ (t % 4)) (t < 4)

/-- The nearest value of an integer type, and whether the value was in range. -/
def clampInt (w : Nat) (signed : Bool) (x : Int) : Int × Bool :=
  let lo : Int := if signed then -(2 ^ (w - 1)) else 0
  let hi : Int := if signed then 2 ^ (w - 1) - 1 else 2 ^ w - 1
  if x < lo then (lo, false) else if hi < x then (hi, false) else (x, true)

/-- An integer result in its destination: 8 and 16 bits are extended to 32 (R192). -/
def intBits (w : Nat) (x : Int) : Nat := trunc x (if w = 64 then 64 else 32)

/-- A NaN of one format in another (R72, R193): quiet, sign kept, high payload bits kept. -/
def Fmt.nanTo (f g : Fmt) (x : Nat) : Nat :=
  let fr := f.quiet x % 2 ^ f.m
  g.withSign (f.neg x) (g.infBits + (if f.m ≤ g.m then fr * 2 ^ (g.m - f.m) else fr / 2 ^ (f.m - g.m)))

/-- The conversion of R193. -/
def convert (dst src : CvtType) (rm : Rm) (x : Nat) : Nat × Flags :=
  match src, dst with
  | .int w sg, .int w' sg' =>
    let v : Int := if sg then signExtend x w else (x % 2 ^ w : Nat)
    (intBits w' (clampInt w' sg' v).1, {})
  | .int w sg, .flt g =>
    let v : Int := if sg then signExtend x w else (x % 2 ^ w : Nat)
    g.roundInt rm v 0 false
  | .flt f, .int w sg =>
    match f.decode x with
    | .nan _ => (0, { nv := true })
    | .inf n => (intBits w (clampInt w sg (if n then -(2 ^ 64) else 2 ^ 64)).1, { nv := true })
    | .fin n m e =>
      let (k, inexact) := roundAt rm n m e 0
      let (y, ok) := clampInt w sg (if n then -(k : Int) else k)
      (intBits w y, if ok then { nx := inexact } else { nv := true })
  | .flt f, .flt g =>
    let x := x % (2 * f.signBit)
    if f.isNaN x then (if f = g then f.quiet x else f.nanTo g x, { nv := f.isSNaN x })
    else if f = g then (x, {})
    else match f.decode x with
      | .inf n => (g.withSign n g.infBits, {})
      | .fin n m e => g.round rm n m e
      | .nan _ => (g.defaultNaN, {})

/-- The rounding field of a conversion (R160). -/
def cvtRm (r : Nat) (a : Given) : Rm := if r < 4 then modeRm a else rmOf r

/-- Converts between non-FP64 types (R193). -/
def execCvt (u : Bool) (d : BitVec 7) (a : BitVec 7) (t : BitVec 4) (s : BitVec 4) (r : BitVec 3) (σ : State) : Host.Outcome State Fault Refusal :=
  compute (.cvt u d a t s r) u (fun x => convert (cvtType t.toNat) (cvtType s.toNat) (cvtRm r.toNat x) (x.v 0)) σ

/-- Converts where at least one type is .f64 (R193). -/
def execCvtd (u : Bool) (d : BitVec 7) (a : BitVec 7) (t : BitVec 4) (s : BitVec 4) (r : BitVec 3) (σ : State) : Host.Outcome State Fault Refusal :=
  compute (.cvtd u d a t s r) u (fun x => convert (cvtType t.toNat) (cvtType s.toNat) (cvtRm r.toNat x) (x.v 0)) σ

end Sys2Proof.Machine
end

