-- ==== Sys2Proof/Machine/Geometry.lean ====
section
/-! DEFINITION. The arithmetic of rays and samples: exact binary values, box and triangle tests (R316 to R322), marching and hash-grid features (R325 to R327). -/

namespace Sys2Proof.Machine

/-! ### Exact values -/

/-- The exact value v × 2^e. -/
structure Dy where
  v : Int
  e : Int := 0
  deriving DecidableEq, Repr

namespace Dy

/-- The mantissa of a value on a lower exponent. -/
def on (x : Dy) (e : Int) : Int := x.v * 2 ^ (x.e - e).toNat
def add (x y : Dy) : Dy := let e := min x.e y.e; ⟨x.on e + y.on e, e⟩
def neg (x : Dy) : Dy := ⟨-x.v, x.e⟩
def sub (x y : Dy) : Dy := x.add y.neg
def mul (x y : Dy) : Dy := ⟨x.v * y.v, x.e + y.e⟩
def lt (x y : Dy) : Bool := let e := min x.e y.e; x.on e < y.on e
/-- An exact value rounded into a format; an exact zero is +0. -/
def round (f : Fmt) (rm : Rm) (x : Dy) : Nat := (f.roundInt rm x.v x.e false).1
/-- x / y to 100 bits with a last bit that stands for every lower one: rounding it rounds the exact quotient. -/
def quot (x y : Dy) : Dy :=
  let k := Nat.log2 y.v.natAbs + 100
  let n := x.v.natAbs * 2 ^ k
  let q := n / y.v.natAbs * 2 + (if n % y.v.natAbs = 0 then 0 else 1)
  ⟨if (x.v < 0) = (y.v < 0) then q else -(q : Int), x.e - y.e - k - 1⟩
/-- Floor(x / y) for y > 0. -/
def floorDiv (x y : Dy) : Int := let e := min x.e y.e; Int.fdiv (x.on e) (y.on e)
/-- The exact value of a finite pattern. -/
def of (f : Fmt) (x : Nat) : Dy :=
  match f.decode x with
  | .fin n m e => ⟨if n then -(m : Int) else m, e⟩
  | .nan _ => ⟨0, 0⟩
  | .inf _ => ⟨0, 0⟩

end Dy

/-- Numeric order of binary32 patterns that are no NaN. -/
def key32 (x : Nat) : Int := if f32.neg x then -(f32.mag x : Int) else f32.mag x
def finite32 (x : Nat) : Bool := f32.mag x < f32.infBits
/-- The least binary32 value above a finite one (R326). -/
def nextAbove (x : Nat) : Nat := if f32.mag x = 0 then 1 else if f32.neg x then x - 1 else x + 1

/-! ### Rays (R271, R275) -/

/-- A ray: origin and direction by axis, and its range, in binary32. -/
structure Ray where
  o : List Nat
  d : List Nat
  tmin : Nat
  tmax : Nat
  deriving DecidableEq, Repr

def Ray.oAt (r : Ray) (a : Nat) : Nat := r.o.getD a 0
def Ray.dAt (r : Ray) (a : Nat) : Nat := r.d.getD a 0

/-- Rays that end at once as a miss (R271, R318). -/
def Ray.dead (r : Ray) : Bool :=
  !(r.o ++ r.d).all finite32 || f32.isNaN r.tmin || f32.isNaN r.tmax || key32 r.tmax < key32 r.tmin || r.d.all fun x => f32.mag x = 0

/-! ### The box test (R318) -/

/-- (x − o) / d rounded, x being a bound that may be infinite. -/
def slab (rm : Rm) (x : FVal) (o d : Nat) : Nat :=
  match x with
  | .inf n => f32.withSign (n != f32.neg d) f32.infBits
  | .fin n m e => (((Dy.mk (if n then -(m : Int) else m) e).sub (Dy.of f32 o)).quot (Dy.of f32 d)).round f32 rm
  | .nan _ => 0

/-- Whether a bound is at most a finite value, and at least. -/
def boundLe (x : FVal) (o : Nat) : Bool :=
  match x with
  | .inf n => n
  | .fin n m e => !(Dy.of f32 o).lt ⟨if n then -(m : Int) else m, e⟩
  | .nan _ => false
def boundGe (x : FVal) (o : Nat) : Bool :=
  match x with
  | .inf n => !n
  | .fin n m e => !(Dy.mk (if n then -(m : Int) else m) e).lt (Dy.of f32 o)
  | .nan _ => false

def max32 (x y : Nat) : Nat := if key32 x < key32 y then y else x
def min32 (x y : Nat) : Nat := if key32 y < key32 x then y else x

/-- The interval of a box against a range (R318): [tn, tf], or none where it is empty. -/
def boxRange (lo hi : List FVal) (r : Ray) (tmin tmax : Nat) : Option (Nat × Nat) :=
  let near := (List.range 3).foldl (fun (x : Option (Nat × Nat)) a =>
    match x with
    | none => none
    | some (n, f) =>
      let l := lo.getD a (.nan false)
      let h := hi.getD a (.nan false)
      let o := r.oAt a
      let d := r.dAt a
      if f32.mag d ≠ 0 then
        let (p, q) := if f32.neg d then (h, l) else (l, h)
        some (max32 n (slab .rdn p o d), min32 f (slab .rup q o d))
      else if boundLe l o && boundGe h o then some (n, f)
      else none) (some (f32.withSign true f32.infBits, f32.infBits))
  match near with
  | none => none
  | some (n, f) =>
    let n := max32 n tmin
    let f := min32 f tmax
    if key32 n ≤ key32 f then some (n, f) else none

/-! ### Nodes (R316, R317) -/

def byteOf (b : List Byte) (i : Nat) : Nat := (b.getD i 0).toNat

/-- Why an internal node is malformed: the reason of R422. -/
def nodeFault (b : List Byte) : Option Nat :=
  let ck (i : Nat) : Nat := byteOf b (88 + i)
  let cs := List.range 8
  let empty (i : Nat) : Bool := ck i % 4 = 0
  if byteOf b 15 ≠ 0 || leNat (b.drop 96) ≠ 0 || cs.any (fun i => !empty i && 4 ≤ ck i) then some 1
  else if cs.any fun i => !empty i && (List.range 3).any fun a => byteOf b (40 + 6 * i + 3 + a) < byteOf b (40 + 6 * i + a) then some 2
  else if cs.any fun i => empty i && (ck i ≠ 0 || leNat ((b.drop (24 + 2 * i)).take 2) ≠ 0 || leNat ((b.drop (40 + 6 * i)).take 6) ≠ 0) then some 3
  else if (List.range 3).any fun a => !finite32 (leNat ((b.drop (4 * a)).take 4)) then some 4
  else none

def leafFault (b : List Byte) : Option Nat :=
  if 16 ≤ byteOf b 161 || leNat (b.drop 162) ≠ 0 then some 1
  else if byteOf b 160 = 0 || 4 < byteOf b 160 then some 5
  else none

/-- A bound of child `i` on an axis, rounded outward into binary32. -/
def nodeBound (b : List Byte) (i a : Nat) (hi : Bool) : FVal :=
  let o := Dy.of f32 (leNat ((b.drop (4 * a)).take 4))
  let e := signExtend (byteOf b (12 + a)) 8
  let q := byteOf b (40 + 6 * i + (if hi then 3 else 0) + a)
  f32.decode ((o.add ⟨(q : Int), e⟩).round f32 (if hi then .rup else .rdn))

/-- The children of a node that a ray hits: KIND, entry, child number and 64-byte offset, in the order of R319. -/
def hitChildren (b : List Byte) (r : Ray) (tmax : Nat) : List (Nat × Nat × Nat) :=
  let l := (List.range 8).filterMap fun i =>
    let k := byteOf b (88 + i) % 4
    if k = 0 then none
    else (boxRange ((List.range 3).map fun a => nodeBound b i a false) ((List.range 3).map fun a => nodeBound b i a true) r r.tmin tmax).map
      fun x => (k, x.1, leNat ((b.drop (24 + 2 * i)).take 2))
  l.mergeSort fun x y => key32 x.2.1 ≤ key32 y.2.1

/-! ### The triangle test (R320 to R322) -/

/-- A triangle hit: u, v and FACE. -/
structure TriHit where
  u : Nat
  v : Nat
  face : Bool
  deriving DecidableEq, Repr

def Dy.sign (x : Dy) : Int := if x.v < 0 then -1 else if x.v = 0 then 0 else 1

/-- A value of the triangle test's arithmetic: exact, or an infinity that an overflow of R73 leaves, or not a number. -/
inductive Ext where
  | fin (x : Dy)
  | inf (neg : Bool)
  | nan
  deriving DecidableEq, Repr

namespace Ext

/-- The value of a pattern. -/
def of (f : Fmt) (x : Nat) : Ext :=
  match f.decode x with
  | .fin .. => .fin (Dy.of f x)
  | .inf n => .inf n
  | .nan _ => .nan
/-- RoundF32 and RoundF64 of R320, RNE. -/
def round (f : Fmt) : Ext → Ext
  | .fin x => of f (x.round f .rne)
  | .inf n => .inf n
  | .nan => .nan
def neg : Ext → Ext
  | .fin x => .fin x.neg
  | .inf n => .inf !n
  | .nan => .nan
/-- Its sign, 0 also where it is not a number. -/
def sign : Ext → Int
  | .fin x => x.sign
  | .inf n => if n then -1 else 1
  | .nan => 0
def add : Ext → Ext → Ext
  | .fin x, .fin y => .fin (x.add y)
  | .inf n, .inf m => if n = m then .inf n else .nan
  | .nan, _ => .nan
  | _, .nan => .nan
  | .inf n, .fin _ => .inf n
  | .fin _, .inf n => .inf n
def sub (x y : Ext) : Ext := x.add y.neg
def mul (x y : Ext) : Ext :=
  match x, y with
  | .fin x, .fin y => .fin (x.mul y)
  | .nan, _ => .nan
  | _, .nan => .nan
  | x, y => if x.sign * y.sign = 0 then .nan else .inf (decide (x.sign * y.sign < 0))
/-- RoundF32(x / y) as a pattern, y not zero; none where IEEE 754 gives no number. -/
def quot32 (x y : Ext) : Option Nat :=
  match x, y with
  | .fin x, .fin y => some ((x.quot y).round f32 .rne)
  | .fin _, .inf _ => some 0
  | .inf n, .fin y => some (if n = decide (y.v < 0) then f32.infBits else f32.withSign true f32.infBits)
  | _, _ => none
/-- The exact value of a finite one. -/
def exact : Ext → Dy
  | .fin x => x
  | .inf _ => ⟨0, 0⟩
  | .nan => ⟨0, 0⟩

end Ext

/-- A vertex in sheared space. -/
structure Sheared where
  x : Ext
  y : Ext
  z : Ext

/-- Edge of R320. -/
def edgeFn (p q : Sheared) : Ext :=
  let e := (((p.x.mul q.y).round f32).sub ((p.y.mul q.x).round f32)).round f32
  match e with
  | .fin d => if d.v ≠ 0 then e else ((p.x.mul q.y).sub (p.y.mul q.x)).round f64
  | _ => e

/-- Whether a zero edge from p to q is owned (R321): its vertices are finite. -/
def ownedEdge (σ : Int) (p q : Sheared) : Bool :=
  let ex := (q.x.sub p.x).exact.sign * σ
  let ey := (q.y.sub p.y).exact.sign * σ
  0 < ey || (ey = 0 && 0 < ex)

/-- The sheared vertex of R320. -/
def shear (kx ky kz : Nat) (sx sy sz : Ext) (r : Ray) (p : List Nat) : Sheared :=
  let q (a : Nat) : Ext := ((Ext.of f32 (p.getD a 0)).sub (Ext.of f32 (r.oAt a))).round f32
  ⟨((q kx).sub (sx.mul (q kz))).round f32, ((q ky).sub (sy.mul (q kz))).round f32, (sz.mul (q kz)).round f32⟩

/-- What a triangle test comes to before the discards. -/
inductive TriRes where
  | miss
  /-- t, u, v, each none where its quotient is no number (log 28), and FACE. -/
  | hit (t u v : Option Nat) (face : Bool)
  /-- An edge function is not a number, and the others do not decide the test: R321 states no result (log 28). -/
  | odd

def triTest (r : Ray) (a b c : List Nat) : TriRes :=
  let m (i : Nat) : Nat := f32.mag (r.dAt i)
  let kz := if m 1 ≤ m 0 && m 2 ≤ m 0 then 0 else if m 2 ≤ m 1 then 1 else 2
  let kx := (kz + 1) % 3
  let ky := (kx + 1) % 3
  let (kx, ky) := if f32.neg (r.dAt kz) then (ky, kx) else (kx, ky)
  let dz := Dy.of f32 (r.dAt kz)
  let div (n : Dy) : Ext := (Ext.fin (n.quot dz)).round f32
  let sh := shear kx ky kz (div (Dy.of f32 (r.dAt kx))) (div (Dy.of f32 (r.dAt ky))) (div ⟨1, 0⟩) r
  let (a, b, c) := (sh a, sh b, sh c)
  let (u, v, w) := (edgeFn c b, edgeFn a c, edgeFn b a)
  let signs := [u.sign, v.sign, w.sign]
  let det := (u.add v).add w
  let σ := det.sign
  let ok (e : Ext) (p q : Sheared) : Bool := if e.sign = 0 then ownedEdge σ p q else e.sign = σ
  if signs.contains 1 && signs.contains (-1) then .miss
  else if det = .nan then .odd
  else if σ = 0 || !(ok u b c && ok v c a && ok w a b) then .miss
  else .hit ((((u.mul a.z).add (v.mul b.z)).add (w.mul c.z)).quot32 det) (v.quot32 det) (w.quot32 det) (decide (0 < σ))

/-- A vertex of a leaf's triangle (R317). -/
def leafVertex (b : List Byte) (j m : Nat) : List Nat := (List.range 3).map fun a => leNat ((b.drop (36 * j + 12 * m + 4 * a)).take 4)

/-- The hit of slot `j` of a leaf after the discards of R322: t, u, v and FACE. What no rule states of a test is taken from `Config.oddTriangle` (log 28). -/
def leafHit (r : Ray) (tmax : Nat) (cullf cullb : Bool) (b : List Byte) (j : Nat) : Option (Nat × TriHit) :=
  let vs := (List.range 3).map (leafVertex b j)
  let n := Config.oddTriangle (r.o ++ r.d ++ vs.flatten)
  let free (i : Nat) (x : Option Nat) : Nat := x.getD (n / 2 ^ i % 2 ^ 32)
  let h : Option (Nat × TriHit) := match triTest r (vs.getD 0 []) (vs.getD 1 []) (vs.getD 2 []) with
    | .miss => none
    | .hit t u v face => some (free 1 t, { u := free 33 u, v := free 65 v, face := face })
    | .odd => if n % 2 = 0 then none else some (free 1 none, { u := free 33 none, v := free 65 none, face := n / 2 ^ 97 % 2 = 1 })
  h.filter fun (t, h) =>
    !(f32.isNaN t || key32 t < key32 r.tmin || key32 tmax < key32 t || (cullf && !h.face) || (cullb && h.face))

/-! ### Marching (R325, R326) -/

/-- An occupancy descriptor (R325). -/
structure Occ where
  bits' : Nat
  lo : List Nat
  cell : Nat
  rlog : Nat
  nlev : Nat
  off : List Nat
  deriving DecidableEq, Repr

def fieldAt (b : List Byte) (i n : Nat) : Nat := leNat ((b.drop i).take n)

def parseOcc (b : List Byte) : Occ :=
  { bits' := fieldAt b 0 8, lo := (List.range 3).map (fun a => fieldAt b (8 + 4 * a) 4), cell := fieldAt b 20 4, rlog := fieldAt b 24 1,
    nlev := fieldAt b 25 1, off := (List.range 8).map fun m => fieldAt b (32 + 4 * m) 4 }

def Occ.loAt (g : Occ) (a : Nat) : Dy := Dy.of f32 (g.lo.getD a 0)
/-- The edge of a level-m cell. -/
def Occ.edge (g : Occ) (m : Nat) : Dy := let c := Dy.of f32 g.cell; ⟨c.v, c.e + m⟩

/-- The exact box of the grid. -/
def Occ.box (g : Occ) : List FVal × List FVal :=
  let up (x : Dy) : FVal := .fin (decide (x.v < 0)) x.v.natAbs x.e
  ((List.range 3).map (fun a => up (g.loAt a)), (List.range 3).map fun a => up ((g.loAt a).add (g.edge g.rlog)))

/-- p of R326: one rounding per axis, which may be infinite. -/
def pointAt (r : Ray) (t a : Nat) : Nat := ((Dy.of f32 (r.oAt a)).add ((Dy.of f32 t).mul (Dy.of f32 (r.dAt a)))).round f32 .rne

/-- The cell at p on level m (R326). -/
def Occ.cellAt (g : Occ) (m : Nat) (p : Nat) (a : Nat) : Nat :=
  let n : Int := 2 ^ (g.rlog - m)
  match f32.decode p with
  | .inf s => if s then 0 else (n - 1).toNat
  | .nan _ => 0
  | .fin _ _ _ => (max 0 (min (((Dy.of f32 p).sub (g.loAt a)).floorDiv (g.edge m)) (n - 1))).toNat

/-- The byte and bit of a cell (R325). -/
def Occ.place (g : Occ) (m : Nat) (c : List Nat) : Nat × Nat :=
  let n := 2 ^ (g.rlog - m)
  let b := c.getD 0 0 + n * (c.getD 1 0 + n * c.getD 2 0)
  (g.off.getD m 0 + b / 8, b % 8)

/-- RoundUp32 of the least exact t at which the ray leaves a level-m cell. -/
def Occ.leaves (g : Occ) (m : Nat) (c : List Nat) (r : Ray) : Nat :=
  (List.range 3).foldl (fun t a =>
    let d := r.dAt a
    if f32.mag d = 0 then t
    else
      let k : Int := (c.getD a 0 : Int) + (if f32.neg d then 0 else 1)
      let w := (g.loAt a).add ((g.edge m).mul ⟨k, 0⟩)
      min32 t (((w.sub (Dy.of f32 (r.oAt a))).quot (Dy.of f32 d)).round f32 .rup)) f32.infBits

/-! ### Features (R327) -/

/-- A hash-grid descriptor (R327). -/
structure HashGrid where
  tbl : Nat
  lo : List Nat
  ext : Nat
  tlog : Nat
  res : List Nat
  deriving DecidableEq, Repr

def parseGrid (b : List Byte) : HashGrid :=
  { tbl := fieldAt b 0 8, lo := (List.range 3).map (fun a => fieldAt b (8 + 4 * a) 4), ext := fieldAt b 20 4, tlog := fieldAt b 24 1,
    res := (List.range 16).map fun l => fieldAt b (32 + 2 * l) 2 }

def gridIndex (g : HashGrid) (l : Nat) (c : List Nat) : Nat :=
  let n := g.res.getD l 0 + 1
  let x := c.getD 0 0
  let y := c.getD 1 0
  let z := c.getD 2 0
  if n ^ 3 ≤ 2 ^ g.tlog then x + n * (y + n * z)
  else
    let h := (x * 0xa24baed5 % 2 ^ 32) ^^^ (y * 0x7c153e89 % 2 ^ 32) ^^^ (z * 0xe3d96b27 % 2 ^ 32)
    (h ^^^ h / 2 ^ 15) % 2 ^ g.tlog

/-- The cell index and weight of a point on an axis of a level. -/
def gridCoord (g : HashGrid) (l : Nat) (p a : Nat) : Nat × Dy :=
  let res := g.res.getD l 0
  let s : Nat := match f32.decode p with
    | .inf n => f32.withSign n f32.infBits
    | .nan _ => 0
    | .fin _ _ _ => ((((Dy.of f32 p).sub (Dy.of f32 (g.lo.getD a 0))).mul ⟨(res : Int), 0⟩).quot (Dy.of f32 g.ext)).round f32 .rne
  let top : Dy := ⟨(res : Int), 0⟩
  let v : Dy := if f32.neg s || f32.mag s = 0 then ⟨0, 0⟩ else if !finite32 s || top.lt (Dy.of f32 s) then top else Dy.of f32 s
  let i := min (v.floorDiv ⟨1, 0⟩).toNat (res - 1)
  (i, v.sub ⟨(i : Int), 0⟩)

/-- The eight corners of a point on a level: index and exact weight. -/
def gridCorners (g : HashGrid) (l : Nat) (p : List Nat) : List (Nat × Dy) :=
  let cs := (List.range 3).map fun a => gridCoord g l (p.getD a 0) a
  (List.range 8).map fun k =>
    let b (a : Nat) : Bool := bit' k a
    let c := (List.range 3).map fun a => (cs.getD a (0, ⟨0, 0⟩)).1 + (b a).toNat
    let w := (List.range 3).foldl (fun (w : Dy) a => let x := (cs.getD a (0, ⟨0, 0⟩)).2; w.mul (if b a then x else (⟨1, 0⟩ : Dy).sub x)) ⟨1, 0⟩
    (gridIndex g l c, w)
where
  /-- Bit `a` of a corner number. -/
  bit' (k a : Nat) : Bool := k / 2 ^ a % 2 = 1

/-- f_k of R327 from the corners' weights and bfloat16 features. -/
def feature (ws : List Dy) (fs : List Nat) : Nat :=
  let l := ws.zip (fs.map bf16.decode)
  let nan := l.any fun (w, f) => match f with
    | .nan _ => true
    | .inf _ => w.v = 0
    | .fin _ _ _ => false
  let pos := l.any fun (_, f) => f = .inf false
  let neg := l.any fun (_, f) => f = .inf true
  if nan || (pos && neg) then bf16.defaultNaN
  else if pos then bf16.infBits
  else if neg then bf16.withSign true bf16.infBits
  else
    let s := l.foldl (fun (x : Dy) (w, f) => match f with
      | .fin n m e => x.add (w.mul ⟨if n then -(m : Int) else m, e⟩)
      | .nan _ => x
      | .inf _ => x) ⟨0, 0⟩
    s.round bf16 .rne

end Sys2Proof.Machine
end

