-- ==== Sys2Proof/Machine/Traversal.lean ====
section
/-! DEFINITION. The traversal unit: TRACE, TDEC, rays and candidates (R270 to R274, R315 to R324, R422, R423). -/

namespace Sys2Proof.Machine

/-! ### Ray areas (R270, R271) -/

def rayOf (b : List Byte) : Ray :=
  { o := (List.range 3).map (fun a => fld b (4 * a) 4), tmin := fld b 12 4, d := (List.range 3).map (fun a => fld b (16 + 4 * a) 4), tmax := fld b 28 4 }
def rayCtl (b : List Byte) : Nat := fld b 40 4

/-- The offences of a ray area (R271). -/
def rayOffences (b : List Byte) (wrong : Bool) : List Offence :=
  offends (bits (rayCtl b) 23 7 ≠ 0) 2 40 ++ scopeOffence (bits (rayCtl b) 6 4) 40 ++ offends wrong 8 noField

/-- Rays in flight of a core (R243). -/
def State.raysOn (s : State) (core : Nat) : Nat := (s.ops.filter fun o => o.core = core && o.kind = .trace).length

/-- One lane of TRACE. -/
def traceLane (i : Instr) (tag : Nat) (f : Bool) (s : State) (t : Nat) (a : Given) : LaneOut :=
  let p := a.v 0
  let insn := (encode i).toNat
  if 2048 ≤ s.raysOn (coreOf t) then .wait
  else engineLane 6 256 256 insn (some tag) s t p fun s b wrong offs =>
    refuseOr 6 p s (offs ++ rayOffences b wrong)
      (.done ((s.acceptEng { s.newEng t .trace tag p insn (b.take 64) with flag := f }).advance t) [])

/-! ### Hits (R322, R323) -/

/-- Order of hits with one t (R323): leaf pointer, then slot. -/
def lowerHit (a b : Nat) : Bool := a / 64 < b / 64 || (a / 64 = b / 64 && a % 4 < b % 4)

/-- An accepted hit becomes the closest, or replaces it at the same t where its leaf and slot are lower. -/
def RayState.accept (x : RayState) (h : RayHit) : RayState :=
  let better : Bool := match x.hit with
    | none => true
    | some b => key32 h.t < key32 x.tmax || (key32 h.t = key32 x.tmax && lowerHit h.leaf b.leaf)
  if better then { x with hit := some h, tmax := h.t } else x

/-- A hit that is accepted at once; with TFIRST the ray then ends. -/
def RayState.take (x : RayState) (first : Bool) (h : RayHit) : RayState :=
  let x := x.accept h
  if first then { x with work := [] } else x

/-! ### Nodes read (R315, R324, R422) -/

/-- Where the first failing unit of a node read fails. -/
inductive NodeRead where
  | ok (bs : List Byte)
  /-- CODE of R422 and D1. -/
  | bad (code d1 : Nat)

/-- Reads pieces of a node that lie in one 8-byte unit each, up to the first that fails or is poisoned. Its record replaces the engine record (R422). -/
def EngRun.readUnits : List (Nat × Nat) → EngRun → EngRun × Except (Nat × Nat) (List Byte)
  | [], r => (r, .ok [])
  | (ptr, n) :: l, r =>
    let (r1, bs) := { r with faults := [] }.readUnit ptr n
    let r2 := { r1 with faults := r.faults }
    match r1.faults with
    | f :: _ => (r2, .error (f.err.group, f.err.code))
    | [] =>
      if bs.any (·.2) && !r2.gap then
        match r.place ptr n .read with
        | (_, some tr) => (r2, .error (10, r.s.viewCode (r.o.access (.load false) ptr n tr)))
        | (_, none) => (r2, .error (10, 5))
      else
        match EngRun.readUnits l r2 with
        | (r3, .ok m) => (r3, .ok (bs.map (·.1) ++ m))
        | (r3, .error e) => (r3, .error e)

/-- Reads a range of a node. -/
def EngRun.readPart (r : EngRun) (ptr n : Nat) : EngRun × Except (Nat × Nat) (List Byte) := EngRun.readUnits (pieces (n / 8 + 2) ptr n) r.group

/-- Whether 64 bytes of a node lie in a PLAIN or COMPRESSED page of this device; a failed translation is left to the read. -/
def EngRun.nodePage (r : EngRun) (ptr : Nat) : Bool :=
  match r.s.translateEngine r.o.core r.o.ctx ptr 8 .read with
  | (_, .ok tr) => tr.remote.isNone && !inRegs tr.pa && (tr.cls = 0 || tr.cls = 3)
  | (_, .error _) => true

/-- Whether a node of `n` bytes is misaligned or in a page of another class (R315). -/
def EngRun.nodeAstray (r : EngRun) (ptr n : Nat) : Bool :=
  ptr % 64 ≠ 0 || !(List.range (n / 64)).all (fun k => r.nodePage (ptrAdd ptr (64 * k : Nat)))

/-- Reads an internal node (R316): 16 units. -/
def EngRun.readInner (r : EngRun) (ptr : Nat) : EngRun × NodeRead :=
  if r.nodeAstray ptr 128 then (r, .bad 2 6)
  else match r.readPart ptr 128 with
    | (r, .error (g, c)) => (r, .bad 3 (g * 65536 + c))
    | (r, .ok bs) =>
      match nodeFault bs with
      | some d => (r, .bad 2 d)
      | none => (r, .ok bs)

/-- Reads a leaf (R317): its last 32 bytes, then the slots below CNT; 0 stands for what it does not read. It takes the numbers of its 22 units. -/
def EngRun.readLeaf (r : EngRun) (ptr : Nat) : EngRun × NodeRead :=
  let num := r.num + 22
  if r.nodeAstray ptr 192 then (r, .bad 2 6)
  else match r.readPart (ptrAdd ptr 160) 32 with
    | (r, .error (g, c)) => (r, .bad 3 (g * 65536 + c))
    | (r, .ok tail) =>
      match leafFault (List.replicate 160 0 ++ tail) with
      | some d => (r, .bad 2 d)
      | none =>
        let n := 36 * (tail.headD 0).toNat
        match r.readPart ptr n with
        | (r, .error (g, c)) => (r, .bad 3 (g * 65536 + c))
        | (r, .ok bs) => ({ r with num := num }, .ok (bs ++ List.replicate (160 - n) 0 ++ tail))

/-! ### Nodes read ahead of their turn (R144, R324) -/

/-- The number of a unit read ahead: its node's place in the ray's work from the bottom, its pointer, and the unit in the order in which the node's reads are numbered. -/
def aheadKey (depth ptr unit : Nat) : Nat := 2 ^ 40 + (depth * 2 ^ 64 + ptr) * 64 + unit

/-- Where the unit of a node lies: none where the node has no such unit. -/
def nodeUnit (kind unit : Nat) : Option Nat :=
  if kind = 2 then (if unit < 4 then some (160 + 8 * unit) else if unit < 22 then some (8 * (unit - 4)) else none)
  else if kind = 1 && unit < 16 then some (8 * unit)
  else none

/-- A node comes to its turn: the units of it read ahead are reads of it. One that is not visited has none. -/
def EngRun.useAhead (r : EngRun) (depth ptr : Nat) (visit : Bool) : EngRun :=
  let mine := (List.range 22).filterMap fun u => (r.o.seen.look (aheadKey depth ptr u)).map fun x => (u, x)
  let seen := mine.foldl (fun (m : FMap Seen) y =>
    let m := m.del (aheadKey depth ptr y.1)
    if !visit || (m.look (r.num + y.1)).isSome then m else m.put (r.num + y.1) y.2) r.o.seen
  { r with o := { r.o with seen := seen } }

/-- Aimed at a unit of a node that its ray's work holds at a place, a run that comes to no end reads that unit, where it finds no fault, no poison and nothing to wait for: the aim's number is 2^32 + 64 × place + unit. -/
def EngRun.readAhead (r : EngRun) : EngRun :=
  match r.aim with
  | none => r
  | some a =>
    let depth := (a.num - 2 ^ 32) / 64
    let node : Option (Nat × Nat) := match r.o.ray.work.reverse[depth]? with
      | some (RayWork.node kind _ ptr) => some (kind, ptr)
      | _ => none
    match node with
    | none => r
    | some (kind, ptr) =>
      match nodeUnit kind (a.num % 64) with
      | none => r
      | some off =>
        if a.num < 2 ^ 32 || r.got.isSome || r.nodeAstray ptr (if kind = 2 then 192 else 128) then r
        else
          let (x, bs) := { r with s := a.s, faults := [], stop := none }.readNow (ptrAdd ptr (off : Nat)) 8
          { r with got := some { s := x.s, seen := { bytes := bs, faults := x.faults }, writes := false, stop := x.stop, key := some (aheadKey depth ptr (a.num % 64)) } }.ahead r

/-! ### A ray's run (R273, R319) -/

/-- Where a run stops. -/
inductive RayStop where
  /-- Traversal has finished. -/
  | ended
  /-- A candidate is offered. -/
  | candidate (kind : Nat) (h : RayHit)
  /-- A malformed node or a failed read: CODE, D0, D1 (R422). -/
  | lost (code d0 d1 : Nat)
  /-- The bound of one event's work: traversal goes on in a later one. -/
  | more
  deriving DecidableEq, Repr

/-- Traversal from a ray's work until it stops, at most `n` visits. -/
def EngRun.traverse : Nat → EngRun → EngRun × RayStop
  | 0, r => (r, .more)
  | n + 1, r =>
    let b := r.o.cmd
    let ray := rayOf b
    let ctl := rayCtl b
    let opq := bit ctl 0
    let first := bit ctl 1
    let x := r.o.ray
    let set (r : EngRun) (x : RayState) : EngRun := { r with o := { r.o with ray := x } }
    match x.work with
    | [] => (r, .ended)
    | .leaf p j bs :: w =>
      if byteOf bs 160 ≤ j then traverse n (set r { x with work := w })
      else
        let rest := { x with work := .leaf p (j + 1) bs :: w }
        match leafHit ray x.tmax (bit ctl 3) (bit ctl 2) bs j with
        | none => traverse n (set r rest)
        | some (t, h) =>
          let hit : RayHit := { t := t, u := h.u, v := h.v, leaf := p + h.face.toNat * 4 + j }
          if opq || bit (byteOf bs 161) j then traverse n (set r (rest.take first hit))
          else (set r rest, .candidate 1 hit)
    | .node k entry p :: w =>
      let rest := { x with work := w }
      let r := r.useAhead w.length p (decide (key32 entry ≤ key32 x.tmax))
      if key32 x.tmax < key32 entry then traverse n (set r rest)
      else if k = 3 then
        if p % 64 ≠ 0 then (r, .lost 2 p 6)
        else
          let hit : RayHit := { t := entry, leaf := p }
          if opq then traverse n (set r (rest.take first hit)) else (set r rest, .candidate 2 hit)
      else if k = 2 then
        match r.readLeaf p with
        | (r, .bad c d) => (r, if r.gap then .more else .lost c p d)
        | (r, .ok bs) => if r.gap then (r, .more) else traverse n (set r { rest with work := .leaf p 0 bs :: w })
      else
        match r.readInner p with
        | (r, .bad c d) => (r, if r.gap then .more else .lost c p d)
        | (r, .ok bs) =>
          if r.gap then (r, .more)
          else
            let cs := (hitChildren bs ray x.tmax).map fun c => RayWork.node c.1 c.2.1 (ptrAdd (fld bs 16 8) (64 * c.2.2 : Nat))
            traverse n (set r { rest with work := cs ++ w })

/-- Visits that one event makes at most. -/
def rayBound : Nat := 65536

/-- The ray set up for its traversal: a dead ray has nothing to visit (R271, R318). -/
def EngOp.startRay (o : EngOp) : EngOp :=
  if o.ray.started then o
  else
    let r := rayOf o.cmd
    { o with ray := { o.ray with started := true, tmax := r.tmax, work := if r.dead then [] else [.node 1 r.tmin (fld o.cmd 32 8)] } }

/-- Whether a thread's candidates are decided as continue: it has exited (R273), or its crew is aborted (R423). -/
def State.rayAlone (s : State) (o : EngOp) : Bool := (s.thread o.tid).run = .exited || (s.crews.look o.crew).any fun c => c.run = .aborted

/-- The run of a ray to its next stop; candidates of a thread that has exited are rejected on the way. -/
def EngRun.runRay : Nat → EngRun → EngRun × RayStop
  | 0, r => (r, .more)
  | n + 1, r =>
    if r.o.ray.lost then (r, .lost 4 0 0)
    else match r.traverse rayBound with
    | (r, .candidate k h) => if r.s.rayAlone r.o then runRay n r else (r, .candidate k h)
    | x => x

/-! ### Records written by the unit (R271, R272) -/

/-- Pointer to a ray's hit record. -/
def EngOp.hitPtr (o : EngOp) : Nat := ptrAdd o.ptr 64

def hitRecord (o : EngOp) (kind : Nat) (t u v leaf : Nat) : List Byte :=
  leBytes 4 t ++ leBytes 4 u ++ leBytes 4 v ++ leBytes 8 leaf ++ leBytes 1 kind ++ leBytes 3 0 ++ (o.cmd.drop 44).take 4 ++ leBytes 8 o.ptr
    ++ List.replicate 28 0

/-- Whether a ray can go on: its crew runs or has ended, it is not suspended on a candidate of a live thread, it has not spilled. -/
def State.rayGoes (s : State) (o : EngOp) : Bool :=
  o.kind = .trace && o.ray.spill.isNone && !o.ray.done && (o.ray.cand.isNone || s.rayAlone o)
    && (s.crews.look o.crew).all fun c => c.run ≠ .saved

/-- The record of a ray that is lost (R422). -/
def State.rayRec (s : State) (o : EngOp) (code d0 d1 : Nat) : State :=
  s.opRec (o.access (.load false) o.ptr 64 { pa := 0 }) (causeWord false false false 0 6 code) d0 d1

/-- Writes a ray's results (R273 step 4): STATUS, the accepted hit, and with F = 1 the final hit record, whose fields on a miss the manual leaves open (log 22). -/
def EngRun.writeResults (r : EngRun) (status : Nat) (keep : Bool) : EngRun :=
  let o := r.o
  let g := r.gap
  let put (r : EngRun) (p : Nat) (bs : List Byte) : EngRun := (r.after g).write p (clean bs)
  let hit := if keep then none else o.ray.hit
  let r := match hit with
    | some h => put (put r (ptrAdd o.ptr 28) (leBytes 4 h.t)) (ptrAdd o.ptr 48) (leBytes 4 h.u ++ leBytes 4 h.v ++ leBytes 8 h.leaf)
    | none => r
  let r := put r (ptrAdd o.ptr 43) [BitVec.ofNat 8 status]
  if !o.flag then r
  else match hit with
    | some h => put r o.hitPtr (hitRecord o 3 h.t h.u h.v h.leaf)
    | none =>
      let (ws, s) := r.s.freeWords 5
      let w (i : Nat) : Nat := (ws.getD i 0).toNat
      put { r with s := s } o.hitPtr (hitRecord o 4 (w 0) (w 1) (w 2) (w 3 + 2 ^ 32 * w 4))

/-- What the unit writes where a run stops: a candidate's hit record, or a ray's results. -/
def EngRun.writeStop (r : EngRun) (stop : RayStop) : EngRun :=
  match stop with
  | .candidate kind h => r.write r.o.hitPtr (clean (hitRecord r.o kind h.t h.u h.v h.leaf))
  | .lost code d0 d1 => { r with s := r.s.rayRec r.o code d0 d1 }.writeResults 4 true
  | .ended => r.writeResults (if r.o.ray.term then 3 else if r.o.ray.hit.isSome then 2 else 1) false
  | .more => r

/-- The run of a ray from an event, with what it writes where it stops. -/
def State.rayRun (s : State) (o : EngOp) (aim : Option EngAim := none) : EngRun × RayStop :=
  let o := o.startRay
  let (r, stop) := EngRun.runRay 64 (s.engRun { o with ray := { o.ray with cand := none } } aim)
  ((if stop = .more then r.readAhead else r).writeStop stop, stop)

/-- A ray refills from its ray area (R270): where a program has changed it the ray is lost (R422). -/
def State.refillRay (s : State) (o : EngOp) : State :=
  match o.ray.spill with
  | none => s
  | some bs =>
    let (r, got) := (s.engRun o).read (ptrAdd o.ptr 128) 128
    if r.stop.isSome then s
    else
      let same := r.faults = [] && got.all (!·.2) && got.map (·.1) = bs
      r.s.setEng { r.kept with ray := { o.ray with spill := none, lost := !same } }

/-- RAY_CANDIDATE (R273): the ray runs to its next candidate, writes the hit record, pushes its pointer and is suspended. -/
def execRayCandidate (op : Nat) (s : State) : Host.Outcome State Fault Refusal :=
  match s.findEng op with
  | none => .next s
  | some o =>
    if !s.rayGoes o then .next s
    else
      let (r, stop) := s.rayRun o
      match r.stop, stop with
      | some w, _ => .next (s.engWait o w)
      | none, .candidate kind h =>
        .next ((r.logFaults.setEng { r.kept with ray := { r.o.ray with cand := some (kind, h) } }).pushPop o.tid 7 { val := BitVec.ofNat 64 o.hitPtr, src := o.id })
      | none, .more => .next (r.s.setEng r.kept)
      | none, .lost .. => .next s
      | none, .ended => .next s

/-- Completes a ray whose results have been written (R244): release, tag, and the final entry. -/
def State.finishRay (s : State) (o : EngOp) : State :=
  match s.completeEng o (bits (rayCtl o.cmd) 6 4) with
  | (s, false) => s
  | (s, true) => if o.flag then s.pushPop o.tid 7 { val := BitVec.ofNat 64 o.hitPtr, src := o.id } else s

/-- RAY_COMPLETE (R273): the ray runs to its end, writes its results and completes. -/
def execRayComplete (op : Nat) (s : State) : Host.Outcome State Fault Refusal :=
  match s.findEng op with
  | none => .next s
  | some o =>
    if o.kind = .trace && o.ray.done then .next (s.finishRay o)
    else if o.ray.spill.isSome && (s.crews.look o.crew).any (fun c => c.run = .aborted) then .next (s.refillRay o) -- R423: it runs to its end
    else if !s.rayGoes o then .next s
    else
      let (r, stop) := s.rayRun o
      let ends : State :=
        let o := { r.kept with ray := { r.o.ray with done := true } }
        (r.logFaults.setEng o).finishRay o
      match r.stop, stop with
      | some w, _ => .next (s.engWait o w)
      | none, .candidate _ _ => .next s
      | none, .more => .next (r.s.setEng r.kept)
      | none, .lost .. => .next ends
      | none, .ended => .next ends

/-! ### Decisions (R274) -/

/-- The ray of a thread that is suspended on a hit record's candidate. -/
def State.suspendedRay (s : State) (t p : Nat) : Option EngOp :=
  s.ops.find? fun o => o.kind = .trace && o.tid = t && o.ray.cand.isSome && o.hitPtr = p

/-- The decision takes effect on the ray: `h` where the candidate is accepted, and whether the ray ends. -/
def EngOp.decide (o : EngOp) (h : Option RayHit) (term : Bool) : EngOp :=
  let x := { o.ray with cand := none }
  let x := match h with
    | some h => x.take (bit (rayCtl o.cmd) 1) h
    | none => x
  { o with ray := if term then { x with work := [], term := true } else x }

/-- One lane of TDEC: `acc` accepts the candidate, `term` also ends the ray. T of an intersection candidate is read from its record. -/
def tdecLane (i : Instr) (acc term : Bool) (s : State) (t : Nat) (a : Given) : LaneOut :=
  let p := a.v 0
  let fail (r : Nat) : LaneOut := refuseOr 6 p s [(r, noField)] .wait
  if s.busy t then .wait
  else if p % 64 ≠ 0 then fail 1
  else match s.suspendedRay t p with
    | none => fail 7
    | some o =>
      match o.ray.cand with
      | none => fail 7
      | some (kind, h) =>
        if !acc then .done ((s.setEng (o.decide none term)).advance t) []
        else if kind = 1 then .done ((s.setEng (o.decide (some h) term)).advance t) []
        else
          engineLane 6 4 4 (encode i).toNat none s t p fun s b _ offs =>
            refuseOr 6 p s offs
              (let tb := fld b 0 4
              let ok := !f32.isNaN tb && key32 (rayOf o.cmd).tmin ≤ key32 tb && key32 tb ≤ key32 o.ray.tmax
              .done ((s.setEng (o.decide (if ok then some { h with t := tb } else none) term)).advance t) [])

/-- Pushes a ray into the traversal unit (R273). -/
def execTrace (a : BitVec 7) (t : BitVec 6) (f : Bool) (s : State) : Host.Outcome State Fault Refusal :=
  runPacket (.trace a t f) false (traceLane (.trace a t f) t.toNat f) s

/-- Rejects a ray candidate and resumes traversal (R274). -/
def execTdecCont (a : BitVec 7) (s : State) : Host.Outcome State Fault Refusal :=
  runPacket (.tdecCont a) false (tdecLane (.tdecCont a) false false) s

/-- Accepts a ray candidate (R274). -/
def execTdecAcc (a : BitVec 7) (s : State) : Host.Outcome State Fault Refusal :=
  runPacket (.tdecAcc a) false (tdecLane (.tdecAcc a) true false) s

/-- Accepts a candidate and terminates the ray (R274). -/
def execTdecTerm (a : BitVec 7) (s : State) : Host.Outcome State Fault Refusal :=
  runPacket (.tdecTerm a) false (tdecLane (.tdecTerm a) true true) s

end Sys2Proof.Machine
end

