-- ==== Sys2Proof/Machine/Preempt.lean ====
section
/-! DEFINITION. Pre-emption: its causes, the save, the restoration, its failures, and the crew watchdog (R50, R102, R109, R110, R296, R297, R407, R409, R426, R427). -/

namespace Sys2Proof.Machine

/-! ### Causes (R296, R407) -/

/-- The context of a crew, and ETIME of its core. -/
def State.crewCtx (s : State) (c : Crew) : Nat := ((s.grids.look c.grid).map (·.ctx)).getD 0
def State.crewTime (s : State) (c : Crew) : Nat := (s.core c.core).etime.toNat

/-- A pre-emption begins (R297 step 1). -/
def State.beginPreempt (s : State) (k : Nat) : State :=
  match s.crews.look k with
  | none => s
  | some c => if c.run = .running then s.setCrew k { c with run := .stopping, stopAt := s.crewTime c } else s

/-- Whether a crew holds an open window (R407). -/
def State.holdsWindow (s : State) (k : Nat) : Bool := s.cores.any fun x => x.2.windows.any fun y => y.2.v && y.2.crew = k

/-- Crews on some cores that a priority may remove, in the order of removal. -/
def State.victims (s : State) (cores : List Nat) (p : Nat) : List Nat :=
  let l := s.crews.filter fun (k, c) => c.run = .running && c.cores.any cores.contains && c.prio + 8 ≤ p && !s.holdsWindow k
  (l.mergeSort fun a b => a.2.prio < b.2.prio || (a.2.prio = b.2.prio && b.2.start ≤ a.2.start)).map (·.1)

/-- The shortest part of a list whose removal satisfies a test. -/
def shortest (test : List Nat → Bool) : List Nat → List Nat → Option (List Nat)
  | acc, [] => if test acc then some acc else none
  | acc, x :: r => if test acc then some acc else shortest test (acc ++ [x]) r

/-- Crews on some cores whose pre-emption has begun: their room counts as free. -/
def State.leaving (s : State) (cores : List Nat) : List Nat :=
  (s.crews.filter fun (_, c) => c.run = .stopping && c.cores.any cores.contains).map (·.1)

/-- Whether a waiting crew has room on a core, for each of its copies where it is a new crew that runs as two; one of them is on `core`. Crews in `skip` count as gone. -/
def State.fits (s : State) (cl : Nat) (w : Waiting) (g : Grid) (core : Nat) (skip : List Nat) : Bool :=
  match w with
  | .new _ i =>
    let room (c : Nat) : Bool := (s.crewRoom g c g.split skip).isSome
    if !g.twofold i then room core
    else (core :: clusterCores cl).any fun c => room c && (s.copyCores g c).any fun d => (c = core || d = core) && room d
  | .saved k => match s.crews.look k with
    | none => false
    | some c => (s.crewRoom g core (s.liveSplit k c) (k :: skip)).isSome && s.canReturn k c g core skip

/-- What the dispatcher removes so that a waiting crew can be placed: the fewest crews on the lowest-numbered core of its CMASK where that is possible, none where the crews already leaving make room. -/
def State.removal (s : State) (cl : Nat) (r : Rank) (w : Waiting) : List Nat :=
  let look : Option Grid := match w with
    | .new h _ => s.grids.look h
    | .saved k => (s.crews.look k).bind fun c => s.grids.look c.grid
  match look with
  | none => []
  | some g =>
    let cores (core : Nat) : List Nat := if g.flag 4 then [core, core + 1] else [core]
    let all := s.boundCores (s.slot g.queue)
    let gone := s.leaving all
    if all.any fun core => s.fits cl w g core gone then []
    else (all.findSome? fun core => shortest (fun skip => s.fits cl w g core (gone ++ skip)) [] (s.victims (cores core) r.prio)).getD []

/-- How long an unplaced crew has waited, in ps (R296). -/
def State.waited (s : State) (w : Waiting) : Nat :=
  match w with
  | .new h _ => match s.grids.look h with
    | some g => elapsed (s.waitClock g) g.since
    | none => 0
  | .saved k => match s.crews.look k with
    | some c => match s.grids.look c.grid with
      | some g => elapsed (s.waitClock g) c.since
      | none => 0
    | none => 0

/-- PREEMPT_DISPATCHER (R296): a crew has waited 20 µs unplaced, and crews at least 8 priorities below it are pre-empted. -/
def execPreemptDispatcher (cluster : Nat) (s : State) : Host.Outcome State Fault Refusal :=
  let due := (s.waiting cluster).filter fun w => 20 * 10 ^ 6 ≤ s.waited w.2 && (s.placeOne cluster w.2).isNone
  match (due.map fun w => s.removal cluster w.1 w.2).find? (· ≠ []) with
  | none => .next s
  | some ks => .next (ks.foldl (fun s k => s.beginPreempt k) s)

/-- A crew's windows close as WSHUT closes them (R407). -/
def State.closeWindows (s : State) (k : Nat) : State :=
  let shut (x : Core) : Core := { x with windows := x.windows.map fun y => if y.2.crew = k then (y.1, { y.2 with v := false }) else y }
  { s with cores := s.cores.map fun (x : Nat × Core) => (x.1, shut x.2) }

/-- PREEMPT_LACEWING (R296, R407): Lacewing pre-empts a crew; its windows close. -/
def execPreemptLacewing (crew : Nat) (s : State) : Host.Outcome State Fault Refusal :=
  match s.crews.look crew with
  | none => .next s
  | some c =>
    if c.run ≠ .running then .next s else .next ((s.closeWindows crew).beginPreempt crew)

/-! ### The save (R297) -/

/-- Whether a crew still has work that its save waits for: pending accesses, matrix operations, a running ordered wave, unmatched writes, a thread between its fault and its handler (R397). Copy-engine commands run on, those that name the scratchpad too (R297 step 4; log 60). -/
def State.draining (s : State) (k : Nat) (c : Crew) : Bool :=
  s.pend.any (fun o => !o.op.isPref && s.crewIdOf o.tid = some k)
    || s.cores.any (fun x => x.2.mxc.any fun m => m.crew = k && m.stage ≠ 2)
    || (s.crewThreads k).any (fun t => match (s.thread t).run with
      | .parked (.entry ..) => true
      | _ => false)
    || s.duals.any (fun d => d.crew = k && !d.shadow)
    || s.waves.any fun (w, v) => v.running && c.cores.contains (w / 96) && (s.crews.look v.crew).any fun d => d.grid = c.grid

/-- Spills a ray: its unit writes bytes 255:128 of the ray area, whose contents the manual leaves open (R270). -/
def State.spillRay (s : State) (o : EngOp) : State :=
  if o.ray.done then s
  else
    let (ws, s) := s.freeWords 32
    let bs := ws.flatMap fun w => leBytes 4 w.toNat
    let r := (s.engRun { o with seen := [] }).write (ptrAdd o.ptr 128) (clean bs)
    r.logFaults.setEng { r.kept with ray := { r.o.ray with spill := some bs } }

/-- The mappings of a crew on a core are kept and unmapped (R409); one that a parked SPUNMAP names is only unmapped. -/
def State.saveMaps (s : State) (k core : Nat) : State :=
  let ms := (s.core core).maps.filter fun y => y.2.crew = k
  ms.foldl (fun (s : State) (y : Nat × SpMapping) =>
    match s.crews.look k with
    | none => s
    | some c =>
      let going := s.threads.any fun (t, x) => x.run = .parked (.spunmap y.1) && coreOf t = core && s.crewIdOf t = some k
      let s := s.unmap core y.1
      if going then s else s.setCrew k { c with saved := { c.saved with maps := c.saved.maps.put (64 * c.parity core + y.1) y.2 } }) s

/-- Records of a crew become suspended, or serve again (R109). -/
def State.suspend (s : State) (k core : Nat) (b : Bool) : State :=
  let x := s.core core
  s.setCore core { x with recs := x.recs.map fun y => if y.2.crew = k then (y.1, { y.2 with susp := b }) else y }

/-- Steps 3 to 5 of R297 for a crew that has drained. A window that an ordered wave of it opened while it was stopping closes with it (R407). -/
def State.saveCrew (s : State) (k : Nat) (c : Crew) : State :=
  let s := s.closeWindows k
  let ts := (s.threads.filter fun (t, _) => s.crewIdOf t = some k).map (·.1)
  let s := { s with pend := s.pend.filter fun o => !ts.contains o.tid }
  let s := (s.ops.filter fun o => o.crew = k && o.kind = .trace).foldl (fun s o => s.spillRay o) s
  let s := c.cores.foldl (fun s core => (s.saveMaps k core).suspend k core true) s
  let s := s.dropWaiters fun t => ts.contains t
  let s := ts.foldl (fun (s : State) t =>
    s.setThread t ((s.thread t).unplace (c.scratchByte (coreOf t) 0) (s.core (coreOf t)).etime.toNat)) s
  let holder := s.core c.core
  let phs := holder.phasers.filter fun y => y.2.crew = some k
  let s := s.setCore c.core { holder with phasers := holder.phasers.filter fun y => y.2.crew ≠ some k }
  let s := c.cores.foldl (fun (s : State) core => let x := s.core core; s.setCore core { x with tresQ := x.tresQ.filter fun t => !ts.contains t }) s
  let d := (s.crews.look k).getD c
  let s := s.setCrew k { d with
    run := .saved, since := ((s.grids.look d.grid).map s.waitClock).getD 0
    began := if c.begun then elapsed (s.crewTime c) c.began else 0
    saved := { d.saved with scratch := c.cores.map fun core => s.scratch.slice 4 (c.scratchByte core 0) c.alloc, phasers := phs, left := c.cores } }
  s.rename (fun t => ts.contains t && !isSavedTid t) (savedTid k)

/-- A pre-emption that fails (R426): the crew is aborted with its record. -/
def State.failPreempt (s : State) (k reason : Nat) : State := (s.crewRec k 2 8 6 reason 0).abortCrew k

/-- Whether a granule of HBM belongs to what is saved of a crew: at or above the pointer of its context's save area, where the layout that R297 hides puts it (log 21). -/
def State.savedIn (s : State) (c : Crew) (granule : Nat) : Bool :=
  (s.contexts.look (s.crewCtx c)).any fun x => decide (x.save / 8 ≤ granule) && Config.savedThere c.start (granule - x.save / 8)

/-- Whether some write of a crew's save is to a fenced die. -/
def State.saveFenced (s : State) (c : Crew) : Bool :=
  (s.contexts.look (s.crewCtx c)).any fun x => (s.fencedErr x.save).isSome || (List.range 4).any fun d => (s.die d).fenced && Config.savedOn c.start x.save d

/-- Whether some read of a crew's restoration returns poison. -/
def State.savePoisoned (s : State) (c : Crew) : Bool := s.phys.psn.any fun y => y.2 && s.savedIn c y.1

/-- PREEMPT_SAVE (R297): a stopped crew that has drained is saved and returns to its distributor. -/
def execPreemptSave (crew : Nat) (s : State) : Host.Outcome State Fault Refusal :=
  match s.crews.look crew with
  | none => .next s
  | some c =>
    if c.run ≠ .stopping || (s.crewThreads crew).isEmpty || s.draining crew c then .next s
    else if s.saveFenced c then .next (s.failPreempt crew 2)
    else .next (s.saveCrew crew c)

/-- PREEMPT_SAVE_TIMEOUT (R426): the save has not completed 1 ms after the pre-emption began. -/
def execPreemptSaveTimeout (crew : Nat) (s : State) : Host.Outcome State Fault Refusal :=
  match s.crews.look crew with
  | none => .next s
  | some c => if c.run = .stopping && 10 ^ 9 ≤ elapsed (s.crewTime c) c.stopAt then .next (s.failPreempt crew 1) else .next s

/-! ### The restoration (R102, R109, R110, R297, R409) -/

/-- What a part of the restoration comes to. -/
inductive Restore where
  | ok (s : State)
  /-- It waits for operations of saved crews. -/
  | wait (s : State)
  /-- A mapping cannot be made again. -/
  | fail (s : State)

def Restore.bind (r : Restore) (f : State → Restore) : Restore :=
  match r with
  | .ok s => f s
  | .wait s => .wait s
  | .fail s => .fail s

/-- A saved record takes rows of its core and its contents (R109). -/
def State.restoreRec (s : State) (k key : Nat) (r : TileRec) : Restore :=
  match s.crews.look k with
  | none => .ok s
  | some c =>
    let core := c.coreAt (key / 64)
    match s.tresPlace core r.align r.rows with
    | none => .wait s
    | some (b, taken) =>
      let s := taken.foldl (fun s id => s.takeRec core id) s
      let s := s.claimRows core (s.crewCtx c) b r.rows
      let x := s.core core
      match (List.range 64).find? fun i => (x.recs.look i).isNone, s.crews.look k with
      | some i, some c =>
        let s := s.setCore core { x with recs := x.recs.put i { r with base := b, susp := false } }
        let rows := c.saved.tile.lookD key {}
        let s := { s with tile := s.tile.paste 4 (tileByte core b 0) (r.rows * 512) rows }
        .ok (s.setCrew k { c with saved := { c.saved with recs := c.saved.recs.del key, tile := c.saved.tile.del key } })
      | _, _ => .wait s

/-- The reservations of a crew: those in place serve, others on old cores go to the save area first, and all are made again. -/
def State.restoreRecs (s : State) (k : Nat) (c : Crew) : Restore :=
  let away := s.cores.flatMap fun x => (x.2.recs.filter fun y => y.2.crew = k && x.1 ≠ c.coreAt (c.parity x.1)).map fun y => (x.1, y.1, y.2)
  if away.any fun y => s.resBusy y.1 k y.2.2.num then .wait s
  else
    let s := away.foldl (fun (s : State) y => s.takeRec y.1 y.2.1) s
    let s := c.cores.foldl (fun s core => s.suspend k core false) s
    match s.crews.look k with
    | none => .ok s
    | some d => d.saved.recs.foldl (fun (r : Restore) y => r.bind fun s => s.restoreRec k y.1 y.2) (.ok s)

/-- The banks of one parity (R110). -/
def State.restoreBank (s : State) (k : Nat) (par : Nat) : Restore :=
  match s.crews.look k with
  | none => .ok s
  | some c =>
    let core := c.coreAt par
    if s.cores.any fun x => x.2.bankTaker = some k && c.parity x.1 = par then .wait s
    else match s.cores.find? fun x => x.2.bankCrew = some k && c.parity x.1 = par with
    | some (old, x) =>
      if old = core then (if x.bankTaker.isSome then .wait s else .ok s)
      else if s.namesBanks old k || x.bankTaker.isSome then .wait s
      else
        let s := s.setCrew k { c with saved := { c.saved with banks := c.saved.banks.put par (s.bankContents old) } }
        fill (s.setCore old { s.core old with bankCrew := none }) core
    | none => fill s core
where
  /-- Takes the core's banks, saving those of a saved crew, and fills them. -/
  fill (s : State) (core : Nat) : Restore :=
    let x := s.core core
    let free (s : State) : Restore :=
      match s.crews.look k with
      | none => .ok s
      | some c =>
        match c.saved.banks.look par with
        | none => .ok s
        | some (a, b, cur) =>
          let s := { s with banks := (s.banks.paste 4 (bankByte core 0 0 0) (2 ^ 22) a).paste 4 (bankByte core 1 0 0) (2 ^ 22) b }
          let s := s.setCore core { s.core core with bankCrew := some k, bankCtx := some (s.crewCtx c), bank := cur }
          .ok (s.setCrew k { c with saved := { c.saved with banks := c.saved.banks.del par } })
    if x.bankTaker.isSome then .wait s
    else match x.bankCrew with
      | none => free s
      | some j =>
        match s.crews.look j with
        | none => free s
        | some d =>
          if d.run ≠ .saved || s.namesBanks core j then .wait s
          else free (s.setCrew j { d with saved := { d.saved with banks := d.saved.banks.put (d.parity core) (s.bankContents core) } })

/-- The core phasers with their numbers (R230): they wait while another crew has claimed one of them there (log 58). -/
def State.restorePhasers (s : State) (k : Nat) : Restore :=
  match s.crews.look k with
  | none => .ok s
  | some c =>
    let x := s.core c.core
    if c.saved.phasers.any fun y => (x.phasers.lookD y.1 {}).crew.isSome then .wait s
    else
      let s := s.setCore c.core { x with phasers := c.saved.phasers.foldl (fun (m : FMap Phaser) y => m.put y.1 { y.2 with crew := some k }) x.phasers }
      .ok (s.setCrew k { c with saved := { c.saved with phasers := [] } })

/-- The views (R102): old cores have written back the context's bytes, and new ones drop its clean lines; on a core that the crew had left they may hit again. -/
def State.restoreViews (s : State) (c : Crew) : Restore :=
  let ctx := s.crewCtx c
  let old := (s.cores.map (·.1)).filter fun x => !c.cores.contains x && !(s.l1Select x ctx fun _ y => y.dirty).isEmpty
  let s := old.foldl (fun s x => (s.writeBackAll x ctx).sendBackAll x ctx fun _ => true) s
  if old.any fun x => !(s.l1Select x ctx fun a y => y.dirty && !s.withheld x ctx a).isEmpty then .wait s
  else .ok ((c.cores.filter fun x => !c.saved.left.contains x).foldl (fun s x => s.l1Drop x ctx fun _ => true) s)

/-- The frames that the lines of a saved mapping translate to now, where SPMAP would not fail on them (R238, R409). -/
def State.remapped (s : State) (core ctx : Nat) (ptr : Nat) : Nat → State × Option (List Nat)
  | 0 => (s, some [])
  | n + 1 =>
    match s.translateEngine core ctx ptr 128 .readWrite with
    | (s, .error _) => (s, none)
    | (s, .ok tr) =>
      if tr.remote.isSome || tr.cls = 1 || tr.cls = 2 || s.mapNames tr.pa || (s.fencedErr tr.pa).isSome then (s, none)
      else match s.remapped core ctx (ptrAdd ptr 128) n with
        | (s, none) => (s, none)
        | (s, some l) => (s, some (tr.pa :: l))

/-- A saved mapping is made again with its number and rows: its range is translated, the core's dirty bytes of it are written back, and the rows take the contents (R108, R409). -/
def State.restoreMap (s : State) (k key : Nat) (m : SpMapping) : Restore :=
  match s.crews.look k with
  | none => .ok s
  | some c =>
    let core := c.coreAt (key / 64)
    let num := key % 64
    let x := s.core core
    if (x.maps.look num).isSome then .fail s
    else match s.remapped core (s.crewCtx c) m.ptr m.pas.length with
    | (s, none) => .fail s
    | (s, some pas) =>
      let s := s.writeBackAll core (s.crewCtx c) fun a => pas.contains (lineOf a)
      let x := s.core core
      let s := s.setCore core { x with maps := x.maps.put num { m with pas := pas, pending := true } }
      let s := s.setCrew k { c with saved := { c.saved with maps := c.saved.maps.del key } }
      if m.pending then .ok s
      else match execSpmapComplete core num s with
        | .next s => .ok s
        | _ => .fail s

def State.restoreMaps (s : State) (k : Nat) : Restore :=
  match s.crews.look k with
  | none => .ok s
  | some c => c.saved.maps.foldl (fun (r : Restore) y => r.bind fun s => s.restoreMap k y.1 y.2) (.ok s)

/-- Whether a ray's refill must wait (R409). -/
def State.refillHeld (s : State) (o : EngOp) : Bool := o.ray.spill.isSome && ((s.engRun o).read (ptrAdd o.ptr 128) 128).1.stop.isSome

/-- A thread goes on after the restoration: a WAITA that was woken reads its word, a phaser operation is tried again. -/
def State.resumeThread (s : State) (t : Nat) : State :=
  match (s.thread t).run with
  | .parked (.waitaWoken pa ptr d insn) => s.returnWaita t pa ptr d insn
  | .parked (.phaser k _ _ _) =>
    match s.phResume t with
    | .stay => s
    | .go s adv => s.advanceIf adv k
  | _ => s

/-- The last part of a resumption: rays, then the crew runs. -/
def State.finishResume (s : State) (k : Nat) : State :=
  match s.crews.look k with
  | none => s
  | some c =>
    let s := s.setCrew k { c with run := .running }
    let s : State := { s with ops := s.ops.map fun (o : EngOp) => if o.crew = k && o.kind = .trace then { o with core := coreOf o.tid } else o }
    let s := (s.ops.filter fun o => o.crew = k && o.kind = .trace).foldl (fun (s : State) o => s.refillRay o) s
    let s := (s.crewThreads k).foldl (fun s t => s.resumeThread t) s
    s.wakeTags k

/-- CREW_RESUME (R297): a crew placed again has its state restored and runs. -/
def execCrewResume (crew : Nat) (s : State) : Host.Outcome State Fault Refusal :=
  match s.crews.look crew with
  | none => .next s
  | some c =>
    if c.run ≠ .resuming then .next s
    else if s.savePoisoned c then .next (s.failPreempt crew 3)
    else
      let r := (((s.restoreRecs crew c).bind fun s => c.holdsBanks.foldl (fun (r : Restore) par => r.bind fun s => s.restoreBank crew par) (.ok s)).bind
        fun s => (s.restorePhasers crew).bind fun s => s.restoreViews c).bind fun s => s.restoreMaps crew
      match r with
      | .wait s => .next s
      | .fail s =>
        let cause := ({ group := 3, code := 3, reason := 8 } : MemErr).cause 0 0 2 4 false
        .next ((s.crewRec crew 2 3 3 cause.d0 0).abortCrew crew)
      | .ok s => if s.ops.any fun o => o.crew = crew && s.refillHeld o then .next s else .next (s.finishResume crew)

/-! ### The crew watchdog (R427) -/

/-- CREW_WATCHDOG (R427): a crew has run CREW µs. -/
def execCrewWatchdog (crew : Nat) (s : State) : Host.Outcome State Fault Refusal :=
  match s.crews.look crew with
  | none => .next s
  | some c =>
    let lim := s.crewLimit (s.crewCtx c)
    let ran := elapsed (s.crewTime c) c.began
    if c.begun && (c.run = .running || c.run = .stopping) && lim ≠ 0 && lim * 10 ^ 6 ≤ ran then
      .next ((s.crewRec crew 2 8 5 (ran / 10 ^ 6) lim).abortCrew crew)
    else .next s

end Sys2Proof.Machine
end

