-- ==== Sys2Proof/Machine/Host.lean ====
section
/-! DEFINITION. What the host, Lacewing and pod peers do to the device: register writes, invalidations and reclaiming, HOSTSHARE migrations, host reads and writes, remote requests and their answers (R119, R120, R128, R129, R309, R337 to R342, R349, R404 to R406, R411 to R413). -/

namespace Sys2Proof.Machine

/-- Agents that write device registers (R338); any other number is a program. -/
def hostAgent : Nat := 0
def lacewing : Nat := 1

/-- Data that the device hands to the outside: 0 is the host, 1 + d the device d. Log 25. -/
def State.answer (s : State) (who : Nat) (bs : List Byte) : State := { s with outbox := (who, bs) :: s.outbox }

/-! ### Views of every core -/

/-- Cores and contexts that hold bytes of a view. -/
def State.views (s : State) : List (Nat × Nat) :=
  ((s.l1.map fun (x : Nat × L1Cell) => x.1 / 2 ^ 80).eraseDups).map fun v => (v / 256, v % 256)

/-- Every core writes its dirty bytes of a range to their homes (R128, R129). -/
def State.writeBackRange (s : State) (lo n : Nat) : State :=
  s.views.foldl (fun s (v : Nat × Nat) => s.writeBackAll v.1 v.2 fun a => decide (lo ≤ a) && decide (a < lo + n)) s

/-- Every L1 drops its clean bytes of a range. -/
def State.dropRange (s : State) (lo n : Nat) : State :=
  s.views.foldl (fun s (v : Nat × Nat) => s.l1Drop v.1 v.2 fun a => decide (lo ≤ a) && decide (a < lo + n)) s

/-- Whether some view still holds a dirty byte of a range. -/
def State.dirtyIn (s : State) (lo n : Nat) : Bool :=
  s.l1.any fun (k, c) => c.dirty && decide (lo ≤ k % 2 ^ 80) && decide (k % 2 ^ 80 < lo + n)

/-- Removes cached translations from every TLB and last-page register (R119). -/
def State.dropTlb (s : State) (p : Tlb → Bool) : State :=
  { s with cores := s.cores.map fun (x : Nat × Core) =>
      (x.1, { x.2 with tlb := x.2.tlb.filter fun e => !p e, lastPage := x.2.lastPage.filter fun (y : Nat × Tlb) => !p y.2 }) }

/-! ### Page-table slots -/

/-- The slot at which the tables stop for a VA, and its level, whether it is valid or not. -/
def State.pathSlot (s : State) (va : Nat) : Nat → Nat → Nat × Nat
  | 0, tbl => (tbl, 0)
  | n + 1, tbl =>
    let e := tbl + 16 * bits va (8 * n + 23) (8 * n + 16)
    let tw := s.homeNat e 8
    if bit tw 0 && !bit tw 1 && n ≠ 0 then s.pathSlot va n (bits tw 47 12 * 4096) else (e, n)

/-! ### Invalidation (R119, R120) -/

/-- A cached translation that a command removes: of its pages, and with BOUNDS all of its context. -/
def InvCmd.hits (c : InvCmd) (e : Tlb) : Bool :=
  (match c.scope with
    | 0 => e.ctx = c.ctx && decide (vaOf e.va ≤ c.va) && decide (c.va < vaOf e.va + e.size)
    | 1 => e.ctx = c.ctx
    | _ => true) || (c.bounds && e.ctx = c.ctx)

/-- Whether a command's pages hold a pointer, for a page of a size. -/
def InvCmd.covers (c : InvCmd) (ctx ptr size : Nat) : Bool :=
  (match c.scope with
    | 0 => ctx = c.ctx && vaOf ptr / size = c.va / size
    | 1 => ctx = c.ctx
    | _ => true) || (c.bounds && ctx = c.ctx)

/-- The frame that a page maps now where its leaf is still valid, else the last that a walker found for it. -/
def State.frameNow (s : State) (w : Found) : Nat :=
  let tw := s.homeNat w.leaf 8
  if bit tw 0 && bit tw 1 then bits tw 47 12 * 4096 else w.frame

/-- The frames of a command's pages (R128), which walkers have found for whoever accessed them. -/
def State.framesOf (s : State) (c : InvCmd) : List (Nat × Nat) :=
  ((s.walked.filter fun w => c.covers w.ctx w.va w.size).map fun w => (s.frameNow w, w.size)).eraseDups

/-- GO of MG_INVCMD while it is not busy: the entries are removed and BUSY is set; SCOPE 0b11 is no action. -/
def State.invalidate (s : State) (scope ctx : Nat) (rcl bnd : Bool) : State :=
  if s.invBusy.isSome || 3 ≤ scope then s
  else
    let c : InvCmd := { upto := s.uid, scope := scope, ctx := ctx % 256, va := s.regVal offInvva / 65536 * 65536, reclaim := rcl, bounds := bnd }
    let frames := if rcl then s.framesOf c else []
    { s.dropTlb c.hits with invBusy := some { c with frames := frames }, walked := if rcl then s.walked.filter (fun w => !c.covers w.ctx w.va w.size) else s.walked }

/-- The bits of MG_INVCMD that a write keeps. -/
def invFields (v : Nat) : Nat := bits v 15 8 * 256 + bits v 4 1 * 2
/-- A write of MG_INVCMD (R120). -/
def State.invCommand (s : State) (v : Nat) : State :=
  if bit v 0 && s.invBusy.isSome then s
  else
    let s := s.setRegVal offInvcmd (invFields v)
    if bit v 0 then s.invalidate (bits v 2 1) (bits v 15 8) (bit v 4) (bit v 3) else s

/-- A command with these fields, as a write of the register. -/
def invWord (scope ctx : Nat) (rcl bnd : Bool) : Nat := ctx % 256 * 256 + rcl.toNat * 16 + bnd.toNat * 8 + scope % 4 * 2 + 1

/-- INVALIDATE_PAGE, INVALIDATE_CONTEXT, INVALIDATE_ALL (R120): the command with SCOPE 0b00, 0b01, 0b10. -/
def execInvalidatePage (ctx : Nat) (rcl bnd : Bool) (s : State) : Host.Outcome State Fault Refusal := .next (s.invCommand (invWord 0 ctx rcl bnd))
def execInvalidateContext (ctx : Nat) (rcl bnd : Bool) (s : State) : Host.Outcome State Fault Refusal := .next (s.invCommand (invWord 1 ctx rcl bnd))
def execInvalidateAll (ctx : Nat) (rcl bnd : Bool) (s : State) : Host.Outcome State Fault Refusal := .next (s.invCommand (invWord 2 ctx rcl bnd))
/-- RECLAIM (R128): a command that also reclaims. DROP_BOUNDS (R120): one that also drops bounds entries. -/
def execReclaim (scope ctx : Nat) (s : State) : Host.Outcome State Fault Refusal := .next (s.invCommand (invWord scope ctx true false))
def execDropBounds (scope ctx : Nat) (s : State) : Host.Outcome State Fault Refusal := .next (s.invCommand (invWord scope ctx false true))

/-- When an access was issued, as a number of operations: an engine's with its operation. -/
def PendOp.born (o : PendOp) : Nat := if 2 ^ 62 ≤ o.id then engOpOf o.id else o.id

/-- Contributions held in reduction buffers, and those drained and not yet performed (R147, R301). -/
def State.contributions (s : State) : List Contribution := s.cores.flatMap (fun (x : Nat × Core) => x.2.redbuf) ++ s.flushes.flatMap (·.left)

/-- Whether an access made longer ago than the command, or not by an instruction's own operation, is unperformed on pages that satisfy a test on context, pointer and page size (R119): a pending one, a pod peer's, an SPMAP's read of its range, a contribution. -/
def State.unperformed (s : State) (upto : Nat) (p : Nat → Nat → Nat → Bool) : Bool :=
  s.pend.any (fun o => o.born < upto && o.place = 0 && o.space = 0 && p o.ctx o.ptr o.psize)
    || s.outside.any (fun x => 0 < x.who && x.id < upto && p x.ctx x.va x.psize)
    || s.contributions.any (fun r => r.place = 0 && r.space = 0 && p r.ctx r.ptr (s.pageSize r.ctx r.ptr))
    || s.cores.any fun (x : Nat × Core) => x.2.maps.any fun (_, m) => m.pending && (List.range m.pas.length).any fun i =>
      let ctx := ((s.crews.look m.crew).map s.crewCtx).getD 0
      let ptr := ptrAdd m.ptr (128 * i : Nat)
      p ctx ptr (s.pageSize ctx ptr)

/-- Whether an access translated by an entry that a command removed is still unperformed (R119). -/
def State.invWaits (s : State) (c : InvCmd) : Bool := s.unperformed c.upto c.covers

/-- Drops the replicas of a frame from every die's L2 (R128). -/
def State.dropReplicas (s : State) (lo n : Nat) : State :=
  let inFrame (a : Nat) : Bool := decide (lo ≤ a % 2 ^ 48) && decide (a % 2 ^ 48 < lo + n)
  let gone := s.replicaLines.filter inFrame
  let l2 := s.l2.map fun (x : Nat × List Nat) =>
    (x.1, if x.1 / 2048 / 48 = dieOfPa lo then x.2 else x.2.filter fun a => !(decide (lo ≤ a) && decide (a < lo + n) && inHbm a))
  { s with replicas := gone.foldl (fun m a => m.erase 8 a 128) s.replicas, replicaLines := s.replicaLines.filter (fun a => !inFrame a), l2 := l2 }

/-- A frame is reclaimed (R128, R405, R406): its dirty bytes are written back, then its lines, its replicas and its marker go. -/
def State.reclaimFrame (s : State) (lo n : Nat) : State :=
  let s := ((s.writeBackRange lo n).dropRange lo n).dropReplicas lo n
  { s with appended := s.appended.filter fun (x : Nat × Mark) => !(lo ≤ x.1 && x.1 < lo + n), frames := s.frames.filter fun (x : Nat × FrameInfo) => !(lo ≤ x.1 && x.1 < lo + n) }

/-! ### HOSTSHARE pages (R129, R339, R340, R411) -/

/-- OWNER of a leaf, as the migration handler writes it (R116). -/
def State.setOwner (s : State) (leaf : Nat) (host : Bool) : State :=
  let b := s.homeNat (leaf + 8) 1
  s.homeWrite (leaf + 8) (clean [BitVec.ofNat 8 (b - b / 32 % 2 * 32 + host.toNat * 32)])

/-- Drops the cached translations of a page. -/
def State.dropPage (s : State) (page size : Nat) : State := s.dropTlb fun e => decide (page ≤ e.pa) && decide (e.pa < page + size)

/-- Whether a thread waits for a page. -/
def Thread.waitsFor (x : Thread) (page : Nat) : Bool :=
  match x.run with
  | .parked (.hostshare p _ _ _ _ _ _) => p.page = page
  | _ => false

/-- Threads parked on a page retry (R129). -/
def State.wakePage (s : State) (page : Nat) : State :=
  { s with threads := s.threads.map fun (x : Nat × Thread) => if x.2.waitsFor page then (x.1, { x.2 with run := .ready }) else x }

/-- What a failed migration means to a parked thread (R411). -/
def Park.failCause (reason : Nat) (e : HsEntry) : Park → Option Cause
  | .hostshare _ ptr kind size _ load _ =>
    some (({ code := 0xd, reason := reason, d1 := e.va / 65536 } : MemErr).cause 0 ptr kind size load)
  | _ => none

/-- The threads of one packet, among those parked on a page: the same wave, quarter and PC (R38). -/
def samePacket (a b : Nat × Thread) : Bool := a.1 / 32 = b.1 / 32 && a.2.pc = b.2.pc

/-- Records and traps of the parked threads, packet by packet; `n` bounds their number. -/
def State.failParked : Nat → Nat → HsEntry → List (Nat × Thread) → State → State
  | 0, _, _, _, s => s
  | _ + 1, _, _, [], s => s
  | n + 1, reason, e, x :: r, s =>
    let ts := x :: r.filter (samePacket x)
    let cs := ts.filterMap fun y => match y.2.run with
      | .parked p => (p.failCause reason e).map fun c => (y.1, c)
      | _ => none
    let insn := match x.2.run with
      | .parked (.hostshare _ _ _ _ w _ _) => w
      | _ => 0
    let cs := cs.map fun (t, c) => (t, if insn = 0 then { c with noInsn := true } else c)
    let s := s.report (cs.length + 1) cs insn 0
    let s := ts.foldl (fun (s : State) (y : Nat × Thread) => match y.2.run with
      | .parked (.hostshare _ _ _ _ _ true d) => (s.poisonDest y.1 d).unpark y.1
      | _ => s) s
    failParked n reason e (r.filter fun y => !samePacket x y) s

/-- A failed migration (R411): loads are poisoned at level 0, other lanes trap; threads of saved crews retry when they resume. -/
def State.failMigration (s : State) (reason : Nat) (e : HsEntry) : State :=
  let here := s.threads.filter fun (x : Nat × Thread) => x.2.waitsFor e.page
  let s := { s with hsRing := s.hsRing.filter fun x => x.seq ≠ e.seq }
  let s := State.failParked (here.length + 1) reason e (here.filter fun (x : Nat × Thread) => !isSavedTid x.1) s
  s.wakePage e.page

/-- The acknowledgement of an entry: a release completes or fails, a grant is noted (R340, R411). -/
def State.hsAck (s : State) (seq : Nat) (refuse : Bool) : State :=
  match s.hsRing.find? fun e => e.seq % 4096 = seq % 4096 with
  | none => s
  | some e =>
    if e.kind = 1 && refuse then s.failMigration 1 e
    else
      let s := { s with hsRing := s.hsRing.filter fun x => x.seq ≠ e.seq }
      if e.kind ≠ 1 then s.wantParked
      else
        let s := (((s.setOwner e.leaf false).dropPage e.page e.psize).dropRange e.page e.psize).wakePage e.page
        s.wantParked

/-- Writes a COMPRESSED frame decompressed (R131). -/
def State.decompress (s : State) (page : Nat) : State :=
  match s.frames.look page with
  | some f =>
    let lines := (List.range (f.size / 128)).map fun i => page + 128 * i
    let phys := lines.foldl (fun m a => m.writeM 8 a (readCompressed s.phys page f.md a)) s.phys
    { s with phys := phys, frames := s.frames.del page }
  | none => s

/-- The device's release of a page (R129): dirty bytes go to their homes, the lines are dropped, the host owns it, and its translations go. -/
def State.givePage (s : State) (e : HsEntry) : State :=
  let s := ((s.writeBackRange e.page e.psize).dropRange e.page e.psize).decompress e.page
  (s.setOwner e.leaf true).dropPage e.page e.psize

/-- Whether an access to a page is still unperformed. -/
def State.pageBusy (s : State) (e : HsEntry) : Bool :=
  s.outside.any (fun x => 0 < x.who && decide (e.page ≤ x.pa) && decide (x.pa < e.page + e.psize))
    || s.pend.any (fun o => o.place = 0 && o.space = 0 && o.cls = 2 && decide (e.page ≤ o.pa) && decide (o.pa < e.page + e.psize))
    || s.contributions.any fun r => r.place = 0 && r.space = 0 && decide (e.page ≤ r.pa) && decide (r.pa < e.page + e.psize)

/-- One page on its way to the host: it waits for an earlier migration of it, then for its last accesses, then the grant is written (R129). -/
def State.grantPage (s : State) (e : HsEntry) : State :=
  if s.hsRing.any fun x => x.page = e.page && x.kind = 1 then s
  else
    let s := s.givePage e
    if s.pageBusy e || s.dirtyIn e.page e.psize || 256 ≤ s.hsRing.length then s
    else ({ s with toHost := s.toHost.filter fun x => x ≠ e }.postEntry e).wantParked

def State.grantPages (s : State) : State := s.toHost.foldl (fun s e => s.grantPage e) s

/-- A host request for a page (R340): it is refused nothing; one that names no valid HOSTSHARE page does nothing. -/
def State.hsRequest (s : State) (vapg ctx : Nat) : State :=
  match s.contexts.look ctx with
  | none => s
  | some c =>
    let va := vapg % 2 ^ 40 * 65536
    let (leaf, lvl) := s.pathSlot va 5 c.ptroot
    let tw := s.homeNat leaf 8
    let aw := s.homeNat (leaf + 8) 8
    if !bit tw 0 || !bit tw 1 || (entryReason lvl tw aw).isSome || aw % 4 ≠ 2 then s
    else
      let page := bits tw 47 12 * 4096
      let e : HsEntry := { seq := 0, kind := 2, ctx := ctx, va := va / leafSize lvl * leafSize lvl, page := page, psize := leafSize lvl, leaf := leaf, tid := 0, since := 0 }
      if s.toHost.any fun x => x.page = page then s
      else
        let s := { s with toHost := s.toHost ++ [e] }
        if s.hsRing.any fun x => x.page = page && x.kind = 1 then s else s.givePage e

/-- A write of MG_HSCMD (R340). -/
def State.hsCommand (s : State) (v : Nat) : State :=
  if !bit v 0 then s
  else if bit v 1 then s.hsRequest (bits v 63 24) (bits v 23 16)
  else s.hsAck (bits v 15 4) (bit v 2)

/-- HS_ACKNOWLEDGE and HS_REQUEST_PAGE (R340). -/
def execHsAcknowledge (seq : Nat) (refuse : Bool) (s : State) : Host.Outcome State Fault Refusal := .next (s.hsAck seq refuse)
def execHsRequestPage (vapg ctx : Nat) (s : State) : Host.Outcome State Fault Refusal := .next (s.hsRequest vapg (ctx % 256))

/-- MIGRATION_TIMEOUT (R411): no acknowledgement within 100 ms of ETIME. -/
def execMigrationTimeout (seq : Nat) (s : State) : Host.Outcome State Fault Refusal :=
  match s.hsRing.find? fun e => e.seq = seq && e.kind = 1 with
  | none => .next s
  | some e => if elapsed (s.etimeOf e.tid) e.since < 10 ^ 11 then .next s else .next (s.failMigration 2 e)

/-- INVALIDATION_COMPLETE (R119, R128, R129): no access by a removed entry remains, and BUSY clears; pages on their way to the host are granted likewise. -/
def execInvalidationComplete (s : State) : Host.Outcome State Fault Refusal :=
  let s := s.grantPages
  match s.invBusy with
  | none => .next s
  | some c =>
    if s.invWaits c then .next s
    else
      let s := c.frames.foldl (fun (s : State) (f : Nat × Nat) => s.reclaimFrame f.1 f.2) s
      .next { s with invBusy := none }.noteTables

/-! ### Attestation requests and start-up registers (R338, R349) -/

/-- SC_ATTREQ: BUF and ST. -/
def State.setAttreq (s : State) (buf st : Nat) : State := s.setRegVal offAttreq (buf / 2 ^ 14 * 2 ^ 14 + st * 4)

/-- A write of SC_ATTREQ (R349): BUF, and with GO a request unless one is under way: that GO is ignored and BUF written (log 56). -/
def State.attestationGo (s : State) (v : Nat) : State :=
  let st := bits (s.regVal offAttreq) 3 2
  if bit v 0 && st ≠ 1 then { s.setAttreq v 1 with attesting := some (BitVec.ofNat 64 (v / 2 ^ 14 * 2 ^ 14)) }
  else s.setAttreq v st

def execAttestationGo (value : Dword) (s : State) : Host.Outcome State Fault Refusal :=
  if s.hostUp then .next (s.attestationGo value.toNat) else .next s

/-- SC_LOCK (R338): writing 1 locks until reset. -/
def State.lockWrite (s : State) (v : Nat) : State := if bit v 0 then { s with locked := true } else s
def execScLockWrite (value : Dword) (s : State) : Host.Outcome State Fault Refusal := .next (s.lockWrite value.toNat)

/-- MX_CADENCE (R309): 0 and 17 to 31 are ignored. -/
def State.setCadence (s : State) (core v : Nat) : State :=
  let c := bits v 4 0
  if c = 0 || 16 < c || Config.cores ≤ core then s else s.setCore core { s.core core with cadence := c }
def execMxCadenceWrite (core : Nat) (value : Dword) (s : State) : Host.Outcome State Fault Refusal := .next (s.setCadence core value.toNat)

/-- LK_ROUTE of a device (R338). -/
def State.setRoute (s : State) (dev v : Nat) : State :=
  let off := offRoute + dev / 4 * 8
  let sh := 2 ^ (16 * (dev % 4))
  let w := s.regVal off
  s.setRegVal off (w - w / sh % 2 ^ 16 * sh + v % 2 ^ 12 * sh)

/-- PW_BUDGET's fields (R345). -/
structure Tokens where
  share : Nat
  cap : Nat
  draw : Nat
  lent : Nat
  deriving DecidableEq, Repr

def State.tokens (s : State) : Tokens :=
  let v := s.regVal offBudget
  ⟨bits v 63 48, bits v 47 32, bits v 31 16, bits v 15 0⟩
def State.setTokens (s : State) (b : Tokens) : State :=
  s.setRegVal offBudget (b.share % 2 ^ 16 * 2 ^ 48 + b.cap % 2 ^ 16 * 2 ^ 32 + b.draw % 2 ^ 16 * 2 ^ 16 + b.lent % 2 ^ 16)

/-- Firmware sets SHARE (R345); the device's cap starts there, at most 1800 W. -/
def State.setShare (s : State) (v : Nat) : State :=
  let w := bits v 63 48
  s.setTokens { s.tokens with share := w, cap := min w 1800 }

/-- Whether the queue-core image failed at step 4 of start-up: V is never set then (R437). -/
def State.queueImageBad (s : State) : Bool := bits (s.regVal offBootst) 3 0 ≠ 0

/-- Eight bytes of the slot table (R287). -/
def State.writeSlot (s : State) (at' v : Nat) : State :=
  let bs := (leBytes 8 v).zipIdx.map fun (b, i) => if s.queueImageBad && (at' + i) % 32 = 27 then (b &&& 0xfe, i) else (b, i)
  { s with slots := bs.foldl (fun m (x : Byte × Nat) => if x.1 = 0 then m.del (at' + x.2) else m.put (at' + x.2) x.1) s.slots }

/-! ### Register writes (R338) -/

/-- A write of a queue's QC_QSTAT: its W1C bits (R284). -/
def State.clearStat (s : State) (q v : Nat) : State :=
  let x := s.queue q
  s.setQueue q { x with flt := x.flt && !bit v 2, rej := x.rej && !bit v 1 }

/-- The registers that only Lacewing writes, at an offset (R338). -/
def State.lacewingWrite (s : State) (off v : Nat) : State :=
  if 0x10000 ≤ off && off < 0x10000 + 0x40 * Config.cores then (if off % 64 = 0 then s.setCadence ((off - 0x10000) / 64) v else s)
  else if off = offInvva then s.setRegVal offInvva (v % 2 ^ 56)
  else if off = offInvcmd then s.invCommand v
  else if offWdcfg ≤ off && off < offWdcfg + 2048 && off % 8 = 0 then s.setRegVal off (v % 2 ^ 48)
  else if offSlot ≤ off && off < offSlot + 2048 && off % 8 = 0 then s.writeSlot (off - offSlot) v
  else if off = offLock then s.lockWrite v
  else if s.locked then s
  else if off = offBudget then s.setShare v
  else if off = offDevid then s.setRegVal offDevid (v % 2 ^ 13)
  else if offRoute ≤ off && off < offRoute + 16384 && off % 2 = 0 then s.setRoute ((off - offRoute) / 2) v
  else s

/-- The registers that the host writes (R337, R338). -/
def State.hostRegWrite (s : State) (off v : Nat) : State :=
  if off < 0x1000 then
    if off % 64 = 0 then s.queueGo (off / 64) (BitVec.ofNat 64 v)
    else if off % 64 = 8 then s.clearStat (off / 64) v
    else s
  else if off = offHscmd then s.hsCommand v
  else if off = offHsring then s.setRegVal offHsring (v / 8192 * 8192)
  else if off = offAttreq then s.attestationGo v
  else s

/-- A write by an agent at an offset: from any but the register's own writers it is ignored (R338). -/
def State.regWrite (s : State) (agent off v : Nat) : State :=
  if agent = hostAgent then (if s.hostUp then s.hostRegWrite off v else s)
  else if agent = lacewing then s.lacewingWrite off v
  else s

/-- REGISTER_WRITE (R338). -/
def execRegisterWrite (agent addr : Nat) (value : Dword) (s : State) : Host.Outcome State Fault Refusal :=
  if inRegs addr then .next (s.regWrite agent (addr - Config.regBase) value.toNat) else .next s

/-! ### Host accesses (R337, R405, R412) -/

/-- Status bytes of what the host is answered: done, Unsupported Request, Configuration Request Retry Status, done with poison. -/
def hostDone : Byte := 0
def hostUnsupported : Byte := 1
def hostRetry : Byte := 2
def hostPoisoned : Byte := 3

/-- The marker of a frame (R405). -/
def State.marked (s : State) (a : Nat) : Bool := s.appended.any fun (b, m) => decide (b ≤ a) && decide (a < b + m.size)

/-- The units of an access (R138): first byte and length of each in its data. -/
def OutAccess.units (x : OutAccess) : List (Nat × Nat) := (pieces (x.size / 8 + 2) x.pa x.size).map fun p => (p.1 - x.pa, p.2)

/-- What a peer is answered; the answer is kept for a request that comes again (R432). -/
def State.reply (s : State) (src seq err aux : Nat) (psn : Bool) (d : List Byte) : State :=
  let bs := leBytes 8 seq ++ leBytes 8 err ++ leBytes 8 aux ++ [if psn then 1 else 0] ++ d
  { s with served := ((src, seq), bs) :: s.served }.answer (src + 1) bs

/-- The bytes of an answer: data, then where some are poisoned a mask by 8-byte unit. -/
def packRead (bs : List MByte) : List Byte × Bool :=
  let m := (List.range 16).foldl (fun m u => if ((bs.drop (8 * u)).take 8).any (·.2) then m + 2 ^ u else m) 0
  (bs.map (·.1) ++ (if m = 0 then [] else leBytes 2 m), m ≠ 0)

/-- An access whose units have all been performed is answered (R149): a host write is not. -/
def State.outsideDone (s : State) (x : OutAccess) : State :=
  if x.who = 0 then
    if x.write then s else s.answer 0 ((if x.data.any (·.2) then hostPoisoned else hostDone) :: x.data.map (·.1))
  else
    let (d, p) := if x.write then ([], false) else packRead x.data
    s.reply (x.who - 1) x.seq 0 x.pa p d

/-- An access that meets the home of a fenced die: the host is answered Unsupported Request, a peer the error (R433). -/
def State.outsideFenced (s : State) (x : OutAccess) (e : MemErr) : State :=
  let s := { s with outside := s.outside.filter fun y => y.id ≠ x.id }
  if 0 < x.who then s.reply (x.who - 1) x.seq e.word e.d1 false [] else if x.write then s else s.answer 0 [hostUnsupported]

/-- A unit of a write: a frame with the marker of APPEND takes nothing from the host, with one entry for each line (R337, R405). The slice of a host-window line is that of die 0 (log 57). -/
def State.outsideWrite (s : State) (x : OutAccess) (a : Nat) (bs : List MByte) : State × OutAccess :=
  if x.who = 0 && s.marked a then
    if x.told.contains (lineOf a) then (s, x) else (s.manage 0x405 a, { x with told := lineOf a :: x.told })
  else ((s.touchHome (if x.who = 0 then 0 else dieOfPa a % 4) a).homeWrite a bs, x)

/-- A unit of a read: the host reads decompressed bytes (R337), a peer a page through its class. -/
def State.outsideRead (s : State) (x : OutAccess) (a n : Nat) : State × List MByte :=
  if x.who = 0 then (s.touchHome 0 a, s.homeRaw a n)
  else
    let base := x.pa / x.psize * x.psize
    (s.touchHome (dieOfPa a % 4) a, s.homeRead a n (if x.cls = 1 then some (base, s.tailOf base x.leaf) else none))

/-- Whether a unit of a host access waits for an earlier host write: posted writes are performed in order, and a read does not pass one (R149). -/
def State.hostWaits (s : State) (x : OutAccess) : Bool := x.who = 0 && s.outside.any fun y => y.who = 0 && y.write && y.id < x.id

/-- One unit of an access of the host or of a peer is performed, in any order but that of host writes (R138, R149; log 46); a line of a pending mapping holds it (R409). -/
def State.performOutside (s : State) (op : Nat) : State :=
  match s.outside.find? fun x => x.id ≤ op && x.left.contains (op - x.id) with
  | none => s
  | some x =>
    let (off, n) := x.units.getD (op - x.id) (0, 0)
    let a := x.pa + off
    if s.mapPending (lineOf a) || s.hostWaits x then s
    else match s.fencedErr a with
      | some e => s.outsideFenced x e
      | none =>
        let (s, x) := if x.write then s.outsideWrite x a ((x.data.drop off).take n)
          else
            let (s, bs) := s.outsideRead x a n
            (s, { x with data := x.data.take off ++ bs ++ x.data.drop (off + n) })
        let x := { x with left := x.left.erase (op - x.id) }
        if x.left.isEmpty then { s with outside := s.outside.filter fun y => y.id ≠ x.id }.outsideDone x
        else { s with outside := s.outside.map fun y => if y.id = x.id then x else y }

/-- An access of the host or of a peer arrives: one of a single unit is performed now where nothing holds it, others by their units. -/
def State.acceptOutside (s : State) (x : OutAccess) : State :=
  let n := x.units.length
  let x := { x with id := s.uid, left := List.range n, data := if x.write then x.data else List.replicate x.size (0, false) }
  if n = 0 then s.outsideDone x
  else
    let s := { s with outside := s.outside ++ [x], uid := s.uid + n }
    if n = 1 then s.performOutside x.id else s

/-- HOST_WRITE (R337): BAR2 and HDM reach HBM, BAR0 the registers, and the host its own memory; `psn` is EP = 1 or CXL poison. A register takes fewer than 8 bytes as the number they spell (log 56). -/
def execHostWrite (pa : Nat) (data : List Byte) (psn : Bool) (s : State) : Host.Outcome State Fault Refusal :=
  let n := data.length
  if !s.hostUp then .next s
  else if inRegs pa then .next (s.regWrite hostAgent (pa - Config.regBase) (leNat (data.take 8)))
  else if !((inHbm pa && pa + n ≤ Config.hbmEnd) || (inHost pa && pa + n ≤ Config.hostEnd)) then .next (s.answer 0 [hostUnsupported])
  else .next (s.acceptOutside { pa := pa, size := n, write := true, data := data.map fun b => (b, psn) })

/-- HOST_READ (R337, R412): the bytes, decompressed, with EP = 1 or CXL poison where a granule is poisoned. -/
def execHostRead (pa size : Nat) (s : State) : Host.Outcome State Fault Refusal :=
  if !s.hostUp then .next s
  else if inRegs pa then .next (s.answer 0 (hostDone :: s.regRead pa size))
  else if !((inHbm pa && pa + size ≤ Config.hbmEnd) || (inHost pa && pa + size ≤ Config.hostEnd)) || (s.fencedErr pa).isSome then
    .next (s.answer 0 [hostUnsupported])
  else .next (s.acceptOutside { pa := pa, size := size, write := false, data := [] })

/-- HOST_SNOOP (R149, R337, R445): the homes give up a host-window line; its frame keeps its value and no L1 is reached. -/
def execHostSnoop (pa : Nat) (s : State) : Host.Outcome State Fault Refusal :=
  if s.hostUp && inHost pa then
    .next { s with l2 := s.l2.map fun (x : Nat × List Nat) => (x.1, x.2.filter fun a => a ≠ lineOf pa) }
  else .next s

/-- CONFIG_REQUEST (R346): Configuration Request Retry Status until step 6; then a completion whose data the manual leaves out. One that sets or clears the mask of an MSI-X vector does so (R337, log 53). -/
def execConfigRequest (access : ConfigAccess) (s : State) : Host.Outcome State Fault Refusal :=
  if s.bootStep < 6 then .next (s.answer 0 [hostRetry])
  else
    let s := match access.mask with
      | none => s
      | some (v, on) => s.maskVector v on
    let (f, s) := s.tick
    .next (s.answer 0 (hostDone :: leBytes 4 (Config.freeWord (f + access.off)).toNat))

/-! ### Requests of pod peers (R342) -/

/-- What a peer asks for, by KIND: read, write, atomic, BRED, BINFIN, APPEND, SEAL, fetch, a stream's counts (R279). Log 25. -/
def remoteNeed (kind : Nat) : Need :=
  match kind with
  | 0 | 4 => .read
  | 1 => .write
  | 2 | 3 | 8 => .rmw
  | 7 => .fetch
  | _ => .append

/-- An access of a peer at its home: what it answers. -/
inductive Served where
  | ok (s : State) (data : List Byte) (psn : Bool) (pa : Nat)
  | bad (s : State) (e : MemErr)
  | wait (s : State)
  /-- Performed by its units (R138). -/
  | divided (s : State) (x : OutAccess)

/-- The access at its home slice (R342): atomics are system-scope atomics there (R142). `sub` is a read's size, an atomic's operation, BRED's width, or a write's poison. -/
def State.servePage (s : State) (pa kind sub : Nat) (data : List Byte) (cls leaf psize : Nat) : Served :=
  let base := pa / psize * psize
  let tv : TailView := if cls = 1 then some (base, s.tailOf base leaf) else none
  let refuse : MemErr := s.appendRefusal { space := 0, ptr := 0, pa := pa, place := 0, cls := cls, leaf := leaf, psize := psize }
  let access (n : Nat) (w : Bool) : OutAccess := { pa := pa, size := n, write := w, data := data.map fun b => (b, sub % 2 = 1), cls := cls, leaf := leaf, psize := psize }
  let s := if kind = 1 || kind = 0 || kind = 7 then s else s.touchHome (dieOfPa pa % 4) pa
  let s := if kind = 2 || kind = 3 || kind = 8 then s.noteLine pa none else s
  match kind with
  | 0 | 7 => .divided s (access (min sub 128) false)
  | 1 => if cls = 1 then .bad s refuse else .divided s (access data.length true)
  | 2 =>
    if cls = 1 then .bad s refuse
    else
      let n := if sub = 9 then data.length / 2 else data.length
      let bs := s.homeRead pa n
      let old := leNat (bs.map (·.1))
      let x := leNat (data.take n)
      let s := if atomicWrites sub old x then
          s.homeWrite pa ((leBytes n (atomicNew sub n old x (leNat (data.drop n)))).map fun b => (b, bs.any (·.2)))
        else s
      let (d, p) := packRead bs
      .ok s d p pa
  | 3 =>
    if cls = 1 then .bad s refuse
    else
      let bs := s.homeRead pa 40
      let w := (List.range 5).map fun i => leNat (((bs.map (·.1)).drop (8 * i)).take 8)
      let new := bredUpdate w ((if sub % 2 = 1 then f64 else f32).decode (leNat data))
      let out := new.flatMap (leBytes 8)
      .ok (s.homeWrite pa (out.zipIdx.map fun (b, i) => (b, (bs.getD i (0, false)).2))) (leBytes 8 (w.getD 0 0) ++ leBytes 8 (new.getD 0 0)) false pa
  | 4 =>
    let bs := s.homeRead pa 40 tv
    let w := (List.range 5).map fun i => leNat (((bs.map (·.1)).drop (8 * i)).take 8)
    .ok s (leBytes 8 (binfinValue w) ++ (if bs.any (·.2) then leBytes 2 1 else [])) (bs.any (·.2)) pa
  | 5 =>
    if cls ≠ 1 then .bad s { code := 9, d1 := cls }
    else match s.appendAt base leaf psize data with
      | (s, .error e) => .bad s e
      | (s, .ok off) => .ok s (leBytes 4 off) false pa
  | 8 =>
    if cls = 1 then .bad s refuse
    else
      let bs := s.homeRead pa 20
      .ok (s.homeWrite pa (countsAdded bs ((List.range 5).map (le32 data)))) [] false pa
  | _ => if cls ≠ 1 then .bad s { code := 9, d1 := cls } else .ok (s.sealAt base leaf psize) [] false pa

/-- The record of COMPRESSED metadata that a peer's read finds poisoned (R411): in the log of the context it names, by no thread (log 60). -/
def State.peerMeta (s : State) (ctx va pa kind sub : Nat) : State :=
  if kind = 1 || kind = 5 || kind = 6 || !s.metaBad (lineOf pa) then s
  else
    let e : MemErr := { code := 0x10, d1 := lineOf pa }
    (s.logFault ctx { addr := va, etime := s.etimeAt 0, wher := whereNoThread 0 ctx, cause := causeWord false true false 0 2 0x10,
                      d0 := memD0 e (regionOf va) (if kind = 0 || kind = 4 || kind = 7 then 0 else 2) (if kind = 0 then min sub 32 else 8), d1 := lineOf pa }).1

/-- The target's checks (R342): the page tables of TCTX with their permissions and classes; bounds were the requester's. -/
def State.serveRequest (s : State) (ctx va kind sub : Nat) (data : List Byte) : Served :=
  match s.contexts.look ctx with
  | none => .bad s { code := 0xe }
  | some c =>
    let k := remoteNeed kind
    match walk 0 ctx (vaOf va) k 5 c.ptroot s with
    | (s, .error e) => .bad s e
    | (s, .ok w) =>
      let size := leafSize w.lvl
      let frame := bits w.tw 47 12 * 4096
      let pa := frame + vaOf va % size
      let cls := w.aw % 4
      let s := if k.writes then s.orByte (w.leaf + 1) 1 else s
      if reservedPa pa then .bad s { code := 7, d1 := pa }
      else
        let s := (s.noteFrame frame size cls (mdOf w.aw) w.leaf).noteWalk ctx (vaOf va / size * size) size frame w.leaf
        if inRegs pa then (if kind = 7 then .bad s { code := 7, d1 := pa } else .ok s (if kind = 0 then s.regRead pa sub else []) false pa)
        else match s.fencedErr pa with
          | some e => .bad s e
          | none =>
            if cls = 2 && bit w.aw 5 then .wait (s.wantPage 0 ctx va ⟨frame, size, w.leaf⟩)
            else if cls = 1 && s.badAppend w.leaf size then
              .bad s { code := 4, reason := 7, d1 := s.homeNat w.leaf 8 }
            else if s.mapPending (lineOf pa) then .wait s
            else (s.peerMeta ctx va pa kind sub).servePage pa kind sub data cls w.leaf size

/-- REMOTE_REQUEST (R342, R432): the import bitmap, the checks and the access; a request already performed is answered again. -/
def execRemoteRequest (src seq ctx : Nat) (va : Dword) (kind sub : Nat) (data : List Byte) (s : State) : Host.Outcome State Fault Refusal :=
  if !s.podUp then .next s
  else match s.served.find? fun (x : (Nat × Nat) × List Byte) => x.1 = (src, seq) with
    | some (_, bs) => .next (s.answer (src + 1) bs)
    | none =>
      if s.outside.any fun x => x.who = src + 1 && x.seq = seq then .next s
      else if !bit (s.imports.lookD ctx 0) src then .next (s.reply src seq ({ code := 0xe } : MemErr).word 0 false [])
      else match s.serveRequest ctx va.toNat kind sub data with
        | .ok s d p pa => .next (s.reply src seq 0 pa p d)
        | .bad s e => .next (s.reply src seq e.word e.d1 false [])
        | .wait s => .next s
        | .divided s x => .next (s.acceptOutside { x with who := src + 1, seq := seq, ctx := ctx, va := va.toNat })

/-! ### Answers to this device's requests (R149, R413) -/

/-- Bytes of an answer with their poison. -/
def unpackRead (n : Nat) (psn : Bool) (data : List Byte) : List MByte :=
  let m := if psn then leNat (data.drop n) else 0
  ((data.take n).zipIdx).map fun (b, i) => (b, bit m (i / 8))

/-- Bytes of a write-back that the view still holds as they were sent: none stored since (R149). -/
def RemReq.kept (r : RemReq) (s : State) : List Nat :=
  ((List.range r.op.data.length).map (r.op.pa + ·)).filter fun a => (s.l1.look (l1Key r.op.core r.op.ctx a)).any fun c => c.dirty && c.sent

/-- A write-back that its device refuses or never answers is discarded with all that is in flight of its line, with a record of KIND 6 (R398, R401, R413). -/
def State.discardRemote (s : State) (r : RemReq) (e : MemErr) : State :=
  let same (x : RemReq) : Bool := x.wb && x.op.op = .store && x.op.core = r.op.core && x.op.ctx = r.op.ctx && lineOf x.op.pa = lineOf r.op.pa
  let rs := r :: s.remotes.filter fun x => same x && x.id ≠ r.id
  let s : State := { s with remotes := s.remotes.filter fun x => !same x }
  let s := rs.foldl (fun s (x : RemReq) => (x.kept s).foldl (fun s a => s.l1Remove x.op.core x.op.ctx a 1) s) s
  let d0 := memD0 e (regionOf r.op.ptr) 6 (rs.foldl (fun n x => n + x.op.size) 0)
  (s.logFault r.op.ctx { addr := r.op.ptr / 128 * 128, etime := (s.core r.op.core).etime.toNat, wher := whereNoThread r.op.core r.op.ctx,
                         cause := causeWord false false false 0 e.group e.code, d0 := if e.group = 9 then e.d1 else d0, d1 := if e.group = 9 then 0 else e.d1 }).1

/-- What a request made at issue stands for: 0 a fetch, 1 a fill of a window, 2 a structure read. -/
def PendOp.waitKind (o : PendOp) : Nat := if 2 ^ 60 ≤ o.id then 2 else if 2 ^ 59 + 2 ^ 58 ≤ o.id then 1 else 0

/-- The cause that a failed request made at issue is to its thread (R401, R444). -/
def PendOp.waitCause (o : PendOp) (e : MemErr) : Cause :=
  match o.waitKind with
  | 0 => { e.cause 0 o.pc 3 4 false with noInsn := true }
  | 1 => e.cause 0 o.asked.1 0 o.asked.2 false
  | _ => e.cause 0 o.asked.1 0 (min o.asked.2 32) false

/-- Traps the threads of a packet that wait at the instruction a failed request was made for: a fetch fails for all of them, a structure read or a fill of a window for each that asks for the same page. -/
def State.trapWaiting (s : State) (o : PendOp) (e : MemErr) : State :=
  let here (t : Nat) : Bool := t / 32 = o.tid / 32 && (s.thread t).run = .ready && (s.thread t).pc.toNat = o.pc
  let mates : List (Nat × Cause) :=
    if o.waitKind = 0 then ((s.threads.map (·.1)).filter fun t => here t && t ≠ o.tid).map fun t => (t, o.waitCause e)
    else (s.remotes.filter fun r => !r.wb && 2 ^ 59 ≤ r.op.id && r.op.id < 2 ^ 62 && r.op.waitKind = o.waitKind && r.op.pc = o.pc && r.op.tid ≠ o.tid
      && here r.op.tid && (r.op.waitCause e).key = (o.waitCause e).key).map fun r => (r.op.tid, r.op.waitCause e)
  if !here o.tid then s
  else
    let cs := ((o.tid, o.waitCause e) :: mates).mergeSort fun x y => x.1 ≤ y.1
    let s := { s with remotes := s.remotes.filter fun r => !(!r.wb && 2 ^ 59 ≤ r.op.id && r.op.id < 2 ^ 62 && r.op.waitKind = o.waitKind && mates.any fun x => x.1 = r.op.tid) }
    s.report (cs.length + 1) cs (if o.waitKind = 0 then 0 else o.insn) 0

/-- A request that ends with an error (R413). -/
def State.remoteFail (s : State) (r : RemReq) (e : MemErr) : State :=
  let o := r.op
  if r.wb then
    match o.op with
    | .store => s.discardRemote r e
    | _ =>
      if o.ofStream then s.refuseAdd o e
      else if 2 ^ 62 ≤ o.pkt then s.refuseEng o e
      else s.drainFail o e
  else if 2 ^ 62 ≤ o.id then
    { s with ops := s.ops.map fun x => if x.id = engOpOf o.id then { x with unread := (lineOf o.pa, e) :: x.unread } else x }
  else if 2 ^ 59 ≤ o.id then s.trapWaiting o e
  else match s.findPend o.id with
    | none => s
    | some p =>
      if p.op.isPref then s.completeOp p
      else s.failPend p e

/-- The records of poisoned granules read from a peer, once for each packet (R375, R412): D0 the address at the target. -/
def State.noteRemote (s : State) (o : PendOp) (pa : Nat) (bs : List MByte) : State := s.noteReads o 5 8 pa bs

/-- A fill's line enters the view that asked for it (R137); the operation that asked has its records written now. -/
def State.fillRemote (s : State) (r : RemReq) (aux : Nat) (psn : Bool) (data : List Byte) : State :=
  let o := r.op
  let bs := unpackRead 128 psn data
  let s := match s.findPend o.id with
    | none => s
    | some p =>
      let at' := p.pa % 128
      let mine := (bs.drop at').take p.size
      let s := s.noteRemote p (aux + at') mine
      { s with noted := (poisonedGranules 8 (aux + at') mine).map (fun g => (p.pkt, 3 * 2 ^ 90 + g)) ++ s.noted }
  { s.l1Take o.core o.ctx o.pa bs with farPa := s.farPa.put (l1Key o.core o.ctx o.pa) aux }

/-- The events of a BRED performed at a peer (R395), from the old and the new header. -/
def State.remoteBins (s : State) (o : PendOp) (data : List Byte) : State :=
  let old := leNat (data.take 8)
  let new := leNat ((data.drop 8).take 8)
  let ev (s : State) (b code : Nat) : State :=
    if bit new b && !bit old b && (2 ^ 59 ≤ o.pkt || !s.aborting o.tid) then s.opRec o (causeWord false false false 0 1 code) (leNat o.data) new else s
  ev (ev s 20 0x82) 19 0x83

/-- An operation performed at its peer: its result, its acquire, its counter. -/
def State.finishRemote (s : State) (o : PendOp) (aux : Nat) (psn : Bool) (data : List Byte) : State :=
  let bs := unpackRead o.size psn data
  let v := leNat (bs.map (·.1))
  match o.op with
  | .load sg => ((s.noteRemote o aux bs).deliverLoad o sg bs).completeOp o
  | .atomic _ ret _ acq scope =>
    let s := (s.noteRemote o aux bs).dropOwn o
    let s := if acq then s.acquire scope o.core o.ctx else s
    (if ret then (s.deliverOp o v (bs.any (·.2))).noteSample o v (bs.any (·.2)) else s).completeOp o
  | .bred _ => ((s.remoteBins o data).dropOwn { o with size := 64 }).completeOp o
  | .binfin => (if psn then s.noteRemote o aux [(0, true)] else s).deliverBin o (leNat (data.take 8)) psn
  | .append =>
    let off := leNat (data.take 4)
    (((s.dropOwn { o with pa := o.pa + off, size := o.data.length }).deliverOp o off false).noteSample o off false).completeOp o
  | .store | .sealing | .pref | .cinv _ => s.completeOp o

/-- Whether the line that a request fills has or can get a frame of its L1 (R15): the data waits for one. -/
def State.fillRoomy (s : State) (r : RemReq) : Bool := r.wb || r.op.size ≠ 128 || !r.op.op.isLoad || s.l1Roomy r.op.core r.op.ctx r.op.pa

/-- An answer without an error. -/
def State.remoteDone (s : State) (r : RemReq) (aux : Nat) (psn : Bool) (data : List Byte) : State :=
  if r.wb then
    match r.op.op with
    | .store => (r.kept s).foldl (fun s a => s.l1Clean r.op.core r.op.ctx a 1) s
    | .atomic .. => s.dropOwn r.op
    | .bred _ => (s.remoteBins r.op data).dropOwn { r.op with size := 64 }
    | _ => s
  else if r.op.size = 128 && r.op.op.isLoad then s.fillRemote r aux psn data
  else match s.findPend r.op.id with
    | none => s
    | some o => s.finishRemote o aux psn data

/-- REMOTE_RESPONSE (R149, R413): an acknowledgement, data or an error; a request without a link has no answer (R432). -/
def execRemoteResponse (req err : Nat) (aux : Dword) (psn : Bool) (data : List Byte) (s : State) : Host.Outcome State Fault Refusal :=
  match s.remotes.find? (·.id = req) with
  | none => .next s
  | some r =>
    if 12 ≤ r.link || (err = 0 && !s.fillRoomy r) then .next s
    else
      let s := { s with remotes := s.remotes.filter (fun x => x.id ≠ req), links := s.links.put r.link { s.links.lookD r.link {} with fails := 0 } }
      if err = 0 then .next ((s.remoteDone r aux.toNat psn data).settleFailed r.op.pkt)
      else
        let e := remoteErr err aux.toNat
        .next (s.remoteFail r (if e.code = 0xe then { e with d1 := r.dev } else e))

/-- REMOTE_TIMEOUT (R413): unanswered for 1 ms of ETIME. -/
def execRemoteTimeout (req : Nat) (s : State) : Host.Outcome State Fault Refusal :=
  match s.remotes.find? (·.id = req) with
  | none => .next s
  | some r =>
    if elapsed (s.etimeOf r.op.tid) r.since < 10 ^ 9 then .next s
    else .next ({ s with remotes := s.remotes.filter fun x => x.id ≠ req }.remoteFail r { code := 0xf, d1 := r.dev })

end Sys2Proof.Machine
end

