-- ==== Sys2Proof/Machine/Slalom.lean ====
section
/-! DEFINITION. The Slalom sampler: MARCH and its batches (R275, R276, R325 to R328, R424). -/

namespace Sys2Proof.Machine

/-! ### Commands (R275, R325, R327) -/

/-- A MARCH command (R275). -/
structure MarchCmd where
  rays : Nat
  occ : Nat
  grid : Nat
  nrays : Nat
  dt : Nat
  maxs : Nat
  ores : Nat
  levels : Nat
  orow : Nat
  scope : Nat
  deriving DecidableEq, Repr

def parseMarch (b : List Byte) : MarchCmd :=
  { rays := fld b 0 8, occ := fld b 8 8, grid := fld b 16 8, nrays := fld b 24 4, dt := fld b 28 4, maxs := fld b 32 2, ores := fld b 34 1,
    levels := fld b 35 1, orow := fld b 36 2, scope := fld b 38 1 % 8 }

def posFinite (x : Nat) : Bool := finite32 x && !f32.neg x && f32.mag x ≠ 0

/-- The offences of a command (R275). -/
def State.marchOffences (s : State) (core crew : Nat) (b : List Byte) : List Offence :=
  let c := parseMarch b
  offends (8 ≤ fld b 38 1) 2 38 ++ mustZero b 39 25 ++ offends (c.nrays = 0 || 1024 < c.nrays) 3 24 ++ offends (!posFinite c.dt) 3 28
    ++ offends (c.maxs = 0 || 4096 < c.maxs) 3 32 ++ offends (c.levels = 0 || 16 < c.levels) 3 35 ++ scopeOffence c.scope 38
    ++ match s.resOf core crew c.ores with
      | none => [(6, 34)]
      | some (_, r) => offends (r.fmt ≠ 7) 3 34 ++ offends (r.rows < c.orow + 2 * c.maxs) 3 36

/-- The offences of an occupancy descriptor (R325). -/
def occOffences (d : List Byte) : List Offence :=
  let g := parseOcc d
  let lo (a : Nat) : List Offence := offends (!finite32 (g.lo.getD a 0)) 3 (72 + 4 * a)
  mustZero' 26 6 ++ lo 0 ++ lo 1 ++ lo 2 ++ offends (!posFinite g.cell) 3 84 ++ offends (g.rlog = 0 || 10 < g.rlog) 3 88
    ++ offends (g.nlev = 0 || min 8 (g.rlog + 1) < g.nlev) 3 89
    ++ (List.range 8).flatMap fun m => offends (g.nlev ≤ m && g.off.getD m 0 ≠ 0) 3 (96 + 4 * m)
where
  /-- Reserved bytes, with offsets from the end of the command (R415). -/
  mustZero' (lo n : Nat) : List Offence := offends (fld d lo n ≠ 0) 2 (64 + lo)

/-- The offences of a hash-grid descriptor (R327). -/
def gridOffences (levels : Nat) (d : List Byte) : List Offence :=
  let g := parseGrid d
  let lo (a : Nat) : List Offence := offends (!finite32 (g.lo.getD a 0)) 3 (136 + 4 * a)
  offends (g.tbl % 4 ≠ 0) 3 128 ++ lo 0 ++ lo 1 ++ lo 2 ++ offends (!posFinite g.ext) 3 148 ++ offends (g.tlog < 10 || 24 < g.tlog) 3 152
    ++ offends (fld d 25 7 ≠ 0) 2 153
    ++ (List.range 16).flatMap fun l => offends (if l < levels then g.res.getD l 0 = 0 else g.res.getD l 0 ≠ 0) 3 (160 + 2 * l)

/-- One lane of MARCH: both descriptors are read with the command (R325). -/
def marchLane (i : Instr) (tag : Nat) (s : State) (t : Nat) (a : Given) : LaneOut :=
  let core := coreOf t
  let p := a.v 0
  let insn := (encode i).toNat
  if 8 ≤ (s.ops.filter fun o => o.core = core && o.kind = .march).length || 255 ≤ (s.thread t).tiles then .wait
  else engineLane 7 64 64 insn (some tag) s t p fun s b _ offs =>
    match s.crewIdOf t with
    | none => .wait
    | some k =>
      let c := parseMarch b
      if c.occ % 64 ≠ 0 || c.grid % 64 ≠ 0 then refuseOr 7 p s [(1, if c.occ % 64 ≠ 0 then 8 else 16)] .wait
      else match s.readStruct t c.occ 64 insn true with
        | .out r => r
        | .ok s d psn wrong =>
          match s.readStruct t c.grid 64 insn true with
          | .out r => r
          | .ok s e psn' wrong' =>
            refuseOr 7 p s (offs ++ offends (psn || psn') 5 noField ++ s.marchOffences core k b ++ occOffences d ++ gridOffences c.levels e
                ++ offends wrong 8 8 ++ offends wrong' 8 16)
              (.done (((s.acceptEng { s.newEng t .march tag p insn b with desc := d ++ e }).addTiles t).advance t) [])

/-! ### Reads (R327, R424) -/

/-- A record of a bitfield or table access that failed, one per key of the command (R424). -/
def EngRun.sampleFault (r : EngRun) (ptr group code : Nat) : EngRun :=
  let m := r.o.march
  let key := (group, code, regionOf ptr, vaOf ptr / 65536)
  if m.keys.contains key || 32 ≤ m.keys.length then r
  else
    let o := r.o.access (.load false) r.o.ptr 4 { pa := 0 }
    { r with s := r.s.opRec o (causeWord false false false 0 7 2) ptr (group * 65536 + code), o := { r.o with march := { m with keys := key :: m.keys } } }

/-- A read of bytes of one 8-byte unit, and whether it failed or was poisoned; its record is that of R424. -/
def EngRun.sampleRead (r : EngRun) (ptr n : Nat) : EngRun × List Byte × Bool :=
  let (r1, bs) := { r with faults := [] }.readUnit ptr n
  let r2 := { r1 with faults := r.faults }
  match r1.faults with
  | f :: _ => (r2.sampleFault ptr f.err.group f.err.code, bs.map (·.1), true)
  | [] =>
    if bs.any (·.2) then
      let code := match r.place ptr n .read with
        | (_, some tr) => r.s.viewCode (r.o.access (.load false) ptr n tr)
        | (_, none) => 5
      (r2.sampleFault ptr 10 code, bs.map (·.1), true)
    else (r2, bs.map (·.1), false)

/-! ### Samples (R276, R326, R327) -/

/-- A ray by its eight words (R275). -/
def rayWords (w : List Nat) : Ray := { o := w.take 3, tmin := w.getD 3 0, d := (w.drop 4).take 3, tmax := w.getD 7 0 }

/-- The words of the ray of an index, where it produces samples: no component is NaN, infinite or poisoned, and DIR is not zero. -/
def EngRun.marchRay (r : EngRun) (i : Nat) : EngRun × Option (List Nat) :=
  let (r, bs) := r.read (ptrAdd (parseMarch r.o.cmd).rays (32 * i : Nat)) 32
  let w := (List.range 8).map fun k => fld (bs.map (·.1)) (4 * k) 4
  (r, if bs.any (·.2) || !w.all finite32 || (rayWords w).d.all (fun x => f32.mag x = 0) then none else some w)

/-- Whether a cell of a level is occupied: bit b of its byte; a byte that cannot be read has every bit 1 (R424). -/
def EngRun.occupied (r : EngRun) (g : Occ) (m : Nat) (c : List Nat) : EngRun × Bool :=
  let (off, b) := g.place m c
  match r.sampleRead (ptrAdd g.bits' off) 1 with
  | (r, _, true) => (r, true)
  | (r, bs, false) => (r, bit (byteAt' bs) b)
where
  byteAt' (bs : List Byte) : Nat := (bs.getD 0 0).toNat

/-- The highest level whose cell at p holds 0, from level `n` − 1 down. The bytes of lower levels may be read before those of higher ones (R144). -/
def EngRun.emptyLevel (g : Occ) (p : List Nat) : Nat → EngRun → EngRun × Option Nat
  | 0, r => (r, none)
  | n + 1, r =>
    let cell (m : Nat) : List Nat := (List.range 3).map fun a => g.cellAt m (p.getD a 0) a
    match r.occupied g n (cell n) with
    | (x, o) =>
      if x.gap then ((List.range n).reverse.foldl (fun y m => (y.occupied g m (cell m)).1.ahead y) x, none)
      else if o then EngRun.emptyLevel g p n x
      else (x, some n)

/-- The level of R326 at p; its reads take one number each of the grid's levels. -/
def EngRun.levelAt (r : EngRun) (g : Occ) (p : List Nat) : EngRun × Option Nat :=
  let (x, m) := EngRun.emptyLevel g p g.nlev r.group
  ({ x with num := r.num + g.nlev }, m)

/-- The 4-byte feature granule of a level at a point (R327, R424). -/
def EngRun.features (r : EngRun) (g : HashGrid) (p : List Nat) (l : Nat) : EngRun × List MByte :=
  let cs := gridCorners g l p
  let (r, es, bad) := cs.foldl (fun (x : EngRun × List (List Byte) × Bool) c =>
    let (r, bs, bad) := x.1.sampleRead (ptrAdd g.tbl (4 * (2 ^ g.tlog * l + c.1) : Nat)) 4
    (r, x.2.1 ++ [bs], x.2.2 || bad)) (r, [], false)
  let f (k : Nat) : Nat := feature (cs.map (·.2)) (es.map fun bs => fld bs (2 * k) 2)
  (r, (leBytes 2 (f 0) ++ leBytes 2 (f 1)).map fun b => (b, bad))

/-- Writes the row of a sample (R276); its reads of features hold nothing else up. -/
def EngRun.emitSample (r : EngRun) (i t : Nat) (p : List Nat) : EngRun :=
  let c := parseMarch r.o.cmd
  let g := parseGrid (r.o.desc.drop 64)
  let m := r.o.march
  let g' := r.gap
  let (r, fs) := (List.range c.levels).foldl (fun (x : EngRun × List MByte) l =>
    let (r, bs) := x.1.features g p l
    (r, x.2 ++ bs)) (r.group, [])
  let r := r.after g'
  let row := fs ++ clean (List.replicate (256 - 4 * c.levels) 0 ++ leBytes 4 i ++ leBytes 4 t ++ leBytes 4 c.dt ++ List.replicate 244 0)
  match r.s.resOf r.o.core r.o.crew c.ores with
  | none => r
  | some (_, res) => r.writeTile (res.base + c.orow + c.maxs * (m.batch % 2) + m.rows) 0 row

def EngRun.setMarch (r : EngRun) (m : MarchState) : EngRun := { r with o := { r.o with march := m } }

/-- EmitSample of R326 at t, and t after it. -/
def EngRun.sampleStep (r : EngRun) (t : Nat) (p : List Nat) : EngRun :=
  let r := r.emitSample r.o.march.ray t p
  let t' := ((Dy.of f32 t).add (Dy.of f32 (parseMarch r.o.cmd).dt)).round f32 .rne
  let n := r.o.march
  r.setMarch { n with t := t', stuck := decide (key32 t' = key32 t), rows := n.rows + 1, due := false }

/-- One step of R326 within a ray; none where the next sample finds the batch full: it is then due in the next batch. -/
def EngRun.marchStep (r : EngRun) : EngRun × Bool :=
  let c := parseMarch r.o.cmd
  let g := parseOcc r.o.desc
  let m := r.o.march
  let ray := rayWords m.cur
  let t := if m.stuck then nextAbove m.t else m.t
  let p := (List.range 3).map (pointAt ray t)
  if m.due then (r.sampleStep t p, true)
  else if key32 m.tend ≤ key32 t then (r.setMarch { m with ray := m.ray + 1, active := false, stuck := false }, true)
  else
    match r.levelAt g p with
    | (r, none) =>
      if r.gap then (r, true)
      else if m.rows = c.maxs then (r.setMarch { r.o.march with due := true }, false)
      else (r.sampleStep t p, true)
    | (r, some l) =>
      let t' := g.leaves l ((List.range 3).map fun a => g.cellAt l (p.getD a 0) a) ray
      let n := r.o.march
      (r.setMarch { n with t := if key32 t < key32 t' then t' else nextAbove t, stuck := false }, true)

/-- The start of a ray: its range clipped to the grid (R326). -/
def EngRun.marchStart (r : EngRun) (w : List Nat) : EngRun :=
  let g := parseOcc r.o.desc
  let m := r.o.march
  let ray := rayWords w
  match boxRange g.box.1 g.box.2 ray ray.tmin ray.tmax with
  | none => r.setMarch { m with ray := m.ray + 1 }
  | some (n, f) => r.setMarch { m with active := true, cur := w, t := n, tend := f, stuck := false }

/-- Marches until the batch is full and a further sample is due, or the command ends (R328), at most `n` steps: whether it stopped so. -/
def EngRun.marchRun : Nat → EngRun → EngRun × Bool
  | 0, r => (r, false)
  | n + 1, r =>
    let m := r.o.march
    if r.gap then (r, false)
    else if (parseMarch r.o.cmd).nrays ≤ m.ray then (r, true)
    else if m.active then
      match r.marchStep with
      | (r, true) => marchRun n r
      | (r, false) => (r, true)
    else match r.marchRay m.ray with
      | (r, none) => marchRun n (r.setMarch { r.o.march with ray := m.ray + 1 })
      | (r, some w) => marchRun n (r.marchStart w)

/-! ### Batches (R276, R328) -/

/-- Commands at a cluster's sampler that it has not taken: the first of each core. -/
def State.samplerHeads (s : State) (cl : Nat) : List EngOp :=
  (List.range 4).filterMap fun i => s.ops.find? fun o => o.kind = .march && !o.march.begun && o.core = 4 * cl + i

/-- Whether the sampler takes a command: it is its core's first, in the core's turn by local index (R16). -/
def State.samplerTakes (s : State) (o : EngOp) : Bool :=
  let cl := clusterOf o.core
  let l := s.samplerHeads cl
  l.any (·.id = o.id) && inTurn (s.samplers.lookD cl 0) 4 (l.map (·.core % 4)) = some (o.core % 4)

/-- A command that its sampler takes now. -/
def State.beginMarch (s : State) (o : EngOp) : State × EngOp :=
  if o.march.begun then (s, o)
  else
    let o := { o with march := { o.march with begun := true } }
    (({ s with samplers := s.samplers.put (clusterOf o.core) ((o.core + 1) % 4) }).setEng o, o)

/-- Whether a command goes on: its sampler has taken it or takes it now, and batch n may be written (R276), the status of batch n − 1 having been popped; for a thread that has exited it counts as popped. -/
def State.marchTurn (s : State) (o : EngOp) : Bool :=
  o.kind = .march && !o.march.done && (o.march.begun || s.samplerTakes o) && (o.march.batch ≤ 1 || o.march.batch ≤ o.popped || (s.thread o.tid).run = .exited)

def batchStatus (done : Bool) (n count : Nat) : Nat := done.toNat * 2 ^ 31 + n % 2 * 2 ^ 30 + count

/-- The DONE batch: the command completes, then its status is pushed (R276). -/
def State.finishMarch (s : State) (o : EngOp) : State :=
  match s.completeEng o (parseMarch o.cmd).scope with
  | (s, false) => s
  | (s, true) => (s.subTiles o.tid).pushPop o.tid 9 { val := BitVec.ofNat 64 (batchStatus true o.march.batch o.march.rows), src := o.id }

/-- Steps that one event makes at most. -/
def marchBound : Nat := 65536

/-- A command goes on from where it stands: its run, and whether it has come to the end of a batch. -/
def State.marchOn (s : State) (o : EngOp) (aim : Option EngAim := none) : EngRun × Bool := EngRun.marchRun marchBound (s.engRun o aim)

/-- MARCH_BATCH (R276, R328): the sampler goes on with its batch, and pushes the batch's status, or completes with the last batch. -/
def execMarchBatch (op : Nat) (s : State) : Host.Outcome State Fault Refusal :=
  match s.findEng op with
  | none => .next s
  | some o =>
    if o.kind = .march && o.march.done then .next (s.finishMarch o)
    else if !s.marchTurn o then .next s
    else
      let (s, o) := s.beginMarch o
      let (r, whole) := s.marchOn o
      match r.stop with
      | some w => .next (s.engWait o w)
      | none =>
        let s := r.logFaults
        let m := r.o.march
        if !whole then .next (s.setEng r.kept)
        else if (parseMarch o.cmd).nrays ≤ m.ray then
          let o := { r.kept with march := { m with done := true } }
          .next ((s.setEng o).finishMarch o)
        else
          let s := s.setEng { r.kept with march := { m with batch := m.batch + 1, rows := 0 } }
          .next (s.pushPop o.tid 9 { val := BitVec.ofNat 64 (batchStatus false m.batch m.rows), src := o.id })

/-- Pushes a Slalom marching command (R275). -/
def execMarch (a : BitVec 7) (t : BitVec 6) (s : State) : Host.Outcome State Fault Refusal :=
  runPacket (.march a t) false (marchLane (.march a t) t.toNat) s

end Sys2Proof.Machine
end

