-- ==== Sys2Proof/Machine/Issue.lean ====
section
/-! DEFINITION. The choice of packets: which threads could issue, candidates, streaming, priorities, floors and class batching, and the cycles of cores and queue cores (R31 to R39, R42, R45, R60, R208, R286, R291 to R293). -/

namespace Sys2Proof.Machine

/-! ### Which threads could issue -/

/-- The instructions whose threads may be left out of a packet for what the machine holds, besides the conditions of `laneReady`: a counter at its limit (R223), a full queue (R242, R243), an order among accesses (R136), pending results (R54), an exit's release (R209). -/
def Instr.held : Instr → Option (State → Host.Outcome State Fault Refusal)
  | .ld u d a w p o => some (execLd u d a w p o)
  | .lds u d a w p o => some (execLds u d a w p o)
  | .st u d a w p o => some (execSt u d a w p o)
  | .pref a => some (execPref a)
  | .cinvCore a => some (execCinvCore a)
  | .cinvClu a => some (execCinvClu a)
  | .cinvDie a => some (execCinvDie a)
  | .cinvDev a => some (execCinvDev a)
  | .cinvSys a => some (execCinvSys a)
  | .atom32 d a s p o r => some (execAtom32 d a s p o r)
  | .atom64 d a s p o r => some (execAtom64 d a s p o r)
  | .red32 d a s p o r => some (execRed32 d a s p o r)
  | .red64 d a s p o r => some (execRed64 d a s p o r)
  | .bredF32 a b => some (execBredF32 a b)
  | .bredF64 a b => some (execBredF64 a b)
  | .binfin d a => some (execBinfin d a)
  | .appendB32 d a b => some (execAppendB32 d a b)
  | .appendB64 d a b => some (execAppendB64 d a b)
  | .appendB128 d a b => some (execAppendB128 d a b)
  | .appendB256 d a b => some (execAppendB256 d a b)
  | .sealPage a => some (execSealPage a)
  | .twany d a => some (execTwany d a)
  | .twall a => some (execTwall a)
  | .tffr d a => some (execTffr d a)
  | .waita d a b => some (execWaita d a b)
  | .wake d a b => some (execWake d a b)
  | .fenceAcq s => some (execFenceAcq s)
  | .fenceRel s => some (execFenceRel s)
  | .fenceAr s => some (execFenceAr s)
  | .waitc l s c t => some (execWaitc l s c t)
  | .phreg d a b => some (execPhreg d a b)
  | .phdrop a => some (execPhdrop a)
  | .phsig a => some (execPhsig a)
  | .phwt d a => some (execPhwt d a)
  | .pharv d a => some (execPharv d a)
  | .phregDev d a b => some (execPhregDev d a b)
  | .phdropDev a => some (execPhdropDev a)
  | .phsigDev a => some (execPhsigDev a)
  | .phwtDev d a => some (execPhwtDev d a)
  | .pharvDev d a => some (execPharvDev d a)
  | .wopen d a b => some (execWopen d a b)
  | .wshut a => some (execWshut a)
  | .spmap d a b => some (execSpmap d a b)
  | .spunmap a => some (execSpunmap a)
  | .call h o => some (execCall h o)
  | .callx u a h => some (execCallx u a h)
  | .ret => some execRet
  | .wbase n => some (execWbase n)
  | .exit => some execExit
  | .eret => some execEret
  | .launch d a => some (execLaunch d a)
  | .gwait a => some (execGwait a)
  | .qsig a => some (execQsig a)
  | .tres d a f => some (execTres d a f)
  | .trel a => some (execTrel a)
  | .mxop a t f => some (execMxop a t f)
  | .mxswap => some execMxswap
  | .bload d a t => some (execBload d a t)
  | .copy d a t => some (execCopy d a t)
  | .gath d a t => some (execGath d a t)
  | .scat d a t => some (execScat d a t)
  | .emit a f => some (execEmit a f)
  | .march a t => some (execMarch a t)
  | .trace a t f => some (execTrace a t f)
  | .tdecCont a => some (execTdecCont a)
  | .tdecAcc a => some (execTdecAcc a)
  | .tdecTerm a => some (execTdecTerm a)
  | .trap c => some (execTrap c)
  | _ => none

/-- Whether a thread alone would issue an instruction now, or begin what it waits for. -/
def State.acts (s : State) (i : Instr) (t : Nat) : Bool :=
  match Instr.held i with
  | none => true
  | some f =>
    let s := { s with cur := { tids := [t] } }
    match f s with
    | .next s' => s' ≠ s
    | .fault .. | .refused .. => true

/-- Whether a thread's fetch does something: it is not one that only waits for a line on its way. -/
def State.fetches (s : State) (t : Nat) : Bool :=
  let s := { s with cur := { tids := [t] } }
  match s.fetch t with
  | (s', .wait) => s' ≠ s
  | (_, .word _) | (_, .fail _) => true

/-- Whether a ready thread could issue a word now. -/
def State.wordReady (s : State) (w : Word) (t : Nat) : Bool :=
  let s := { s with cur := {} }
  s.canIssue t && s.fetches t && match decode w with
    | none => true
    | some i =>
      (i.check (isQueueTid t)).isSome
        || (laneReady i s t && (isQueueTid t || !recentOn i (s.thread t) (s.core (coreOf t)).cyc.toNat) && s.acts i t)

/-! ### Candidates (R32, R37, R38) -/

/-- What a pipeline may issue: the threads at a PC of a wave in its quarter, a block, one overflowed thread, or a cross-thread group. -/
structure Cand where
  pipes : List Nat
  slot : Nat
  pc : Nat
  tids : List Nat
  word : Word
  prio : Nat
  since : Nat
  sat : Option Nat := none
  yields : Bool := false
  stream : Option Nat := none
  group : Bool := false
  deriving DecidableEq, Repr

def Cand.cls (c : Cand) : Nat := wordClass c.word
def Cand.fp64 (c : Cand) : Bool := wordFp64 c.word
/-- Whether a pipeline could issue a candidate by itself. -/
def Cand.on (c : Cand) (k : Nat) : Bool := !c.group && c.pipes.contains k

/-- The wave of a slot, its priority, and its grid where streamed. -/
def State.waveInfo (s : State) (core slot : Nat) : Nat × Nat × Option Nat :=
  match s.waves.look (core * 96 + slot) with
  | none => (0, 0, none)
  | some v =>
    match s.crews.look v.crew with
    | none => (0, v.since, none)
    | some c => (c.prio, v.since, if (s.grids.look c.grid).any (·.flag 1) then some c.grid else none)

/-- Threads at a place that could issue its word now: not held, not yielded, their ordered wave running. -/
def State.readyAt (s : State) (ts : FMap Thread) (w : Word) (slot pc : Nat) : List Nat :=
  (ts.filter fun (t, x) => slotOf t = slot && x.pc.toNat = pc && x.run = .ready && !x.yielded && !x.joined
    && (!s.orderedGrid t || ((s.waveAt t).map (·.running)).getD false) && s.wordReady w t).map (·.1)

/-- Candidates of one entry, by quarter. -/
def State.entryCands (s : State) (core : Nat) (ts : FMap Thread) (e : Entry) : List Cand :=
  if e.hold then []
  else match ts.find? fun (t, x) => slotOf t = e.slot && x.pc.toNat = e.pc with
    | none => []
    | some (t, _) =>
      let w := s.peek t
      let rs := s.readyAt ts w e.slot e.pc
      let (prio, since, stream) := s.waveInfo core e.slot
      let now := (s.core core).cyc.toNat
      (List.range 4).filterMap fun k =>
        let q := rs.filter fun t => quarterOf t = k
        if q = [] then none
        else some { pipes := [k], slot := e.slot, pc := e.pc, tids := q, word := w, prio := prio, since := since, sat := e.sat,
                    yields := q.any (fun t => now < (s.thread t).yieldTo), stream := stream }

/-- The candidate of a wave's overflow list: its lowest thread that can issue (R31). -/
def State.overflowCand (s : State) (core : Nat) (ts : FMap Thread) (es : List Entry) (e : Entry) : List Cand :=
  let rest := ts.filter fun (t, x) => slotOf t = e.slot && (entryAt es e.slot x.pc.toNat).isNone
  match rest.find? fun (t, x) => (s.readyAt ts (s.peek t) e.slot x.pc.toNat).contains t with
  | none => []
  | some (t, x) =>
    let (prio, since, _) := s.waveInfo core e.slot
    [{ pipes := [quarterOf t], slot := e.slot, pc := x.pc.toNat, tids := [t], word := s.peek t, prio := prio, since := since, sat := e.sat,
       yields := (s.core core).cyc.toNat < x.yieldTo }]

/-- The blocks a streamed grid's candidates make up (R37): all its ready threads at one PC, in the order of wave slot and thread, for every pipeline. A block of several entries has the least of their order numbers under R33 and counts as resident since the first of its waves came (log 54, DESIGN CHOICE: R33 ranks entries, not blocks). -/
def blocksOf (mine : List Cand) : List Cand :=
  ((mine.map (·.pc)).eraseDups).filterMap fun pc =>
    match mine.filter fun c => c.pc = pc with
    | [] => none
    | c :: r =>
      let here := c :: r
      some { c with
        pipes := List.range 4, tids := (here.flatMap (·.tids)).mergeSort fun a b => a ≤ b, since := r.foldl (fun m c => min m c.since) c.since
        sat := (here.filterMap (·.sat)).min?, yields := here.all (·.yields) }

/-- The block with the most threads; of blocks with equally many the one at the lowest PC (log 54, DESIGN CHOICE: the manual names no order). -/
def widest : List Cand → Option Cand
  | [] => none
  | c :: r => some (r.foldl (fun m x => if m.tids.length < x.tids.length || (m.tids.length = x.tids.length && x.pc < m.pc) then x else m) c)

/-- The block a pipeline serves (R37): the one at the PC in hand while it has ready threads, else the widest. -/
def blockAt (old : Option Nat) (bs : List Cand) : Option Cand :=
  (bs.find? fun b => some b.pc = old).or (widest bs)

/-- Candidates with each streamed grid's turned into its block; beside them all blocks of those grids. -/
def streamed (cs : List Cand) (blocks : FMap Nat) : List Cand × List Cand :=
  let gs := (cs.filterMap (·.stream)).eraseDups
  let all := gs.map fun g => (g, blocksOf (cs.filter fun c => c.stream = some g))
  ((cs.filter (·.stream.isNone)) ++ all.filterMap (fun (g, bs) => blockAt (blocks.look g) bs), all.flatMap (·.2))

/-- Cross-thread groups that have formed on a core (R38). A group keeps its priority where one of its threads has yielded within 16 cycles (log 54, DESIGN CHOICE: R208 says so of entries). -/
def State.groups (s : State) (core : Nat) (ts : FMap Thread) : List Cand :=
  let conv := ts.filter fun (_, x) => x.run.isConverging
  (places conv).filterMap fun (slot, pc) =>
    match conv.find? fun (t, x) => slotOf t = slot && x.pc.toNat = pc with
    | none => none
    | some (t, x) =>
      let w := s.peek t
      let (prio, since, _) := s.waveInfo core slot
      if s.orderedGrid t && !((s.waveAt t).map (·.running)).getD false then none
      else match decode w with
        | none => none
        | some i => (s.xtGroup i (core * 96 + slot) x.pc).map fun g =>
          { pipes := (g.map quarterOf).eraseDups, slot := slot, pc := pc, tids := g, word := w, prio := prio, since := since, group := true }

/-- Threads that reach a cross-thread instruction become Converging (R38). -/
def State.converge (s : State) (core : Nat) : State :=
  let ts := s.threadsOn core
  let held := (s.core core).entries.filter (·.hold)
  (places ts).foldl (fun s (slot, pc) =>
    if held.any fun e => e.slot = slot && e.pc = pc then s
    else match ts.find? fun (t, x) => slotOf t = slot && x.pc.toNat = pc with
      | none => s
      | some (t, _) =>
        let w := s.peek t
        match decode w with
        | none => s
        | some i =>
          if !wordXt w || (i.check false).isSome then s
          else (s.readyAt ts w slot pc).foldl (fun s t => s.setThread t { s.thread t with run := .converging (s.etimeOf t) }) s) s

/-! ### The choice (R33, R42, R291 to R293) -/

/-- R33's order. -/
def Cand.before (a b : Cand) : Bool :=
  match a.sat, b.sat with
  | some x, some y => if x ≠ y then x < y else tail a b
  | some _, none => true
  | none, some _ => false
  | none, none => tail a b
where
  tail (a b : Cand) : Bool :=
    if a.tids.length ≠ b.tids.length then b.tids.length < a.tids.length
    else if a.pc ≠ b.pc then a.pc < b.pc
    else a.since < b.since

def bestOf (l : List Cand) : Option Cand :=
  match l with
  | [] => none
  | c :: r => some (r.foldl (fun m x => if x.before m then x else m) c)

/-- What has been chosen so far in one cycle of a core: the candidates, the pipelines in a floor cycle, whether the FP64 slot and the slow floor packet of R293 are taken, and what class batching passed over. -/
structure Choice where
  chosen : List Cand := []
  fpTaken : Bool := false
  floored : List Nat := []
  slow : Bool := false
  passed : List ((Nat × Nat × Nat) × Nat) := []

/-- Whether a pipeline has its packet. -/
def Choice.has (ch : Choice) (k : Nat) : Bool := ch.chosen.any fun c => c.pipes.contains k

/-- What is left of a block: the threads that no pipeline has taken. -/
def Choice.left (ch : Choice) (c : Cand) : Option Cand :=
  let l := c.tids.filter fun t => !ch.chosen.any fun d => d.tids.contains t
  if l = [] then none else some { c with tids := l }

/-- The PC of the block that a streamed grid's packets come from, by the last one chosen. -/
def Choice.blockPc (ch : Choice) (g : Nat) : Option Nat :=
  (ch.chosen.reverse.find? fun c => c.stream = some g).map (·.pc)

/-- What the choice of a cycle looks at. -/
structure View where
  core : Core
  cands : List Cand
  /-- Every block of the streamed grids. -/
  blocks : List Cand
  now : Nat
  /-- Last issue of a slot on a pipeline. -/
  last : Nat → Nat → Nat

/-- What a candidate offers a pipeline: of a streamed grid the first 32 threads left of its block, or once that is empty of the widest block left (R37). -/
def View.offer (v : View) (ch : Choice) (k : Nat) (c : Cand) : Option Cand :=
  match c.stream with
  | none => some c
  | some g =>
    let bs := (v.blocks.filter fun b => b.stream = some g).filterMap ch.left
    (blockAt ((ch.blockPc g).or (some c.pc)) bs).map fun b => { b with pipes := [k], tids := b.tids.take 32 }

/-- Candidates of one pipeline alone. -/
def View.at' (v : View) (ch : Choice) (k : Nat) : List Cand := (v.cands.filter (·.on k)).filterMap (v.offer ch k)

/-- Without the candidates that have yielded, where another of one of their pipelines has not (R208). -/
def View.awake (v : View) : View :=
  { v with cands := v.cands.filter fun c => !c.yields || v.cands.all fun x => x.yields || !x.pipes.any c.pipes.contains }

/-- Highest priority and slowest class of R291 step 3. -/
def View.shield (v : View) : Nat × Nat :=
  let ps := v.cands.map (fun c => (c.prio, c.cls)) ++ v.core.stages.map fun x => (x.2.2.2, x.2.2.1)
  let p := ps.foldl (fun m x => max m x.1) 0
  (p, (ps.filter fun x => x.1 = p).foldl (fun m x => max m x.2) 0)

/-- Whether an FP64 candidate is ready for arbitration: no other pipeline has one of higher priority (R292). -/
def View.fpReady (v : View) (k : Nat) (c : Cand) : Bool := v.cands.all fun x => !x.fp64 || x.pipes.contains k || x.prio ≤ c.prio

/-- A candidate that priority, shielding and FP64 arbitration leave on a pipeline. -/
def View.open' (v : View) (ch : Choice) (k : Nat) (c : Cand) : Bool :=
  let top := (v.cands.filter fun x => x.pipes.contains k).foldl (fun m x => max m x.prio) 0
  let (p, kk) := v.shield
  c.prio = top && !(c.prio < p && kk < c.cls) && (!c.fp64 || (!ch.fpTaken && v.fpReady k c))

/-- Class batching (R42): the candidates preferred, and those passed over. -/
def View.batch (v : View) (k : Nat) (l : List Cand) : List Cand × List Cand :=
  let slowest := (v.core.stages.filter fun x => 2 ≤ x.2.1).foldl (fun m x => max m x.2.2.1) 0
  let count (c : Cand) : Nat := ((v.core.passed.find? fun x => x.1 = (k, c.slot, c.pc)).map (·.2)).getD 0
  let ok := l.filter fun c => c.cls ≤ slowest || 8 ≤ count c
  if ok = [] then (l, []) else (ok, l.filter fun c => !ok.contains c)

/-- Pass counts of a pipeline that this cycle leaves as they are: of candidates still there that batching neither passed over nor, below 8, let compete (R42). -/
def View.keptCounts (v : View) (k : Nat) (judged skipped : List Cand) (won : Option Cand) : List ((Nat × Nat × Nat) × Nat) :=
  let at' (x : (Nat × Nat × Nat) × Nat) (c : Cand) : Bool := (c.slot, c.pc) = x.1.2
  v.core.passed.filter fun x => x.1.1 = k && (v.cands.any fun c => c.pipes.contains k && at' x c)
    && !skipped.any (at' x) && !won.any (at' x) && (8 ≤ x.2 || !judged.any (at' x))

/-- One pipeline's choice by R291 steps 2 to 5. -/
def View.choose (v : View) (ch : Choice) (k : Nat) : Choice :=
  if 0 < v.core.blocked.lookD k 0 || ch.has k then { ch with passed := ch.passed ++ v.keptCounts k [] [] (ch.chosen.find? fun c => c.pipes.contains k) }
  else
    let l := (v.at' ch k).filter (v.open' ch k)
    let (ok, skipped) := v.batch k l
    let passed := skipped.map fun c => ((k, c.slot, c.pc), ((v.core.passed.find? fun x => x.1 = (k, c.slot, c.pc)).map (·.2)).getD 0 + 1)
    let won := bestOf ok
    { ch with
      chosen := ch.chosen ++ won.toList, fpTaken := ch.fpTaken || won.any (·.fp64)
      passed := ch.passed ++ passed ++ v.keptCounts k l skipped won }

/-- Cross-thread groups first: each on all its pipelines at once, where nothing of higher priority is there (R38). -/
def View.chooseGroup (v : View) (ch : Choice) (g : Cand) : Choice :=
  let (p, kk) := v.shield
  let free := g.pipes.all fun k =>
    v.core.blocked.lookD k 0 = 0 && !ch.has k && v.cands.all fun x => !x.pipes.contains k || x.prio ≤ g.prio
  if free && !(g.prio < p && kk < g.cls) then { ch with chosen := ch.chosen ++ [g] } else ch

/-- Groups, then the pipelines in ascending order. -/
def View.pick (v : View) (ch : Choice) : Choice :=
  let gs := (v.cands.filter (·.group)).mergeSort fun a b => b.prio ≤ a.prio
  (List.range 4).foldl v.choose (gs.foldl v.chooseGroup ch)

/-- Due waves of a pipeline, by slot, the longest waiting first (R293); `plain` is the choice without floor cycles. -/
def View.due (v : View) (plain : Choice) (k : Nat) : List Nat :=
  let here := v.cands.filter fun x => x.pipes.contains k
  let lost (x : Cand) : Bool := !v.open' {} k x || (x.fp64 && plain.chosen.any fun c => c.fp64 && c.pipes.any (· < k))
  let due := ((here.map (·.slot)).eraseDups).filter fun w => (here.all fun x => x.slot ≠ w || lost x) && v.last w k + 32 ≤ v.now
  due.mergeSort fun a b => v.last a k ≤ v.last b k

/-- Whether an FP64 candidate of higher priority than a floor packet's waits on a pipeline that is free for it. -/
def View.fpWaits (v : View) (ch : Choice) (c : Cand) : Bool :=
  v.cands.any fun x => x.fp64 && c.prio < x.prio && x.pipes.any fun k => v.core.blocked.lookD k 0 = 0 && !ch.floored.contains k

/-- Whether a floor packet may take the FP64 slot: none of this cycle has, nor has one kept an FP64 candidate of higher priority that still waits (log 54). -/
def View.fpFloorOk (v : View) (ch : Choice) (c : Cand) : Bool :=
  !c.fp64 || (!ch.fpTaken && !(v.core.fpFloor && v.fpWaits ch c))

/-- The floor packet that a pipeline would issue in a floor cycle (R293), where `slow` says whether it may be slower than K, and when its wave last issued there. -/
def View.floorPick (v : View) (plain ch : Choice) (slow : Bool) (k : Nat) : Option (Cand × Nat) :=
  (v.due plain k).findSome? fun w =>
    match bestOf ((v.at' ch k).filter fun x => x.slot = w && v.fpFloorOk ch x) with
    | none => none
    | some c => if v.shield.2 < c.cls && !slow then none else some (c, v.last w k)

/-- Whether a floor packet slower than K may issue on a pipeline: none has in 64 cycles, and none that has waited longer is ready on a pipeline that gave the last cycle to a floor wave (log 54). -/
def View.slowOk (v : View) (plain ch : Choice) (k : Nat) : Bool :=
  !ch.slow && (v.core.slowFloor = 0 || v.core.slowFloor + 64 ≤ v.now) && match v.floorPick plain ch true k with
    | none => true
    | some (_, l) => v.core.floored.all fun j => j = k || 0 < v.core.blocked.lookD j 0 || match v.floorPick plain ch true j with
      | some (c, m) => !(v.shield.2 < c.cls && m < l)
      | none => true

/-- The floor packets of a cycle (R291 step 1, R293): of the pipelines in `ks` the one whose due wave has waited longest first, so that the FP64 slot and the slow floor packet go round (R294). `n` bounds them. -/
def View.floorsOf (v : View) (plain : Choice) : Nat → List Nat → Choice → Choice
  | 0, _, ch => ch
  | n + 1, ks, ch =>
    let picks := ks.filterMap fun k => (v.floorPick plain ch (v.slowOk plain ch k) k).map fun x => (k, x.1, x.2)
    match picks with
    | [] => ch
    | x :: r =>
      let (k, c, _) := r.foldl (fun m y => if y.2.2 < m.2.2 then y else m) x
      v.floorsOf plain n (ks.filter (· ≠ k))
        { ch with chosen := ch.chosen ++ [c], fpTaken := ch.fpTaken || c.fp64, floored := k :: ch.floored, slow := ch.slow || v.shield.2 < c.cls }

/-- The floor packets of a cycle: of pipelines free and not in the last cycle given to a floor wave. -/
def View.floors (v : View) : Choice :=
  v.floorsOf (v.pick {}) 4 ((List.range 4).filter fun k => v.core.blocked.lookD k 0 = 0 && !v.core.floored.contains k) {}

/-- Whether a floor packet has taken the FP64 slot from an FP64 candidate of higher priority that still waits. -/
def View.fpOwed (v : View) (ch : Choice) : Bool :=
  let (floor, other) := (ch.chosen.filter (·.fp64)).partition fun g => g.pipes.any ch.floored.contains
  other.isEmpty && (v.core.fpFloor || floor.any (v.fpWaits ch)) && v.cands.any (·.fp64)

/-- A cycle's choice (R291): floors, then the rest; a pipeline for which nothing else is there issues what has yielded (R208). -/
def View.choice (v : View) : Choice := v.pick (v.awake.pick v.awake.floors)

/-! ### Issue (R37, R41, R43, R60) -/

/-- Conflict cycles of the scratchpad operands of a packet's threads (R60): for each, the most distinct words in one bank. -/
def State.bankCycles (s : State) (word : Word) (tids : List Nat) : Nat :=
  match decode word with
  | none => 0
  | some i =>
    let ps := i.positions
    let rows := tids.filterMap fun t =>
      match s.crewOf t with
      | none => none
      | some w => match resolveScratch (s.thread t) w.alloc (w.scratchByte (coreOf t) 0) ps with
        | .ok (_, l) => some l
        | .error _ => none
    let one (j : Nat) : Nat :=
      let p := ps.getD j ⟨0, 0, 0, .i32, .src⟩
      let ws := (rows.flatMap fun l => match l.getD j none with
        | some b => (List.range ((p.size + 3) / 4)).map fun i => b / 4 + i
        | none => []).eraseDups
      (List.range 32).foldl (fun m b => max m (ws.filter fun w => w % 32 = b).length) 0
    (List.range ps.length).foldl (fun n j => n + one j) 0 - 1

/-- The packet of a candidate; a cross-thread group is a packet on each of its pipelines, with the conflicts of its own threads (R38). -/
def State.packetOf (s : State) (g : Cand) (i : Nat) : Packet :=
  let gap (k : Nat) : Nat := s.bankCycles g.word (if g.group then g.tids.filter fun t => quarterOf t = k else g.tids) + (if g.stream.isSome then 1 else 0)
  { tids := g.tids, pipe := g.pipes.foldl min 3, num := s.uid + i, pc := some (BitVec.ofNat 64 g.pc), pipes := g.pipes, cls := g.cls, prio := g.prio,
    gap := (g.pipes.map fun k => (k, gap k)).filter fun x => x.2 ≠ 0 }

/-- A cycle's choice awaits its steps, in ascending order of the pipelines; what a packet costs is charged as it issues (`State.charge`). Every age moves on (R29, R35). -/
def State.issue (s : State) (core : Nat) (v : View) (ch : Choice) : State :=
  let c := s.core core
  let entries := c.entries.map fun e => { e with age := min 4096 (e.age + 1), holdAge := if e.hold then e.holdAge + 1 else e.holdAge }
  let c := { c with
    blocked := (c.blocked.map fun (x : Nat × Nat) => (x.1, x.2 - 1)).filter fun x => x.2 ≠ 0
    entries := entries, floored := ch.floored, passed := ch.passed
    fpFloor := v.fpOwed ch
    blocks := ((ch.chosen.filterMap Cand.stream).eraseDups).foldl (fun (b : FMap Nat) g => (ch.blockPc g).elim b (b.put g ·)) c.blocks
    slowFloor := if ch.slow then v.now else c.slowFloor }
  let s := s.setCore core (c.saturate fun _ => true)
  let ps := (ch.chosen.zipIdx.map fun (g, i) => s.packetOf g i).mergeSort fun a b => a.pipe ≤ b.pipe
  { s with picks := s.picks ++ ps, uid := s.uid + ps.length }

/-- Whether packets of a core's last cycle still await their step. -/
def State.issuingOn (s : State) (core : Nat) : Bool :=
  s.picks.any fun p => (p.tids ++ p.late.map (·.1)).any fun t => !isQueueTid t && coreOf t = core

/-- A core's cycle as it begins: the last one ends, handlers are entered, waves switch, and the table is brought up to date. -/
def State.beginCycle (s : State) (core : Nat) : State :=
  (((((s.setCore core (s.core core).cycle).enterWaiting core).pollPhasers core).switchWaves core).refreshTable core).converge core

/-- ISSUE_CYCLE (R41, R291): the last cycle of a core ends and the packets of the next are chosen; once those of the last have had their step (log 2). -/
def execIssueCycle (core : Nat) (s : State) : Host.Outcome State Fault Refusal :=
  if !(s.core core).runs || Config.cores ≤ core || s.issuingOn core then .next s
  else
    let s := s.beginCycle core
    let ts := s.threadsOn core
    let es := (s.core core).entries
    let cs := es.flatMap fun e => if e.pc = ovfPc then s.overflowCand core ts es e else s.entryCands core ts e
    let (cs, blocks) := streamed cs (s.core core).blocks
    let v : View :=
      { core := s.core core, cands := cs ++ s.groups core ts, blocks := blocks, now := (s.core core).cyc.toNat,
        last := fun w k => ((s.waves.look (core * 96 + w)).map fun x => x.last.lookD k 0).getD 0 }
    .next (s.issue core v v.choice)

/-! ### Queue cores (R45, R286) -/

/-- Whether a queue program can issue. -/
def State.programReady (s : State) (q : Nat) : Bool :=
  let t := Config.coreThreads + q
  s.wordReady (s.peek t) t

/-- QUEUE_CORE_CYCLE (R45, R286): one cycle of a queue core, once the last one's packet has had its step; the next ready program after the one served last issues. -/
def execQueueCoreCycle (qcore : Nat) (s : State) : Host.Outcome State Fault Refusal :=
  if 8 ≤ qcore || s.picks.any (fun p => p.tids.any fun t => isQueueTid t && queueOf t / 8 = qcore) then .next s
  else
    let c := s.qcore qcore
    let s := s.setQcore qcore { c with cyc := c.cyc + 1 }
    let order := (List.range 8).map fun i => (c.last + 1 + i) % 8
    match order.find? fun i => s.programReady (8 * qcore + i) with
    | none => .next s
    | some i =>
      let s := s.setQcore qcore { s.qcore qcore with last := i }
      .next { s with picks := s.picks ++ [{ tids := [Config.coreThreads + 8 * qcore + i], pipe := 0, num := s.uid }], uid := s.uid + 1 }

end Sys2Proof.Machine
end

