-- ==== Sys2Proof/Machine/Pack.lean ====
section
/-! DEFINITION. PACK and RNGK (R194 to R196): groups of registers as numbers, register 0 lowest. -/

namespace Sys2Proof.Machine

/-- Values 0 to n − 1 of a group of binary32 registers, with their patterns. -/
def groupF32 (v n : Nat) : List (FVal × Nat) :=
  (List.range n).map fun i => let x := v / 2 ^ (32 * i) % 2 ^ 32; (f32.decode x, x)

/-- Results of one register each, as one number, with all their flags. -/
def joinF32 (l : List (Nat × Flags)) : Nat × Flags :=
  (l.zipIdx.foldl (fun a (x, i) => a + x.1 * 2 ^ (32 * i)) 0, l.foldl (fun a x => a.or x.2) {})

/-- PKBX (R195). -/
def pkbx (i : Instr) (u : Bool) (k : Nat) (s : State) : Host.Outcome State Fault Refusal :=
  compute i u (fun a => bxPack k ((groupF32 (a.v 0) 16).map (·.1))) s
/-- UPBX (R195): no flag. -/
def upbx (i : Instr) (u : Bool) (k : Nat) (s : State) : Host.Outcome State Fault Refusal :=
  compute i u (fun a => ((joinF32 ((List.range 16).map fun j => f32.ofFVal .rne (bxElem k (a.v 0) j))).1, {})) s
/-- PKMX (R195): 32 element codes, then the scale code in the ninth register. -/
def pkmx (i : Instr) (u : Bool) (f : MxFmt) (s : State) : Host.Outcome State Fault Refusal :=
  compute i u (fun a =>
    let (es, sc, fl) := mxPack f (groupF32 (a.v 0) 32)
    (es.zipIdx.foldl (fun n (c, j) => n + c * 256 ^ j) 0 + sc * 2 ^ 256, fl)) s
/-- UPMX (R195): rounded by RNE. -/
def upmx (i : Instr) (u : Bool) (f : MxFmt) (s : State) : Host.Outcome State Fault Refusal :=
  compute i u (fun a =>
    joinF32 ((List.range 32).map fun j => f32.ofFVal .rne (mxValue f (a.v 0 / 256 ^ j % 256) (a.v 0 / 2 ^ 256 % 256)))) s

/-- Packs 16 binary32 values into a bx2 block (R195). -/
def execPkbxBx2 (u : Bool) (d : BitVec 7) (a : BitVec 7) (s : State) : Host.Outcome State Fault Refusal :=
  pkbx (.pkbxBx2 u d a) u 2 s

/-- Packs 16 binary32 values into a bx4 block (R195). -/
def execPkbxBx4 (u : Bool) (d : BitVec 7) (a : BitVec 7) (s : State) : Host.Outcome State Fault Refusal :=
  pkbx (.pkbxBx4 u d a) u 4 s

/-- Packs 16 binary32 values into a bx7 block (R195). -/
def execPkbxBx7 (u : Bool) (d : BitVec 7) (a : BitVec 7) (s : State) : Host.Outcome State Fault Refusal :=
  pkbx (.pkbxBx7 u d a) u 7 s

/-- Unpacks a bx2 block to binary32 (R195). -/
def execUpbxBx2 (u : Bool) (d : BitVec 7) (a : BitVec 7) (s : State) : Host.Outcome State Fault Refusal :=
  upbx (.upbxBx2 u d a) u 2 s

/-- Unpacks a bx4 block to binary32 (R195). -/
def execUpbxBx4 (u : Bool) (d : BitVec 7) (a : BitVec 7) (s : State) : Host.Outcome State Fault Refusal :=
  upbx (.upbxBx4 u d a) u 4 s

/-- Unpacks a bx7 block to binary32 (R195). -/
def execUpbxBx7 (u : Bool) (d : BitVec 7) (a : BitVec 7) (s : State) : Host.Outcome State Fault Refusal :=
  upbx (.upbxBx7 u d a) u 7 s

/-- Packs 32 binary32 values into an MXINT8 block (R195). -/
def execPkmxMxi8 (u : Bool) (d : BitVec 7) (a : BitVec 7) (s : State) : Host.Outcome State Fault Refusal :=
  pkmx (.pkmxMxi8 u d a) u .int8 s

/-- Packs 32 values into an MXFP8 E4M3 block (R195). -/
def execPkmxMxf8e4 (u : Bool) (d : BitVec 7) (a : BitVec 7) (s : State) : Host.Outcome State Fault Refusal :=
  pkmx (.pkmxMxf8e4 u d a) u .e4m3 s

/-- Packs 32 values into an MXFP8 E5M2 block (R195). -/
def execPkmxMxf8e5 (u : Bool) (d : BitVec 7) (a : BitVec 7) (s : State) : Host.Outcome State Fault Refusal :=
  pkmx (.pkmxMxf8e5 u d a) u .e5m2 s

/-- Unpacks an MXINT8 block to binary32 (R195). -/
def execUpmxMxi8 (u : Bool) (d : BitVec 7) (a : BitVec 7) (s : State) : Host.Outcome State Fault Refusal :=
  upmx (.upmxMxi8 u d a) u .int8 s

/-- Unpacks an E4M3 block to binary32 (R195). -/
def execUpmxMxf8e4 (u : Bool) (d : BitVec 7) (a : BitVec 7) (s : State) : Host.Outcome State Fault Refusal :=
  upmx (.upmxMxf8e4 u d a) u .e4m3 s

/-- Unpacks an E5M2 block to binary32 (R195). -/
def execUpmxMxf8e5 (u : Bool) (d : BitVec 7) (a : BitVec 7) (s : State) : Host.Outcome State Fault Refusal :=
  upmx (.upmxMxf8e5 u d a) u .e5m2 s

/-- Computes two counter-based random values for counters a and a+1 (R196). -/
def execRngk (u : Bool) (d : BitVec 7) (a : BitVec 7) (b : BitVec 7) (s : State) : Host.Outcome State Fault Refusal :=
  compute (.rngk u d a b) u (fun a => ((rngK (w64 a 0) (w64 a 1)).toNat + 2 ^ 32 * (rngK (w64 a 0 + 1) (w64 a 1)).toNat, {})) s

end Sys2Proof.Machine
end

