-- ==== Sys2Proof/Machine/Returns.lean ====
section
/-! DEFINITION. Accesses performed one by one: those of threads that are pending, and those of engine operations ahead of the events that complete their work (R137, R138, R144, R212, R223). -/

namespace Sys2Proof.Machine

/-- The run of an operation that performs one access, with the operation as it then stands; none where the operation performs nothing now. -/
def State.engAim (s : State) (o : EngOp) (a : EngAim) : Option (EngOp × EngRun) :=
  match o.kind with
  | .copy _ | .gath | .scat => if s.copyTurn o && o.step = 0 && o.overlap.isNone then some (o, (s.engRun o (some a)).perform) else none
  | .trace => if s.rayGoes o then some (o, (s.rayRun o (some a)).1) else none
  | .march =>
    if !s.marchTurn o then none
    else
      let (s, o) := s.beginMarch o
      some (o, (s.marchOn o (some { a with s := s })).1)
  | .emit =>
    if o.step = 0 then none
    else (s.streams.look o.tid).map fun y => (o, (s.engRun o (some a)).contribute y)

/-- An access of an engine operation by its number (R138), in any order that the operation leaves open (log 46): with `err` a read finds an uncorrectable error first. A matrix operation writes its outputs in turn. -/
def State.engAccess (s : State) (id : Nat) (writes err : Bool) : State :=
  match s.findEng (engOpOf id) with
  | none => if writes then s.mxAccess (engOpOf id) else s
  | some o =>
    let num := id - engId o.id 0
    match s.engAim o { num := num, s := s, err := err } with
    | none => s
    | some (o, r) =>
      match r.got with
      | none => s
      | some g =>
        if g.writes ≠ writes then s
        else match g.stop with
          | some w => s.engWait o w
          | none =>
            let s' := if o.kind = .trace && writes then (g.s.freeWords 5).2 else g.s
            s'.setEng { o with seen := o.seen.put (g.key.getD num) g.seen }

/-- An access by its number that is no pending one: from 2^200 up a unit that a thread's next instruction reads at issue, by thread and pointer; from 2^62 up an engine's; else a unit of the host's or of a peer's. -/
def State.otherAccess (s : State) (op : Nat) (writes err : Bool) : State :=
  if 2 ^ 200 ≤ op then (if writes then s else s.readEarly ((op - 2 ^ 200) / 2 ^ 64) (op % 2 ^ 64))
  else if 2 ^ 62 ≤ op then s.engAccess op writes err
  else match s.outside.find? fun x => x.id ≤ op && x.left.contains (op - x.id) with
    | some x => if x.write = writes then s.performOutside op else s
    | none => s

/-- LOAD_DATA_RETURN (R212, R216, R220): the data of a load, a returning atomic, BINFIN or APPEND arrives; with `err` an uncorrectable error is found first, or a prefetch is dropped (R213). A window is checked again at its owner (R107). A number of 2^62 and up names a read of an engine, one of an access from outside a unit of its read. -/
def execLoadDataReturn (op : Nat) (err : Bool) (s : State) : Host.Outcome State Fault Refusal :=
  match s.findPend op with
  | none => .next (s.otherAccess op false err)
  | some o =>
    let returns : Bool := match o.op with
      | .load _ | .binfin | .append | .pref => true
      | .atomic _ r _ _ _ => r
      | .store | .bred _ | .sealing | .cinv _ => false
    if !returns || s.blocked o && !o.op.isRmw then .next s
    else if o.op.isPref && err then .next (s.completeOp o)
    else
      let s := if err && o.op.isLoad then s.poisonAt o else s
      .next (s.performEvent o)

/-- STORE_PERFORMED (R223): a store, a RED, a BRED, a SEAL or a CINV is performed, and the counter falls. A number of 2^62 and up names a write or an addition of an engine, or the next output of a matrix operation; one of an access from outside a unit of its write. -/
def execStorePerformed (op : Nat) (s : State) : Host.Outcome State Fault Refusal :=
  match s.findPend op with
  | none => .next (s.otherAccess op true false)
  | some o =>
    let counts : Bool := match o.op with
      | .store | .bred _ | .sealing | .cinv _ => true
      | .atomic _ r _ _ _ => !r
      | .load _ | .binfin | .append | .pref => false
    if counts then .next (s.performEvent o) else .next s

end Sys2Proof.Machine
end

