-- ==== Sys2Proof/Machine/Xmss.lean ====
section
/-! DEFINITION. Verification of an XMSS-SHAKE_10_512 signature, as RFC 8391 gives it (R347, log 20): n = 64, w = 16, 131 chains, a tree of height 10. -/

namespace Sys2Proof.Xmss

/-- Bytes of a public key (its type, root and seed) and of a signature (index, randomiser, chains, authentication path). -/
def keyBytes : Nat := 4 + 64 + 64
def sigBytes : Nat := 4 + 64 + 131 * 64 + 10 * 64

/-- A big-endian number of some bytes. -/
def beBytes (n v : Nat) : List Byte := (leBytes n v).reverse
def beNat (bs : List Byte) : Nat := leNat bs.reverse

/-- Item i of a list of 64-byte strings. -/
def item (bs : List Byte) (i : Nat) : List Byte := (bs.drop (64 * i)).take 64

/-- The keyed functions, told apart by a 64-byte number: 0 chain, 1 tree, 2 message, 3 pseudorandom. -/
def keyed (fn : Nat) (key msg : List Byte) : List Byte := Shake.shake512 (beBytes 64 fn ++ key ++ msg)

/-- A hash address: its type (0 chain, 1 leaf tree, 2 tree) and its last four words. -/
def adrs (type a b c d : Nat) : List Byte := beBytes 4 0 ++ beBytes 8 0 ++ [type, a, b, c, d].flatMap (beBytes 4)

def xor (x y : List Byte) : List Byte := (x.zip y).map fun p => p.1 ^^^ p.2

/-- One step of chain `i` of leaf `leaf`, from position `j`. -/
def chainStep (seed : List Byte) (leaf i j : Nat) (x : List Byte) : List Byte :=
  keyed 0 (keyed 3 seed (adrs 0 leaf i j 0)) (xor x (keyed 3 seed (adrs 0 leaf i j 1)))

/-- `n` steps of a chain. -/
def chain (seed : List Byte) (leaf i : Nat) : Nat → Nat → List Byte → List Byte
  | 0, _, x => x
  | n + 1, j, x => chain seed leaf i n (j + 1) (chainStep seed leaf i j x)

/-- The randomised hash of two nodes, at an address given but for its last word. -/
def pair (seed : List Byte) (type a b c : Nat) (l r : List Byte) : List Byte :=
  keyed 1 (keyed 3 seed (adrs type a b c 0)) (xor l (keyed 3 seed (adrs type a b c 1)) ++ xor r (keyed 3 seed (adrs type a b c 2)))

/-- One level of a leaf tree: neighbours are hashed and an odd last node moves up. -/
def level (seed : List Byte) (leaf height : Nat) : Nat → List (List Byte) → List (List Byte)
  | i, l :: r :: rest => pair seed 1 leaf height i l r :: level seed leaf height (i + 1) rest
  | _, rest => rest

/-- The root of a leaf tree of at most 2^n nodes. -/
def leafRoot (seed : List Byte) (leaf : Nat) : Nat → Nat → List (List Byte) → List Byte
  | 0, _, ns => ns.headD []
  | n + 1, height, ns => if ns.length ≤ 1 then ns.headD [] else leafRoot seed leaf n (height + 1) (level seed leaf height 0 ns)

/-- The digits of a message of 64 bytes with those of its checksum, high digit first. -/
def digits (m : List Byte) : List Nat :=
  let base (bs : List Byte) : List Nat := bs.flatMap fun b => [b.toNat / 16, b.toNat % 16]
  let ds := base m
  ds ++ (base (beBytes 2 (ds.foldl (fun n d => n + (15 - d)) 0 * 16))).take 3

/-- The leaf that a signature of a message gives. -/
def leafOf (seed : List Byte) (leaf : Nat) (ots m : List Byte) : List Byte :=
  leafRoot seed leaf 8 0 ((digits m).zipIdx.map fun (d, i) => chain seed leaf i (15 - d) d (item ots i))

/-- The root reached from a leaf up its authentication path. -/
def climb (seed auth : List Byte) : Nat → Nat → Nat → List Byte → List Byte
  | 0, _, _, x => x
  | n + 1, h, i, x =>
    let y := item auth h
    climb seed auth n (h + 1) (i / 2) (if i % 2 = 0 then pair seed 2 0 h (i / 2) x y else pair seed 2 0 h (i / 2) y x)

/-- The root that a signature of a message gives, and whether its index is one of the tree's. -/
def rootOf (root seed sig msg : List Byte) : List Byte :=
  let i := beNat (sig.take 4)
  let m := keyed 2 ((sig.drop 4).take 64 ++ root ++ beBytes 64 i) msg
  climb seed (sig.drop (68 + 131 * 64)) 10 0 i (leafOf seed i (sig.drop 68) m)

/-- Whether a signature of a message verifies under a public key of the parameter set (number 0x0000000a of RFC 8391). -/
def verify (key sig msg : List Byte) : Bool :=
  let root := (key.drop 4).take 64
  beNat (key.take 4) = 10 && decide (beNat (sig.take 4) < 1024) && rootOf root (key.drop 68) sig msg = root

end Sys2Proof.Xmss
end

