-- ==== Sys2Proof/Machine/System.lean ====
section
/-! DEFINITION. Links, power, heat, fenced units, aborted contexts, start-up, signing and attestation, context creation, power loss (R103, R112, R341 to R349, R362, R369, R375, R431 to R437). -/

namespace Sys2Proof.Machine

/-! ### Aborted contexts (R362, R434) -/

/-- LEVEL 5 (R362, R434): every crew of a context is aborted and every queue program of it stops, also where it has none; the record's reason goes to the log, and to the management log alone where the log is unreadable. -/
def State.abortContext (s : State) (ctx reason : Nat) (logged : Bool) : State :=
  let ks := s.crews.filterMap fun (k, c) => if s.crewCtx c = ctx && c.run ≠ .aborted && c.run ≠ .ended then some k else none
  let qs := s.queues.filterMap fun (q, x) => if x.run && x.qctx = ctx then some q else none
  let gs := s.grids.filterMap fun (h, g) => if g.ctx = ctx && !g.aborted then some h else none
  if ks.isEmpty && qs.isEmpty && gs.isEmpty && (s.contexts.look ctx).all (·.lost) then s
  else
    let s := { s with contexts := s.contexts.map fun (x : Nat × Context) => if x.1 = ctx then (x.1, { x.2 with lost := true }) else x }
    let s := ks.foldl (fun s k => s.abortCrew k) s
    let s := { s with grids := s.grids.map fun (x : Nat × Grid) => if x.2.ctx = ctx then (x.1, { x.2 with aborted := true, taken := true, ranges := [] }) else x }
    let s := qs.foldl (fun s q => s.stopProgram q true) s
    let s := gs.foldl (fun (s : State) h => s.endOfGrid h) s
    let s := if logged then (s.logFault ctx { cause := causeWord true false false 5 8 7, wher := ctx, d0 := reason }).1 else s
    s.manage (5 * 2 ^ 32 + 7) (reason * 2 ^ 32 + ctx)

/-- Aborts the contexts whose fault-log header is poisoned. -/
def State.abortPoisoned (s : State) : State :=
  s.contexts.foldl (fun s (x : Nat × Context) => if s.headerBad x.2 then s.abortContext x.1 2 false else s) s

/-! ### Fencing a die (R433, R434) -/

/-- Whether a physical address lies on a die. -/
def onDie (d pa : Nat) : Bool := inHbm pa && dieOfPa pa = d

/-- Contexts whose structures lay on a die are aborted (R434 reason 1). -/
def State.abortOn (s : State) (d : Nat) : State :=
  s.contexts.foldl (fun s (x : Nat × Context) =>
    if onDie d x.2.ptroot || onDie d x.2.btab || onDie d x.2.flbase || onDie d x.2.save then s.abortContext x.1 1 (!onDie d x.2.flbase) else s) s

/-- DIE_FENCE (R433): the cores leave every CMASK, the crews are aborted, the home slices stop answering, and the domain is switched off once the aborted crews have performed their releases (R364 step 4). -/
def State.fenceDie (s : State) (d reason : Nat) : State :=
  if (s.die d).fenced || 4 ≤ d then s
  else
    let cores := (List.range 48).map fun i => 48 * d + i
    let s := cores.foldl (fun s c => s.leaveMask c) s
    let ks := (cores.flatMap s.crewsOn).eraseDups
    let s := s.abortFor ks 7 2 d reason (s.core (48 * d)).etime.toNat (whereNoThread (48 * d) 0)
    let s := (s.setDie d { s.die d with fenced := true }).loseHeld d
    (s.abortOn d).switchOff d

/-- DIE_INTERNAL_ERROR, JUNCTION_120C, JUNCTION_110C_TIMEOUT (R431, R436). -/
def execDieInternalError (die : Nat) (s : State) : Host.Outcome State Fault Refusal := .next (s.fenceDie die 1)
def execJunction120c (die : Nat) (s : State) : Host.Outcome State Fault Refusal := .next (s.fenceDie die 2)
def execJunction110cTimeout (die : Nat) (s : State) : Host.Outcome State Fault Refusal := .next (s.fenceDie die 2)

/-- CORE_SELF_TEST (R435): a failure fences the core. -/
def execCoreSelfTest (core : Nat) (pass : Bool) (s : State) : Host.Outcome State Fault Refusal :=
  if pass || Config.cores ≤ core then .next s else .next (s.fenceCore core 1)

/-- An uncorrectable error in a granule of a storage (R366, R375), by the CODE of R375: 1 a register, thread × 2^13 plus the key that `Thread.latent` has, 2 a scratchpad byte, 3 a byte of an L1 view, 4 and 5 a physical address, 6 a byte of a tile store, 7 of a bank. -/
def State.upset (s : State) (store at' : Nat) : State :=
  if store = 1 then
    let t := at' / 2 ^ 13
    let k := at' % 2 ^ 13
    let x := s.thread t
    if x.run = .exited || 4104 ≤ k then s
    else
      let y := if k < 4096 then { x with regs := x.regs.put k { x.regs.lookD k {} with psn := true } }
        else { x with areg := x.areg.put (k - 4096) { x.areg' (k - 4096) with psn := true } }
      s.setThread t { y with latent := (k :: x.latent).eraseDups }
  else if store = 2 then { s with scratch := s.scratch.mark (at' / 4) true }
  else if store = 3 then (if (s.l1.look at').isSome then { s with l1psn := s.l1psn.put (at' / 8) true } else s)
  else if store = 6 then { s with tile := s.tile.mark (at' / 4) true }
  else if store = 7 then { s with banks := s.banks.mark (at' / 4) true }
  else s

/-- BACKGROUND_SCRUB (R375): a granule of HBM or L2 found uncorrectable is poisoned, for the management log alone; a poisoned fault-log header aborts its context (R434). An error of another storage waits for the read that finds it (log 56). -/
def execBackgroundScrub (place : StoragePlace) (bad : Bool) (s : State) : Host.Outcome State Fault Refusal :=
  let a := place.at'
  if !bad then .next s
  else if place.store = 4 || place.store = 5 then
    (if inHbm a then .next ({ s with phys := s.phys.mark (a / 8) true }.manage 0x375 a).abortPoisoned else .next s)
  else .next (s.upset place.store a)

/-! ### Links (R341, R432) -/

/-- Ring links, by number: d joins die d and die (d + 1) mod 4; and H-die links (R431). -/
def State.ringUp (s : State) (d : Nat) : Bool := !(s.links.lookD (16 + d % 4) {}).fenced
def State.hlinkUp (s : State) (d : Nat) : Bool := !(s.links.lookD (24 + d % 4) {}).fenced

/-- Whether a die reaches the H-die: directly, or round the ring either way. -/
def State.reachesHdie (s : State) (d : Nat) : Bool :=
  s.hlinkUp d
    || (s.ringUp d && (s.hlinkUp (d + 1) || (s.ringUp (d + 1) && (s.hlinkUp (d + 2) || (s.ringUp (d + 2) && s.hlinkUp (d + 3))))))
    || (s.ringUp (d + 3) && (s.hlinkUp (d + 3) || (s.ringUp (d + 2) && (s.hlinkUp (d + 2) || (s.ringUp (d + 1) && s.hlinkUp (d + 1))))))

/-- Link numbers of R431. -/
def isLink (l : Nat) : Bool := l < 12 || (16 ≤ l && l < 20) || (24 ≤ l && l < 28)

/-- A link starts a retrain. -/
def State.retrain (s : State) (l : Nat) : State :=
  let x := s.links.lookD l {}
  if x.fenced || x.alien then s else { s with links := s.links.put l { x with retraining := true, fails := 0 } }

/-- FLIT_CRC_FAILURE (R432): the eighth of one flit in replay starts a retrain. Whether it is the flit of the link's last failure is free (log 41). -/
def execFlitCrcFailure (link : Nat) (s : State) : Host.Outcome State Fault Refusal :=
  let x := s.links.lookD link {}
  if !isLink link || x.fenced || x.alien || x.retraining then .next s
  else
    let (f, s) := s.tick
    let n := if Config.flitAgain f then x.fails + 1 else 1
    if 8 ≤ n then .next (s.retrain link) else .next { s with links := s.links.put link { x with fails := n } }

/-- LINK_TRAINING_LOSS (R432). -/
def execLinkTrainingLoss (link : Nat) (s : State) : Host.Outcome State Fault Refusal :=
  if isLink link then .next (s.retrain link) else .next s

/-- A link leaves every LK_ROUTE mask (R338, R362). -/
def State.unroute (s : State) (l : Nat) : State :=
  { s with regs := s.regs.map fun (x : Nat × Dword) =>
      if offRoute ≤ x.1 && x.1 < offRoute + 16384 then
        (x.1, BitVec.ofNat 64 ((List.range 4).foldl (fun w i => if bit w (16 * i + l) then w - 2 ^ (16 * i + l) else w) x.2.toNat))
      else x }

/-- Requests in flight on a fenced link go on another link of their mask (R432). -/
def State.resend (s : State) (l : Nat) : State :=
  s.remotes.foldl (fun (s : State) (r : RemReq) =>
    if r.link ≠ l then s
    else
      let (k, s) := s.pickLink r.dev
      { s with remotes := s.remotes.map fun x => if x.id = r.id then { x with link := k } else x }) s

/-- LINK_FENCE (R431, R432): LEVEL 8 in the management log; a die that is left without a path to the H-die is isolated; dies that only lack a path to each other still reach each other (log 57). -/
def State.fenceLink (s : State) (l : Nat) : State :=
  let s := { s with links := s.links.put l ({ fenced := true } : Link) }
  let s := s.manage (8 * 2 ^ 32 + 1) (l * 2 ^ 32)
  if l < 12 then (s.unroute l).resend l
  else (List.range 4).foldl (fun s d => if s.reachesHdie d then s else s.fenceDie d 4) s

/-- LINK_RETRAIN_END (R432). -/
def execLinkRetrainEnd (link : Nat) (ok : Bool) (s : State) : Host.Outcome State Fault Refusal :=
  let x := s.links.lookD link {}
  if !x.retraining then .next s
  else if ok then .next { s with links := s.links.put link { x with retraining := false, fails := 0 } }
  else .next (s.fenceLink link)

/-! ### Tokens (R345) -/

/-- The device's time, ps, for what no core times: the largest ETIME of its cores. Log 58. -/
def State.clock (s : State) : Nat := s.cores.foldl (fun m (x : Nat × Core) => max m x.2.etime.toNat) 0

/-- DEMAND_ANNOUNCE: a neighbour's demand. -/
def execDemandAnnounce (peer watts : Nat) (s : State) : Host.Outcome State Fault Refusal :=
  .next { s with demands := s.demands.put peer watts }

/-- TOKEN_EXCHANGE_TICK: DRAW is measured; a device drawing below CAP − 50 may grant surplus tokens to a neighbour with demand, CAP falling before the grant leaves. -/
def execTokenExchangeTick (draw peer tokens : Nat) (s : State) : Host.Outcome State Fault Refusal :=
  let b : Tokens := { s.tokens with draw := min draw 65535 }
  let s := s.setTokens b
  if tokens = 0 || s.demands.lookD peer 0 = 0 || b.cap < b.draw + 50 + 1 || b.cap - b.draw < tokens then .next s
  else
    let s := s.setTokens { b with cap := b.cap - tokens, lent := b.lent + tokens }
    let l : Lease := { id := s.uid, peer := peer, tokens := tokens, lent := true, since := s.clock }
    let s' : State := { s with leases := s.leases ++ [l], uid := s.uid + 1, demands := s.demands.del peer }
    .next (s'.answer (peer + 1) (leBytes 8 s.uid ++ leBytes 2 tokens))

/-- TOKEN_GRANT: dropped by the link when more than 500 µs old; else CAP rises, never above 1800 W. -/
def execTokenGrant (peer tokens age : Nat) (s : State) : Host.Outcome State Fault Refusal :=
  if 500 < age then .next s
  else
    let b : Tokens := s.tokens
    let cap := max b.cap (min 1800 (b.cap + tokens))
    let s := s.setTokens { b with cap := cap }
    .next { s with leases := s.leases ++ [{ id := s.uid, peer := peer, tokens := tokens, lent := false, gain := cap - b.cap, since := s.clock }], uid := s.uid + 1 }

/-- LEASE_END, 10 ms after receipt: the receiver lowers CAP and sends the tokens back. -/
def execLeaseEnd (lease : Nat) (s : State) : Host.Outcome State Fault Refusal :=
  match s.leases.find? fun x => x.id = lease && !x.lent with
  | none => .next s
  | some l =>
    if s.clock < l.since + 10 ^ 10 then .next s
    else
      let b : Tokens := s.tokens
      let s := s.setTokens { b with cap := b.cap - l.gain }
      .next ({ s with leases := s.leases.filter fun x => x.id ≠ lease }.answer (l.peer + 1) (leBytes 8 lease ++ leBytes 2 l.tokens))

/-- The granter raises CAP again, once and never above 1800 W (R345). -/
def State.regain (s : State) (grant : Nat) : State :=
  match s.leases.find? fun x => x.id = grant && x.lent with
  | none => s
  | some l =>
    let b : Tokens := s.tokens
    let s := s.setTokens { b with cap := max b.cap (min 1800 (b.cap + l.tokens)), lent := b.lent - l.tokens }
    { s with leases := s.leases.filter fun x => x.id ≠ grant }

/-- TOKEN_RETURN: the return arrives. -/
def execTokenReturn (grant : Nat) (s : State) : Host.Outcome State Fault Refusal := .next (s.regain grant)

/-- GRANT_RETURN_TIMEOUT: 11 ms after sending, where no return has arrived. -/
def execGrantReturnTimeout (grant : Nat) (s : State) : Host.Outcome State Fault Refusal :=
  match s.leases.find? fun x => x.id = grant && x.lent with
  | none => .next s
  | some l => if s.clock < l.since + 11 * 10 ^ 9 then .next s else .next (s.regain grant)

/-! ### Power and heat (R344, R436) -/

def dieCores (d : Nat) : List Nat := (List.range 48).map fun i => 48 * d + i

/-- A hold of a length stops a core's clock (R344); one under way is not cut short. -/
def Core.hold (c : Core) (ps : Nat) : Core := { c with held := true, holdPs := if c.held then max c.holdPs ps else ps }

/-- The die manager's holds (R344): 1 µs on every core whose last one ended 1 µs ago or more, so that holds take at most half of every 2 µs. -/
def State.holdDie (s : State) (d : Nat) : State :=
  (dieCores d).foldl (fun s c =>
    let x := s.core c
    if x.held || x.lastHold.any (fun e => x.etime.toNat < e + 10 ^ 6) then s else s.setCore c (x.hold (10 ^ 6))) s

/-- POWER_AVERAGE (R344): above the die cap, MX_CADENCE rises, and holds follow once it is 16. -/
def execPowerAverage (die watts : Nat) (s : State) : Host.Outcome State Fault Refusal :=
  if 4 ≤ die then .next s
  else
    let s := s.setDie die { s.die die with alerts := 0 }
    if watts ≤ Config.dieCap s.tokens.cap die then .next s
    else
      let slow := (dieCores die).filter fun c => (s.core c).cadence < 16
      if slow.isEmpty then .next (s.holdDie die)
      else
        let (f, s) := s.tick
        .next (slow.foldl (fun s c => s.setCore c { s.core c with cadence := min 16 ((s.core c).cadence + 1 + Config.cadenceRise f) }) s)

/-- HOLD_END (R43, R344), after the `ps` that the hold lasts: ETIME and HTIME take them, CYC nothing. -/
def execHoldEnd (core ps : Nat) (s : State) : Host.Outcome State Fault Refusal :=
  let c := s.core core
  if !c.held || ps ≠ c.holdPs then .next s
  else
    let c' := c.stand ps
    .next (s.setCore core { c' with held := false, holdPs := 0, lastHold := if 10 ^ 6 ≤ ps then some c'.etime.toNat else c.lastHold })

/-- RAIL_CURRENT_ALERT (R344): every core of the die is held for 200 ns. -/
def execRailCurrentAlert (die : Nat) (s : State) : Host.Outcome State Fault Refusal :=
  if 4 ≤ die then .next s
  else
    let s := s.setDie die { s.die die with alerts := (s.die die).alerts + 1 }
    .next ((dieCores die).foldl (fun s c => s.setCore c ((s.core c).hold (2 * 10 ^ 5))) s)

/-- RAIL_HOLD_FAILURE (R436): above 880 A after three consecutive holds. -/
def execRailHoldFailure (die : Nat) (s : State) : Host.Outcome State Fault Refusal :=
  if (s.die die).alerts < 3 then .next s else .next (s.fenceDie die 3)

/-- JUNCTION_100C (R436): CAD goes to 16 on the die's cores and holds apply. -/
def execJunction100c (die : Nat) (s : State) : Host.Outcome State Fault Refusal :=
  if 4 ≤ die then .next s
  else
    let s := (dieCores die).foldl (fun s c => s.setCore c { s.core c with cadence := 16 }) s
    .next ((s.holdDie die).manage 0x436 die)

/-- Bytes that the host keeps: its own memory (R99). -/
def hostCells (m : PMem) : PMem :=
  { cells := m.cells.filter fun (x : Nat × Byte) => inHost x.1, psn := m.psn.filter fun (x : Nat × Bool) => inHost (x.1 * 8) }

/-- HDIE_OVERTEMP (R436): every queue program stops at LEVEL 4, the C-dies switch off, the host link goes down, and the device is lost until reset. -/
def execHdieOvertemp (s : State) : Host.Outcome State Fault Refusal :=
  let qs := s.queues.filterMap fun (q, x) => if x.run then some q else none
  let s := qs.foldl (fun s q => s.stopProgram q true) s
  let ks := s.crews.filterMap fun (k, c) => if c.run ≠ .aborted && c.run ≠ .ended then some k else none
  let s := ks.foldl (fun s k => s.abortCrew k) s
  let s := (List.range 4).foldl (fun s d => (s.setDie d { s.die d with fenced := true }).powerOff d) s
  .next { s with bootStep := 0, picks := [] }

/-! ### Start-up, reset and power loss (R346 to R348, R437) -/

/-- What a reset leaves: the state after reset, with the blown fuses and the host's own memory. -/
def State.cleared (s : State) : State := { State.reset with fuses := s.fuses, phys := hostCells s.phys }

/-- SC_BOOTST (R437). -/
def State.setBoot (s : State) (img step res : Nat) : State := { s.setRegVal offBootst (img * 256 + step * 16 + res) with bootStep := step }

/-- Whether a firmware image verifies (R347, R437), as SC_BOOTST.RES says: 3 malformed, 2 the key's digest is not the ROM's, 1 the signature of the body's digest is invalid, 0 good. -/
def verdict (i : FirmwareImage) : Nat :=
  if i.key.length ≠ Xmss.keyBytes || i.sig.length ≠ Xmss.sigBytes || Config.malformed i.body then 3
  else if Shake.shake512 i.key ≠ Config.rootKeyDigest then 2
  else if !Xmss.verify i.key i.sig (Shake.shake512 i.body) then 1
  else 0

/-- Step 3: the firmware's boot configuration, then SC_LOCK. -/
def State.configure (s : State) (plan : Config.BootConfig) : State :=
  let plan := { plan with writes := plan.writes.filter fun x => x.1 = offDevid || x.1 = offBudget || (offRoute ≤ x.1 && x.1 < offRoute + 16384) }
  { plan.writes.foldl (fun (s : State) (x : Nat × Nat) => s.lacewingWrite x.1 x.2) s with locked := true, boot := plan }

/-- Step 5: a pod link joins only with a peer of the same budget group. -/
def State.joinLinks (s : State) : State :=
  (List.range 12).foldl (fun (s : State) l =>
    if Config.peerGroup l = s.boot.group then s else { s with links := s.links.put l { alien := true } }) s

/-- POWER_ON_RESET (R346, R437): the steps in order; a Lacewing image that fails stops start-up after step 1, a queue-core image that fails does not. The digests of the images that verify are kept for attestation. -/
def execPowerOnReset (images : BootImages) (s : State) : Host.Outcome State Fault Refusal :=
  let s := s.cleared
  let v := verdict images.firmware
  if v ≠ 0 then .next (s.setBoot 0 1 v)
  else
    let q := verdict images.queue
    let s := { s.configure (Config.bootPlan images.firmware.body) with
      images := Shake.shake512 images.firmware.body :: (if q = 0 then [Shake.shake512 images.queue.body] else []) }
    .next (s.joinLinks.setBoot (if q = 0 then 0 else 1) 6 q)

/-- FIRMWARE_UPDATE (R437): an image that fails is rejected and the running firmware continues. -/
def execFirmwareUpdate (image : FirmwareImage) (s : State) : Host.Outcome State Fault Refusal :=
  if verdict image ≠ 0 then .next s
  else .next { s with images := s.images ++ [Shake.shake512 image.body] }

/-- POWER_LOSS (R348): everything volatile is lost; blown fuses stay blown. -/
def execPowerLoss (s : State) : Host.Outcome State Fault Refusal := .next s.cleared

/-! ### Attestation (R348, R349) -/

/-- Blows fuses from the next cell until one reads back: the cells blown, and the block that may be used. -/
def blow : Nat → Nat → Nat × Option Nat
  | 0, f => (f, none)
  | n + 1, f => if 4096 ≤ f then (f, none) else if Config.fuseReads f then (f + 1, some f) else blow n (f + 1)

/-- The one-time index of the next signature, with the fuses blown for it (R348); none where the device refuses. -/
def State.takeIndex (s : State) : State × Option Nat :=
  if 4096 ≤ s.fuses then (s, none)
  else match s.signIndex with
    | none =>
      match blow 4096 s.fuses with
      | (f, none) => ({ s with fuses := f }, none)
      | (f, some c) => ({ s with fuses := f, signIndex := some (256 * c + 1) }, some (256 * c))
    | some i =>
      if i % 256 = 255 then
        match blow 4096 s.fuses with
        | (f, c) => ({ s with fuses := f, signIndex := c.map (256 * ·) }, some i)
      else ({ s with signIndex := some (i + 1) }, some i)

/-- The report of R349, written at BUF + 64; its signature has 9732 bytes (R348). LK_DEVID and the index take 8 bytes each (log 60, DESIGN CHOICE: R349 states no width). -/
def State.attestReport (s : State) (nonce : List Byte) (i : Nat) : List Byte :=
  let body := nonce ++ s.images.flatten ++ Config.bootConfig s.boot ++ leBytes 8 (s.regVal offDevid) ++ leBytes 8 i
  body ++ (List.range 9732).map (Config.xmssSign body i)

/-- ATTESTATION_DONE (R349): the report is written, ST is set, and vector 65 raised; with every fuse blown the device refuses. -/
def execAttestationDone (s : State) : Host.Outcome State Fault Refusal :=
  match s.attesting with
  | none => .next s
  | some b =>
    let buf := b.toNat
    match s.takeIndex with
    | (s, none) => .next ({ s.setAttreq (s.regVal offAttreq) 3 with attesting := none }.raise 65)
    | (s, some i) =>
      let nonce := (s.homeRaw (hostPa buf) 64).map (·.1)
      let s := s.homeWrite (hostPa buf + 64) (clean ((s.attestReport nonce i).take 16320))
      .next ({ s.setAttreq (s.regVal offAttreq) 2 with attesting := none }.raise 65)

/-! ### Contexts (R103, R112, R342, R369, R372) -/

/-- Every line tagged with a context is written back and dropped, and its translations go (R103). -/
def State.purgeContext (s : State) (ctx : Nat) : State :=
  let vs := s.views.filter fun (v : Nat × Nat) => v.2 = ctx
  let s := vs.foldl (fun s (v : Nat × Nat) => ((s.writeBackAll v.1 ctx).sendBackAll v.1 ctx fun _ => true).l1Drop v.1 ctx fun _ => true) s
  s.dropTlb fun e => e.ctx = ctx

/-- CONTEXT_CREATION (R103, R112, R369): the context ID is purged, then its structures are named and its fault log starts empty. The ID is one of the pool, and SYS permission one of the grants, that step 3 of R346 configured. It waits while a line of the ID is still dirty or an access of it is not yet performed (R119). -/
def execContextCreation (ctx btab ptroot flbase logn : Nat) (thnd : Dword) (save : Nat) (sys : Bool) (s : State) :
    Host.Outcome State Fault Refusal :=
  if 256 ≤ ctx || btab % 8192 ≠ 0 || ptroot % 4096 ≠ 0 || flbase % 4096 ≠ 0 || logn < 6 || 16 < logn then .next s
  else if !s.boot.pool.contains ctx || (sys && !s.boot.grants.contains ctx) then .next s
  else
    let s := s.purgeContext ctx
    if s.views.any (fun (v : Nat × Nat) => v.2 = ctx) || s.pend.any (fun o => o.ctx = ctx) || s.remotes.any (fun r => r.op.ctx = ctx)
        || s.contributions.any (fun r => r.ctx = ctx) || s.unperformed s.uid (fun c _ _ => c = ctx) then .next s
    else
      let (f, s) := s.tick
      let s := { s with
        farPa := s.farPa.filter fun (x : Nat × Nat) => x.1 / 2 ^ 80 % 256 ≠ ctx
        contexts := s.contexts.put ctx { btab := btab, ptroot := ptroot, flbase := flbase, logn := logn, thnd := thnd, save := save, sys := sys }
        imports := s.imports.put ctx (Config.importMask f % 2 ^ 8192) }
      .next (s.homeWrite flbase (clean (List.replicate 24 0 ++ [BitVec.ofNat 8 logn] ++ List.replicate 39 0))).noteTables

end Sys2Proof.Machine
end

