-- ==== Sys2Proof/Machine/Dispatch.lean ====
section
/-! DEFINITION. One arm per row of the opcode table. -/

namespace Sys2Proof.Machine

def exec (i : Instr) (s : State) : Host.Outcome State Fault Refusal :=
  match i with
  | .add u d a b => Sys2Proof.Machine.execAdd u d a b s
  | .sub u d a b => Sys2Proof.Machine.execSub u d a b s
  | .minI32 u d a b => Sys2Proof.Machine.execMinI32 u d a b s
  | .minN32 u d a b => Sys2Proof.Machine.execMinN32 u d a b s
  | .maxI32 u d a b => Sys2Proof.Machine.execMaxI32 u d a b s
  | .maxN32 u d a b => Sys2Proof.Machine.execMaxN32 u d a b s
  | .abs u d a => Sys2Proof.Machine.execAbs u d a s
  | .neg u d a => Sys2Proof.Machine.execNeg u d a s
  | .and u d a b => Sys2Proof.Machine.execAnd u d a b s
  | .or u d a b => Sys2Proof.Machine.execOr u d a b s
  | .xor u d a b => Sys2Proof.Machine.execXor u d a b s
  | .andn u d a b => Sys2Proof.Machine.execAndn u d a b s
  | .shl u d a b => Sys2Proof.Machine.execShl u d a b s
  | .shr u d a b => Sys2Proof.Machine.execShr u d a b s
  | .sar u d a b => Sys2Proof.Machine.execSar u d a b s
  | .addI64 u d a b => Sys2Proof.Machine.execAddI64 u d a b s
  | .subI64 u d a b => Sys2Proof.Machine.execSubI64 u d a b s
  | .minI64 u d a b => Sys2Proof.Machine.execMinI64 u d a b s
  | .minN64 u d a b => Sys2Proof.Machine.execMinN64 u d a b s
  | .maxI64 u d a b => Sys2Proof.Machine.execMaxI64 u d a b s
  | .maxN64 u d a b => Sys2Proof.Machine.execMaxN64 u d a b s
  | .absI64 u d a => Sys2Proof.Machine.execAbsI64 u d a s
  | .negI64 u d a => Sys2Proof.Machine.execNegI64 u d a s
  | .andI64 u d a b => Sys2Proof.Machine.execAndI64 u d a b s
  | .orI64 u d a b => Sys2Proof.Machine.execOrI64 u d a b s
  | .xorI64 u d a b => Sys2Proof.Machine.execXorI64 u d a b s
  | .andnI64 u d a b => Sys2Proof.Machine.execAndnI64 u d a b s
  | .shlI64 u d a b => Sys2Proof.Machine.execShlI64 u d a b s
  | .shrI64 u d a b => Sys2Proof.Machine.execShrI64 u d a b s
  | .sarI64 u d a b => Sys2Proof.Machine.execSarI64 u d a b s
  | .mulI64 u d a b => Sys2Proof.Machine.execMulI64 u d a b s
  | .fshl u d a b => Sys2Proof.Machine.execFshl u d a b s
  | .fshr u d a b => Sys2Proof.Machine.execFshr u d a b s
  | .popc u d a => Sys2Proof.Machine.execPopc u d a s
  | .clz u d a => Sys2Proof.Machine.execClz u d a s
  | .ctz u d a => Sys2Proof.Machine.execCtz u d a s
  | .brev u d a => Sys2Proof.Machine.execBrev u d a s
  | .prmb u d a b => Sys2Proof.Machine.execPrmb u d a b s
  | .mul u d a b => Sys2Proof.Machine.execMul u d a b s
  | .mulhI32 u d a b => Sys2Proof.Machine.execMulhI32 u d a b s
  | .mulhN32 u d a b => Sys2Proof.Machine.execMulhN32 u d a b s
  | .mad u d a b => Sys2Proof.Machine.execMad u d a b s
  | .sel u d a b => Sys2Proof.Machine.execSel u d a b s
  | .seteq u d a b => Sys2Proof.Machine.execSeteq u d a b s
  | .setne u d a b => Sys2Proof.Machine.execSetne u d a b s
  | .setltI u d a b => Sys2Proof.Machine.execSetltI u d a b s
  | .setleI u d a b => Sys2Proof.Machine.execSetleI u d a b s
  | .setgtI u d a b => Sys2Proof.Machine.execSetgtI u d a b s
  | .setgeI u d a b => Sys2Proof.Machine.execSetgeI u d a b s
  | .setltN u d a b => Sys2Proof.Machine.execSetltN u d a b s
  | .setleN u d a b => Sys2Proof.Machine.execSetleN u d a b s
  | .setgtN u d a b => Sys2Proof.Machine.execSetgtN u d a b s
  | .setgeN u d a b => Sys2Proof.Machine.execSetgeN u d a b s
  | .seteq64 u d a b => Sys2Proof.Machine.execSeteq64 u d a b s
  | .setne64 u d a b => Sys2Proof.Machine.execSetne64 u d a b s
  | .setltI64 u d a b => Sys2Proof.Machine.execSetltI64 u d a b s
  | .setleI64 u d a b => Sys2Proof.Machine.execSetleI64 u d a b s
  | .setgtI64 u d a b => Sys2Proof.Machine.execSetgtI64 u d a b s
  | .setgeI64 u d a b => Sys2Proof.Machine.execSetgeI64 u d a b s
  | .setltN64 u d a b => Sys2Proof.Machine.execSetltN64 u d a b s
  | .setleN64 u d a b => Sys2Proof.Machine.execSetleN64 u d a b s
  | .setgtN64 u d a b => Sys2Proof.Machine.execSetgtN64 u d a b s
  | .setgeN64 u d a b => Sys2Proof.Machine.execSetgeN64 u d a b s
  | .addi u d a imm => Sys2Proof.Machine.execAddi u d a imm s
  | .andi u d a imm => Sys2Proof.Machine.execAndi u d a imm s
  | .ori u d a imm => Sys2Proof.Machine.execOri u d a imm s
  | .xori u d a imm => Sys2Proof.Machine.execXori u d a imm s
  | .shli u d a n => Sys2Proof.Machine.execShli u d a n s
  | .shri u d a n => Sys2Proof.Machine.execShri u d a n s
  | .sari u d a n => Sys2Proof.Machine.execSari u d a n s
  | .bfx u d a s1 w p => Sys2Proof.Machine.execBfx u d a s1 w p s
  | .bfi u d a w p => Sys2Proof.Machine.execBfi u d a w p s
  | .limm u d imm => Sys2Proof.Machine.execLimm u d imm s
  | .lhi u d imm => Sys2Proof.Machine.execLhi u d imm s
  | .lea u s1 d a b => Sys2Proof.Machine.execLea u s1 d a b s
  | .leai u d a imm => Sys2Proof.Machine.execLeai u d a imm s
  | .mova k a imm => Sys2Proof.Machine.execMova k a imm s
  | .fadd u d a b => Sys2Proof.Machine.execFadd u d a b s
  | .fsub u d a b => Sys2Proof.Machine.execFsub u d a b s
  | .fmul u d a b => Sys2Proof.Machine.execFmul u d a b s
  | .fma u d a b => Sys2Proof.Machine.execFma u d a b s
  | .fmin u d a b => Sys2Proof.Machine.execFmin u d a b s
  | .fmax u d a b => Sys2Proof.Machine.execFmax u d a b s
  | .faddRm u m d a b => Sys2Proof.Machine.execFaddRm u m d a b s
  | .fsubRm u m d a b => Sys2Proof.Machine.execFsubRm u m d a b s
  | .fmulRm u m d a b => Sys2Proof.Machine.execFmulRm u m d a b s
  | .fmaRm u m d a b => Sys2Proof.Machine.execFmaRm u m d a b s
  | .fseteq u d a b => Sys2Proof.Machine.execFseteq u d a b s
  | .fsetne u d a b => Sys2Proof.Machine.execFsetne u d a b s
  | .fsetlt u d a b => Sys2Proof.Machine.execFsetlt u d a b s
  | .fsetle u d a b => Sys2Proof.Machine.execFsetle u d a b s
  | .fsetgt u d a b => Sys2Proof.Machine.execFsetgt u d a b s
  | .fsetge u d a b => Sys2Proof.Machine.execFsetge u d a b s
  | .fsetun u d a b => Sys2Proof.Machine.execFsetun u d a b s
  | .fsetor u d a b => Sys2Proof.Machine.execFsetor u d a b s
  | .hadd2F16 u d a b => Sys2Proof.Machine.execHadd2F16 u d a b s
  | .hmul2F16 u d a b => Sys2Proof.Machine.execHmul2F16 u d a b s
  | .hfma2F16 u d a b => Sys2Proof.Machine.execHfma2F16 u d a b s
  | .hadd2Bf16 u d a b => Sys2Proof.Machine.execHadd2Bf16 u d a b s
  | .hmul2Bf16 u d a b => Sys2Proof.Machine.execHmul2Bf16 u d a b s
  | .hfma2Bf16 u d a b => Sys2Proof.Machine.execHfma2Bf16 u d a b s
  | .dadd u d a b => Sys2Proof.Machine.execDadd u d a b s
  | .dsub u d a b => Sys2Proof.Machine.execDsub u d a b s
  | .dmul u d a b => Sys2Proof.Machine.execDmul u d a b s
  | .dfma u d a b => Sys2Proof.Machine.execDfma u d a b s
  | .dmin u d a b => Sys2Proof.Machine.execDmin u d a b s
  | .dmax u d a b => Sys2Proof.Machine.execDmax u d a b s
  | .daddRm u m d a b => Sys2Proof.Machine.execDaddRm u m d a b s
  | .dsubRm u m d a b => Sys2Proof.Machine.execDsubRm u m d a b s
  | .dmulRm u m d a b => Sys2Proof.Machine.execDmulRm u m d a b s
  | .dfmaRm u m d a b => Sys2Proof.Machine.execDfmaRm u m d a b s
  | .dseteq u d a b => Sys2Proof.Machine.execDseteq u d a b s
  | .dsetne u d a b => Sys2Proof.Machine.execDsetne u d a b s
  | .dsetlt u d a b => Sys2Proof.Machine.execDsetlt u d a b s
  | .dsetle u d a b => Sys2Proof.Machine.execDsetle u d a b s
  | .dsetgt u d a b => Sys2Proof.Machine.execDsetgt u d a b s
  | .dsetge u d a b => Sys2Proof.Machine.execDsetge u d a b s
  | .dsetun u d a b => Sys2Proof.Machine.execDsetun u d a b s
  | .dsetor u d a b => Sys2Proof.Machine.execDsetor u d a b s
  | .rcpF32 u d a => Sys2Proof.Machine.execRcpF32 u d a s
  | .rsqF32 u d a => Sys2Proof.Machine.execRsqF32 u d a s
  | .sqrtF32 u d a => Sys2Proof.Machine.execSqrtF32 u d a s
  | .exp2 u d a => Sys2Proof.Machine.execExp2 u d a s
  | .log2 u d a => Sys2Proof.Machine.execLog2 u d a s
  | .sin u d a => Sys2Proof.Machine.execSin u d a s
  | .cos u d a => Sys2Proof.Machine.execCos u d a s
  | .rcpF64 u d a => Sys2Proof.Machine.execRcpF64 u d a s
  | .rsqF64 u d a => Sys2Proof.Machine.execRsqF64 u d a s
  | .sqrtF64 u d a => Sys2Proof.Machine.execSqrtF64 u d a s
  | .idivI32 u d a b => Sys2Proof.Machine.execIdivI32 u d a b s
  | .idivN32 u d a b => Sys2Proof.Machine.execIdivN32 u d a b s
  | .iremI32 u d a b => Sys2Proof.Machine.execIremI32 u d a b s
  | .iremN32 u d a b => Sys2Proof.Machine.execIremN32 u d a b s
  | .cvt u d a t s1 r => Sys2Proof.Machine.execCvt u d a t s1 r s
  | .cvtd u d a t s1 r => Sys2Proof.Machine.execCvtd u d a t s1 r s
  | .pkbxBx2 u d a => Sys2Proof.Machine.execPkbxBx2 u d a s
  | .pkbxBx4 u d a => Sys2Proof.Machine.execPkbxBx4 u d a s
  | .pkbxBx7 u d a => Sys2Proof.Machine.execPkbxBx7 u d a s
  | .upbxBx2 u d a => Sys2Proof.Machine.execUpbxBx2 u d a s
  | .upbxBx4 u d a => Sys2Proof.Machine.execUpbxBx4 u d a s
  | .upbxBx7 u d a => Sys2Proof.Machine.execUpbxBx7 u d a s
  | .pkmxMxi8 u d a => Sys2Proof.Machine.execPkmxMxi8 u d a s
  | .pkmxMxf8e4 u d a => Sys2Proof.Machine.execPkmxMxf8e4 u d a s
  | .pkmxMxf8e5 u d a => Sys2Proof.Machine.execPkmxMxf8e5 u d a s
  | .upmxMxi8 u d a => Sys2Proof.Machine.execUpmxMxi8 u d a s
  | .upmxMxf8e4 u d a => Sys2Proof.Machine.execUpmxMxf8e4 u d a s
  | .upmxMxf8e5 u d a => Sys2Proof.Machine.execUpmxMxf8e5 u d a s
  | .rngk u d a b => Sys2Proof.Machine.execRngk u d a b s
  | .shflIdx u d a b => Sys2Proof.Machine.execShflIdx u d a b s
  | .shflUp u d a b => Sys2Proof.Machine.execShflUp u d a b s
  | .shflDown u d a b => Sys2Proof.Machine.execShflDown u d a b s
  | .shflXor u d a b => Sys2Proof.Machine.execShflXor u d a b s
  | .voteAll u d a b => Sys2Proof.Machine.execVoteAll u d a b s
  | .voteAny u d a b => Sys2Proof.Machine.execVoteAny u d a b s
  | .voteEq u d a b => Sys2Proof.Machine.execVoteEq u d a b s
  | .ballot u d a b => Sys2Proof.Machine.execBallot u d a b s
  | .wredAddI32 u d a b => Sys2Proof.Machine.execWredAddI32 u d a b s
  | .wredMinI32 u d a b => Sys2Proof.Machine.execWredMinI32 u d a b s
  | .wredMaxI32 u d a b => Sys2Proof.Machine.execWredMaxI32 u d a b s
  | .wredAddF32 u d a b => Sys2Proof.Machine.execWredAddF32 u d a b s
  | .wredAnd u d a b => Sys2Proof.Machine.execWredAnd u d a b s
  | .wredOr u d a b => Sys2Proof.Machine.execWredOr u d a b s
  | .wredXor u d a b => Sys2Proof.Machine.execWredXor u d a b s
  | .ld u d a w p o => Sys2Proof.Machine.execLd u d a w p o s
  | .lds u d a w p o => Sys2Proof.Machine.execLds u d a w p o s
  | .st u d a w p o => Sys2Proof.Machine.execSt u d a w p o s
  | .pref a => Sys2Proof.Machine.execPref a s
  | .cinvCore a => Sys2Proof.Machine.execCinvCore a s
  | .cinvClu a => Sys2Proof.Machine.execCinvClu a s
  | .cinvDie a => Sys2Proof.Machine.execCinvDie a s
  | .cinvDev a => Sys2Proof.Machine.execCinvDev a s
  | .cinvSys a => Sys2Proof.Machine.execCinvSys a s
  | .atom32 d a s1 p o r => Sys2Proof.Machine.execAtom32 d a s1 p o r s
  | .atom64 d a s1 p o r => Sys2Proof.Machine.execAtom64 d a s1 p o r s
  | .red32 d a s1 p o r => Sys2Proof.Machine.execRed32 d a s1 p o r s
  | .red64 d a s1 p o r => Sys2Proof.Machine.execRed64 d a s1 p o r s
  | .bredF32 a b => Sys2Proof.Machine.execBredF32 a b s
  | .bredF64 a b => Sys2Proof.Machine.execBredF64 a b s
  | .binfin d a => Sys2Proof.Machine.execBinfin d a s
  | .appendB32 d a b => Sys2Proof.Machine.execAppendB32 d a b s
  | .appendB64 d a b => Sys2Proof.Machine.execAppendB64 d a b s
  | .appendB128 d a b => Sys2Proof.Machine.execAppendB128 d a b s
  | .appendB256 d a b => Sys2Proof.Machine.execAppendB256 d a b s
  | .sealPage a => Sys2Proof.Machine.execSealPage a s
  | .waita d a b => Sys2Proof.Machine.execWaita d a b s
  | .wake d a b => Sys2Proof.Machine.execWake d a b s
  | .twany d a => Sys2Proof.Machine.execTwany d a s
  | .twall a => Sys2Proof.Machine.execTwall a s
  | .tffr d a => Sys2Proof.Machine.execTffr d a s
  | .fenceAcq s1 => Sys2Proof.Machine.execFenceAcq s1 s
  | .fenceRel s1 => Sys2Proof.Machine.execFenceRel s1 s
  | .fenceAr s1 => Sys2Proof.Machine.execFenceAr s1 s
  | .phreg d a b => Sys2Proof.Machine.execPhreg d a b s
  | .phdrop a => Sys2Proof.Machine.execPhdrop a s
  | .phsig a => Sys2Proof.Machine.execPhsig a s
  | .phwt d a => Sys2Proof.Machine.execPhwt d a s
  | .pharv d a => Sys2Proof.Machine.execPharv d a s
  | .phregDev d a b => Sys2Proof.Machine.execPhregDev d a b s
  | .phdropDev a => Sys2Proof.Machine.execPhdropDev a s
  | .phsigDev a => Sys2Proof.Machine.execPhsigDev a s
  | .phwtDev d a => Sys2Proof.Machine.execPhwtDev d a s
  | .pharvDev d a => Sys2Proof.Machine.execPharvDev d a s
  | .waitc l s1 c t => Sys2Proof.Machine.execWaitc l s1 c t s
  | .wopen d a b => Sys2Proof.Machine.execWopen d a b s
  | .wshut a => Sys2Proof.Machine.execWshut a s
  | .spmap d a b => Sys2Proof.Machine.execSpmap d a b s
  | .spunmap a => Sys2Proof.Machine.execSpunmap a s
  | .tres d a f => Sys2Proof.Machine.execTres d a f s
  | .trel a => Sys2Proof.Machine.execTrel a s
  | .mxop a t f => Sys2Proof.Machine.execMxop a t f s
  | .mxswap => Sys2Proof.Machine.execMxswap s
  | .bload d a t => Sys2Proof.Machine.execBload d a t s
  | .copy d a t => Sys2Proof.Machine.execCopy d a t s
  | .gath d a t => Sys2Proof.Machine.execGath d a t s
  | .scat d a t => Sys2Proof.Machine.execScat d a t s
  | .trace a t f => Sys2Proof.Machine.execTrace a t f s
  | .tdecCont a => Sys2Proof.Machine.execTdecCont a s
  | .tdecAcc a => Sys2Proof.Machine.execTdecAcc a s
  | .tdecTerm a => Sys2Proof.Machine.execTdecTerm a s
  | .march a t => Sys2Proof.Machine.execMarch a t s
  | .emit a f => Sys2Proof.Machine.execEmit a f s
  | .launch d a => Sys2Proof.Machine.execLaunch d a s
  | .gwait a => Sys2Proof.Machine.execGwait a s
  | .qsig a => Sys2Proof.Machine.execQsig a s
  | .br j c a o => Sys2Proof.Machine.execBr j c a o s
  | .jmp o => Sys2Proof.Machine.execJmp o s
  | .call h o => Sys2Proof.Machine.execCall h o s
  | .brx u a => Sys2Proof.Machine.execBrx u a s
  | .callx u a h => Sys2Proof.Machine.execCallx u a h s
  | .ret => Sys2Proof.Machine.execRet s
  | .wbase n => Sys2Proof.Machine.execWbase n s
  | .yield => Sys2Proof.Machine.execYield s
  | .exit => Sys2Proof.Machine.execExit s
  | .nop => Sys2Proof.Machine.execNop s
  | .trap c => Sys2Proof.Machine.execTrap c s
  | .eret => Sys2Proof.Machine.execEret s
  | .mfs u d s1 => Sys2Proof.Machine.execMfs u d s1 s
  | .mts a s1 => Sys2Proof.Machine.execMts a s1 s
  | .loadDataReturn op err => Sys2Proof.Machine.execLoadDataReturn op err s
  | .storePerformed op => Sys2Proof.Machine.execStorePerformed op s
  | .l1WriteBack core ctx addr => Sys2Proof.Machine.execL1WriteBack core ctx addr s
  | .l1Drop core ctx addr => Sys2Proof.Machine.execL1Drop core ctx addr s
  | .issueCycle core => Sys2Proof.Machine.execIssueCycle core s
  | .joinHoldTimeout core slot pc => Sys2Proof.Machine.execJoinHoldTimeout core slot pc s
  | .ageSaturation core slot pc => Sys2Proof.Machine.execAgeSaturation core slot pc s
  | .clockGate core ps => Sys2Proof.Machine.execClockGate core ps s
  | .launchDispatch qcore => Sys2Proof.Machine.execLaunchDispatch qcore s
  | .crewPlace cluster => Sys2Proof.Machine.execCrewPlace cluster s
  | .crewSteal cluster => Sys2Proof.Machine.execCrewSteal cluster s
  | .crewEnd crew => Sys2Proof.Machine.execCrewEnd crew s
  | .preemptDispatcher cluster => Sys2Proof.Machine.execPreemptDispatcher cluster s
  | .preemptLacewing crew => Sys2Proof.Machine.execPreemptLacewing crew s
  | .preemptSave crew => Sys2Proof.Machine.execPreemptSave crew s
  | .crewResume crew => Sys2Proof.Machine.execCrewResume crew s
  | .preemptSaveTimeout crew => Sys2Proof.Machine.execPreemptSaveTimeout crew s
  | .tresRetry core => Sys2Proof.Machine.execTresRetry core s
  | .trelRelease tid => Sys2Proof.Machine.execTrelRelease tid s
  | .spmapComplete core num => Sys2Proof.Machine.execSpmapComplete core num s
  | .spunmapComplete core num => Sys2Proof.Machine.execSpunmapComplete core num s
  | .matrixStart core => Sys2Proof.Machine.execMatrixStart core s
  | .mxswapEffect core => Sys2Proof.Machine.execMxswapEffect core s
  | .mxopComplete op => Sys2Proof.Machine.execMxopComplete op s
  | .bankSave core => Sys2Proof.Machine.execBankSave core s
  | .copyComplete op => Sys2Proof.Machine.execCopyComplete op s
  | .rayCandidate op => Sys2Proof.Machine.execRayCandidate op s
  | .rayComplete op => Sys2Proof.Machine.execRayComplete op s
  | .marchBatch op => Sys2Proof.Machine.execMarchBatch op s
  | .streamClose tid => Sys2Proof.Machine.execStreamClose tid s
  | .popEntryPush held => Sys2Proof.Machine.execPopEntryPush held s
  | .reductionDrain grid => Sys2Proof.Machine.execReductionDrain grid s
  | .slewGroupRelease => Sys2Proof.Machine.execSlewGroupRelease s
  | .atomicQuietExpiry line => Sys2Proof.Machine.execAtomicQuietExpiry line s
  | .comparatorMatch prim shad => Sys2Proof.Machine.execComparatorMatch prim shad s
  | .dualUnmatchedTimeout op => Sys2Proof.Machine.execDualUnmatchedTimeout op s
  | .sampledDigestCompare crew => Sys2Proof.Machine.execSampledDigestCompare crew s
  | .convWatchdog core slot pc => Sys2Proof.Machine.execConvWatchdog core slot pc s
  | .crewWatchdog crew => Sys2Proof.Machine.execCrewWatchdog crew s
  | .migrationTimeout seq => Sys2Proof.Machine.execMigrationTimeout seq s
  | .registerWrite agent addr value => Sys2Proof.Machine.execRegisterWrite agent addr value s
  | .queueGo q value => Sys2Proof.Machine.execQueueGo q value s
  | .invalidatePage ctx rcl bnd => Sys2Proof.Machine.execInvalidatePage ctx rcl bnd s
  | .invalidateContext ctx rcl bnd => Sys2Proof.Machine.execInvalidateContext ctx rcl bnd s
  | .invalidateAll ctx rcl bnd => Sys2Proof.Machine.execInvalidateAll ctx rcl bnd s
  | .reclaim scope ctx => Sys2Proof.Machine.execReclaim scope ctx s
  | .dropBounds scope ctx => Sys2Proof.Machine.execDropBounds scope ctx s
  | .invalidationComplete => Sys2Proof.Machine.execInvalidationComplete s
  | .hsAcknowledge seq refuse => Sys2Proof.Machine.execHsAcknowledge seq refuse s
  | .hsRequestPage vapg ctx => Sys2Proof.Machine.execHsRequestPage vapg ctx s
  | .attestationGo value => Sys2Proof.Machine.execAttestationGo value s
  | .attestationDone => Sys2Proof.Machine.execAttestationDone s
  | .scLockWrite value => Sys2Proof.Machine.execScLockWrite value s
  | .mxCadenceWrite core value => Sys2Proof.Machine.execMxCadenceWrite core value s
  | .hostWrite pa data psn => Sys2Proof.Machine.execHostWrite pa data psn s
  | .hostRead pa size => Sys2Proof.Machine.execHostRead pa size s
  | .hostSnoop pa => Sys2Proof.Machine.execHostSnoop pa s
  | .configRequest access => Sys2Proof.Machine.execConfigRequest access s
  | .remoteRequest src seq ctx va kind sub data => Sys2Proof.Machine.execRemoteRequest src seq ctx va kind sub data s
  | .remoteResponse req err aux psn data => Sys2Proof.Machine.execRemoteResponse req err aux psn data s
  | .remoteTimeout req => Sys2Proof.Machine.execRemoteTimeout req s
  | .flitCrcFailure link => Sys2Proof.Machine.execFlitCrcFailure link s
  | .linkTrainingLoss link => Sys2Proof.Machine.execLinkTrainingLoss link s
  | .linkRetrainEnd link ok => Sys2Proof.Machine.execLinkRetrainEnd link ok s
  | .tokenExchangeTick draw peer tokens => Sys2Proof.Machine.execTokenExchangeTick draw peer tokens s
  | .demandAnnounce peer watts => Sys2Proof.Machine.execDemandAnnounce peer watts s
  | .tokenGrant peer tokens age => Sys2Proof.Machine.execTokenGrant peer tokens age s
  | .leaseEnd lease => Sys2Proof.Machine.execLeaseEnd lease s
  | .tokenReturn grant => Sys2Proof.Machine.execTokenReturn grant s
  | .grantReturnTimeout grant => Sys2Proof.Machine.execGrantReturnTimeout grant s
  | .powerAverage die watts => Sys2Proof.Machine.execPowerAverage die watts s
  | .holdEnd core ps => Sys2Proof.Machine.execHoldEnd core ps s
  | .railCurrentAlert die => Sys2Proof.Machine.execRailCurrentAlert die s
  | .railHoldFailure die => Sys2Proof.Machine.execRailHoldFailure die s
  | .junction100c die => Sys2Proof.Machine.execJunction100c die s
  | .junction110cTimeout die => Sys2Proof.Machine.execJunction110cTimeout die s
  | .junction120c die => Sys2Proof.Machine.execJunction120c die s
  | .hdieOvertemp => Sys2Proof.Machine.execHdieOvertemp s
  | .dieInternalError die => Sys2Proof.Machine.execDieInternalError die s
  | .coreSelfTest core pass => Sys2Proof.Machine.execCoreSelfTest core pass s
  | .backgroundScrub place bad => Sys2Proof.Machine.execBackgroundScrub place bad s
  | .powerOnReset images => Sys2Proof.Machine.execPowerOnReset images s
  | .firmwareUpdate image => Sys2Proof.Machine.execFirmwareUpdate image s
  | .illegalInstruction w => Sys2Proof.Machine.execIllegalInstruction w s
  | .instructionFetchFault => Sys2Proof.Machine.execInstructionFetchFault s
  | .contextCreation ctx btab ptroot flbase logn thnd save sys => Sys2Proof.Machine.execContextCreation ctx btab ptroot flbase logn thnd save sys s
  | .queueCoreCycle qcore => Sys2Proof.Machine.execQueueCoreCycle qcore s
  | .powerLoss => Sys2Proof.Machine.execPowerLoss s

end Sys2Proof.Machine
end

