-- ==== Sys2Proof/Machine/Idle.lean ====
section
/-! DEFINITION. The default order (log 2): with no event listed and no packet chosen, what is due happens, one event a step, and the cores take their cycles in turn. -/

namespace Sys2Proof.Machine

/-- Something that may be due: an event given all it needs but the state. -/
abbrev Due := State → Host.Outcome State Fault Refusal

/-- Operations whose data returns or that are performed, oldest first. -/
def State.dueOps (s : State) : List Due :=
  (s.pend.flatMap fun o => [execLoadDataReturn o.id false, execStorePerformed o.id])
    ++ s.outside.flatMap fun x => x.left.flatMap fun i => [execLoadDataReturn (x.id + i) false, execStorePerformed (x.id + i)]

/-- Steps of the engines. -/
def State.dueEngines (s : State) : List Due :=
  (s.ops.flatMap fun o => [execCopyComplete o.id, execRayCandidate o.id, execRayComplete o.id, execMarchBatch o.id, execStreamClose o.tid])
    ++ (s.cores.flatMap fun (x : Nat × Core) =>
      [execMatrixStart x.1, execMxswapEffect x.1, execBankSave x.1, execTresRetry x.1] ++ x.2.mxc.map fun m => execMxopComplete m.op)
    ++ (s.streams.map fun (x : Nat × Stream) => execStreamClose x.1)
    ++ s.heldPops.map fun h => execPopEntryPush h.id

/-- Mappings and reservations that parked threads wait for. -/
def State.dueParked (s : State) : List Due :=
  (s.cores.flatMap fun (x : Nat × Core) => x.2.maps.map fun (m : Nat × SpMapping) => execSpmapComplete x.1 m.1)
    ++ s.threads.flatMap fun (x : Nat × Thread) => match x.2.run with
      | .parked (.spunmap n) => [execSpunmapComplete (coreOf x.1) n]
      | .parked (.trel _) => [execTrelRelease x.1]
      | _ => []

/-- The comparator's pairs, device-phaser wakes and flush points. -/
def State.dueChecks (s : State) : List Due :=
  (s.duals.flatMap fun p => s.duals.filterMap fun d =>
      if p.id ≠ d.id && p.lane = d.lane && p.seq = d.seq && p.crew ≠ d.crew then some (execComparatorMatch p.id d.id) else none)
    ++ [execSlewGroupRelease] ++ (s.flushes.map fun f => execReductionDrain f.grid) ++ [execInvalidationComplete]

/-- Crews that end, are compared, saved or restored; records to take; crews to place. -/
def State.dueCrews (s : State) : List Due :=
  (s.crews.flatMap fun (x : Nat × Crew) =>
      [execCrewEnd x.1, execSampledDigestCompare x.1, execPreemptSave x.1, execCrewResume x.1])
    ++ (if s.grids.isEmpty then [] else
      (List.range 8).map (fun q => execLaunchDispatch q) ++ (List.range 48).map (fun c => execCrewPlace c)
        ++ (List.range 48).map fun c => execCrewSteal c)

/-- Holds that end (R344). -/
def State.dueHolds (s : State) : List Due := (s.cores.filter fun x => x.2.held).map fun (x : Nat × Core) => execHoldEnd x.1 x.2.holdPs

/-- The first due event that changes anything. -/
def firstDue (s : State) : List Due → Option State
  | [] => none
  | f :: r =>
    match f s with
    | .next s' => if s' = s then firstDue s r else some s'
    | .fault .. | .refused .. => firstDue s r

/-- Cores and queue cores with something to issue, ascending: cores with a wave, then queue cores with a program, from 192. -/
def State.clocked (s : State) : List Nat :=
  ((List.range Config.cores).filter fun c => (s.core c).runs && !(s.wavesOn c).isEmpty)
    ++ ((List.range 8).filter fun q => (List.range 8).any fun i => (s.queue (8 * q + i)).run).map (· + Config.cores)

/-- The cycle of the core after the one that took the last. -/
def State.nextCycle (s : State) : Host.Outcome State Fault Refusal :=
  let cs := s.clocked
  match (cs.find? fun c => s.turn < c).orElse fun _ => cs.head? with
  | none => .next s
  | some c =>
    let s := { s with turn := c }
    if c < Config.cores then execIssueCycle c s else execQueueCoreCycle (c - Config.cores) s

/-- The default order. -/
def State.idle (s : State) : Host.Outcome State Fault Refusal :=
  let p := s.abortPoisoned
  if p ≠ s then .next p
  else match firstDue s (s.dueOps ++ s.dueEngines ++ s.dueParked ++ s.dueChecks ++ s.dueCrews ++ s.dueHolds) with
    | some s' => .next s'
    | none => s.nextCycle

end Sys2Proof.Machine
end

