-- ==== Sys2Proof/Machine/Place.lean ====
section
/-! DEFINITION. Placing one word where the next step fetches (log 3): a context with one executable page, and a thread or a queue program at its first word. -/

namespace Sys2Proof.Machine

/-- Writes a number's bytes to physical memory. -/
def State.poke (s : State) (pa n v : Nat) : State := { s with phys := s.phys.write 8 pa (leBytes n v) false }

/-- Context 0: bounds entry 0 over the whole space and one 64 KiB page at VA 0, both with X alone, its entries already accessed. -/
def State.placeContext (s : State) (frame : Nat) : State :=
  let s := (((s.poke 0x10000 8 0).poke 0x10008 8 (2 ^ 56 - 1)).poke 0x10010 8 0x11).poke 0x20000 8 0x21081
  let s := ((s.poke 0x21000 8 0x22081).poke 0x22000 8 0x23081).poke 0x23000 8 0x24081
  let s := s.poke 0x24000 8 (frame + 0xc3)
  { s with contexts := s.contexts.put 0 { btab := 0x10000, ptroot := 0x20000, flbase := 0x30000, logn := 6, thnd := 0, save := 0, sys := false } }

/-- A launch record of one crew of one wave at entry 0 (R280). -/
def placeRecord : List Byte :=
  List.replicate 34 0 ++ [1, 2] ++ List.replicate 28 0

/-- A word at the PC of a thread of core 0, or of queue program 0 for the words that only a queue core executes. -/
def State.placeWord (s : State) (w : Word) : State :=
  let s := (s.placeContext 0x100000).poke 0x100000 4 w.toNat
  if bits w.toNat 30 25 = 0x37 then
    let s := s.setThread Config.coreThreads { run := .ready }
    let s := s.setQueue 0 { s.queue 0 with run := true, qctx := 0 }
    { s with picks := [{ tids := [Config.coreThreads], pipe := 0 }], agenda := [] }
  else
    let g : Grid := { queue := 0, ctx := 0, record := placeRecord, order := 0, taken := true, started := 1, total := 1 }
    let c : Crew := { grid := 1, index := 0, waves := 1, core := 0, paired := false, prio := 0, alloc := 0, base := 0, ntags := 0, start := 0, cluster := 0 }
    let s := { s with grids := s.grids.put 1 g, crews := s.crews.put 0 c, waves := s.waves.put 0 { crew := 0, index := 0, spillX := 0, since := 0 } }
    let s := s.setThread 0 { run := .ready }
    { s with picks := [{ tids := [0], pipe := 0 }], agenda := [] }

end Sys2Proof.Machine
end

