-- ==== Sys2Proof/Machine/Step.lean ====
section
/-! DEFINITION. One step of the machine: the next listed event, else the next chosen packet's instruction, else the event that `State.idle` finds due. -/

namespace Sys2Proof.Machine

/-- The instruction of the current packet: fetched, decoded, run. A fetch that fails and a word that is no instruction are the rows INSTRUCTION_FETCH_FAULT and ILLEGAL_INSTRUCTION. -/
def stepPacket (s : State) : Host.Outcome State Fault Refusal :=
  match s.lead with
  | none => .next s.lateRecords
  | some t =>
    match s.fetch t with
    | (_, .fail _) => execInstructionFetchFault s
    | (s, .wait) => .next s
    | (s, .word w) =>
      match decode w with
      | some i => s.charged (exec i s)
      | none => s.charged (execIllegalInstruction w s)

/-- One step (log 2). -/
def step (s : State) : Host.Outcome State Fault Refusal :=
  match s.agenda with
  | e :: r => exec e { s with agenda := r }
  | [] =>
    match s.picks with
    | p :: r => stepPacket { s with picks := r, cur := p }
    | [] => s.idle

/-- A state whose very next step fetches and runs the word `w` (log 3). -/
def State.withFetchWord (s : State) (_nbits w : Nat) : State := s.placeWord (BitVec.ofNat 32 w)

end Sys2Proof.Machine
end

