-- ==== Sys2Proof/Safety.lean ====
section
/-! DEFINITION. What a safe run is: every storage keeps its canonical form and every map its keys rising. -/

namespace Sys2Proof.Machine

/-- Every storage is in its canonical form. -/
def State.memWf (s : State) : Bool :=
  Memory.wf s.phys && Memory.wf s.scratch && Memory.wf s.tile && Memory.wf s.banks && Memory.wf s.replicas

/-- What crews have saved or suspended is in canonical form too: it comes back to the storages (R109, R110, R297). -/
def Saved.wf (v : Saved) : Bool := v.scratch.all Memory.wf && v.tile.all (fun x => Memory.wf x.2) && v.banks.all fun x => Memory.wf x.2.1 && Memory.wf x.2.2.1
def State.savedWf (s : State) : Bool := s.crews.all fun x => x.2.saved.wf

/-- The maps of threads, waves, cores, crews, grids and contexts list each key once, rising. -/
def State.mapsWf (s : State) : Bool :=
  FMap.rising s.threads && FMap.rising s.waves && FMap.rising s.cores && FMap.rising s.crews && FMap.rising s.grids
    && FMap.rising s.contexts

/-- The invariant of the machine's data. -/
def State.Inv (s : State) : Prop := s.memWf = true ∧ s.savedWf = true ∧ s.mapsWf = true

/-- A run is safe while no step stops the machine. -/
def Safe (s : State) : Prop := ∃ s', step s = .next s'

/-! ### What statements about one thread's instruction speak of -/

/-- Thread `t` alone issues `i`: it is the packet's one thread, the word passes its checks (R376), the thread can issue (R32), its operands are ready (R34, R62) and no register it reads holds an error still to be found (R375); reading them moves the thread to `x'` (address registers, R59), gives the values `vs` by position and the destination `d`. -/
structure Solo (i : Instr) (s : State) (t : Nat) (x' : Thread) (vs : List (Pos × OpVal)) (d : Dest) : Prop where
  alone : s.cur.tids = [t]
  word : i.check s.onQueue = none
  ready : s.canIssue t = true
  able : laneReady i s t = true
  sound : latentRead i (s.thread t) = []
  reads : laneOperands i s t = .ok (x', vs, d, [])

/-- Thread `t` alone issues `i`, and an operand of it faults with `c` (R377 steps 2 to 4). -/
structure SoloFault (i : Instr) (s : State) (t : Nat) (c : Cause) : Prop where
  alone : s.cur.tids = [t]
  word : i.check s.onQueue = none
  ready : s.canIssue t = true
  able : laneReady i s t = true
  sound : latentRead i (s.thread t) = []
  faults : laneOperands i s t = .error c

/-- No source is poisoned. -/
def Clean (vs : List (Pos × OpVal)) : Prop := ∀ v ∈ vs, v.2.psn = false

/-- The source values by position, lowest position first. -/
def valsOf (vs : List (Pos × OpVal)) : List Nat := vs.map fun v => v.2.val

/-- Source number `n` as a number, a 32-bit and a 64-bit value. -/
def nv (l : List Nat) (n : Nat) : Nat := l.getD n 0
def wv (l : List Nat) (n : Nat) : Word := BitVec.ofNat 32 (nv l n)
def dv (l : List Nat) (n : Nat) : Dword := BitVec.ofNat 64 (nv l n)

/-- The state after `i` has written a result and raised flags: nothing else changes but the operands taken and the PC. -/
def State.settled (s : State) (i : Instr) (t : Nat) (x' : Thread) (d : Dest) (r : Nat × Flags) : State :=
  (((s.took i t x').writeResult t d r.1).setFlags t r.2).advance t

/-- `i`, issued by one thread on clean sources, writes `f` of its MODE and source values to its destination and goes on. -/
def Computes (i : Instr) (f : Word → List Nat → Nat × Flags) : Prop :=
  ∀ (s : State) (t : Nat) (x' : Thread) (vs : List (Pos × OpVal)) (d : Dest), Solo i s t x' vs d → Clean vs →
    exec i s = .next (s.settled i t x' d (f (s.thread t).mode (valsOf vs)))

/-- A 32-bit or 64-bit result without flags. -/
def word32 (w : Word) : Nat × Flags := (w.toNat, {})
def word64 (w : Dword) : Nat × Flags := (w.toNat, {})
/-- 1 or 0 (R180). -/
def truth (p : Bool) : Nat × Flags := (if p then 1 else 0, {})

/-- The state in which thread `t` alone has trapped with `c` at the packet's instruction (R363, R376): `s` is the state kept of the attempt. A thread whose crew is being aborted takes no trap (R397). -/
def State.trapped (s : State) (t : Nat) (c : Cause) (i : Instr) (pc : Option Nat) : State :=
  if s.aborting t then s else s.takeTrap [t] { c with pc := pc } (encode i).toNat (laneMask [t]) 0

/-- The state in which thread `t` alone has a record at level 0 for its instruction, which goes on; none of GROUP 0x01 while its crew is being aborted (R397). -/
def State.recorded (s : State) (t : Nat) (c : Cause) (i : Instr) (pc : Option Nat) : State :=
  if s.aborting t && c.group = 1 then s
  else (s.logFault (s.ctxOf t) ({ c with pc := pc }.record s t (encode i).toNat (laneMask [t]) 0 (s.thread t).trap.inh)).1

/-- A load or a returning operation of thread `t` is recorded as pending, counts in its load counter, and the thread goes on (R212, R223). -/
def State.issuedLoad (s : State) (t : Nat) (o : PendOp) : State := ((s.pushUnits o).addLoads t).advance t

/-- A store of thread `t` is recorded as pending in its units, counts in its store counter and in its sequence of global writes, and the thread goes on (R212, R223, R298). -/
def State.issuedStore (s : State) (t : Nat) (o : PendOp) : State := ((((s.digest o).pushUnits o).addStores t).bumpSeq t).advance t

/-- `i` loads `size` bytes at `off` from its address in a space (R210 to R212): where the checks pass, an HBM, host, remote or window access, or one wider than 8 bytes (R138), is left pending, as is one of the scratchpad that an earlier operation is ordered before; any other scratchpad access of at most 8 bytes returns its bytes at once (R136; log 7), a device register its value; where they fail the destination is poisoned and the record is written without a trap (R401). -/
def Loads (i : Instr) (space size : Nat) (off : Int) (signed : Bool) : Prop :=
  ∀ (s : State) (t : Nat) (x' : Thread) (vs : List (Pos × OpVal)) (d : Dest), Solo i s t x' vs d →
    let s0 := s.took i t x'
    let p := laneAddr space (nv (valsOf vs) 0) off
    (s0.thread t).loads < 255 →
    (∀ s1 g, s0.check t space p size size .read = (s1, .ok g) →
      let o : PendOp := { s1.newOp t g (.load signed) size (encode i).toNat with dst := d }
      (g.place ≠ 3 → (g.space ≠ 1 ∨ 8 < size ∨ s1.blocked o = true) → exec i s = .next (s1.issuedLoad t o))
      ∧ (g.place ≠ 3 → g.space = 1 → size ≤ 8 → s1.blocked o = false →
          let r := s1.readOp o
          exec i s = .next ((r.2.writeLoaded t d signed r.1).advance t))
      ∧ (g.place = 3 → s1.busy t = false → exec i s = .next ((s1.writeLoaded t d signed (clean (s1.regRead g.pa size))).advance t)))
    ∧ (∀ s1 e, s0.check t space p size size .read = (s1, .bad e) →
      exec i s = .next (((s1.poisonDest t d).advance t).recorded t (e.cause space p 0 size true) i s.leadPc))

/-- `i` is a read-modify-write of `size` bytes (R215 to R218), of system scope in the system space (R98). Where the checks pass on plain memory or through a window it is left pending with its operation, order and scope, counting as a load if it returns and as a store if it does not; on the thread's own scratchpad it is performed at once, after its release, where no thread of the packet has an operation pending (R136, R217; log 7); a device register returns its value and writes nothing, and of a reduction in an ordered grid the contribution is held (R147, R300), each after its release too (R141). Where they fail the thread traps. -/
def Updates (i : Instr) (ret : Bool) (regs scope space op ord : Nat) : Prop :=
  ∀ (s : State) (t : Nat) (x' : Thread) (vs : List (Pos × OpVal)) (d : Dest), Solo i s t x' vs d →
    let s0 := s.took i t x'
    let p := laneAddr space (nv (valsOf vs) 0) 0
    let size := 4 * regs
    let sc := if space = 3 then 4 else scope
    (if ret then (s0.thread t).loads else (s0.thread t).stores) < 255 →
    (∀ s1 g, s0.check t space p size size .rmw = (s1, .ok g) →
      let o : PendOp :=
        { s1.newOp t g (.atomic op ret (decide (2 ≤ ord)) (decide (ord % 2 = 1)) sc) size (encode i).toNat with
          data := leBytes (if op = 9 then 2 * size else size) (nv (valsOf vs) 1), dst := if ret then resultDest d regs else .none }
      let acquired (s : State) : State := if ord % 2 = 1 then s.acquire sc o.core o.ctx else s
      let rs := if 2 ≤ ord then s1.tryRelease sc o.core o.ctx else (s1, true)
      (g.place ≠ 3 → g.cls ≠ 1 → (g.space ≠ 1 ∨ s1.together = false ∨ rs.2 = false) → (ret = true ∨ s1.orderedGrid t = false) →
        let s2 := if ret then (s1.pushOp o).addLoads t else (s1.pushOp o).addStores t
        exec i s = .next ((if g.place = 1 then s2 else (s2.digest o).bumpSeq t).advance t))
      ∧ (g.place ≠ 3 → g.cls ≠ 1 → g.space = 1 → (ret = true ∨ s1.orderedGrid t = false) → s1.together = true → rs.2 = true →
        let r := rs.1.rmwAt o op sc
        exec i s = .next (((acquired r.1).writeDest t o.dst (leNat (r.2.map (·.1))) (r.2.any (·.2))).advance t))
      ∧ (g.place = 3 → s1.busy t = false → rs.2 = true →
        exec i s = .next (((acquired rs.1).writeDest t o.dst (leNat (rs.1.regRead g.pa size)) false).advance t))
      ∧ (g.place ≠ 3 → g.cls ≠ 1 → ret = false → s1.orderedGrid t = true → (ord < 2 ∨ s1.busy t = false) → rs.2 = true →
        ∀ s2, holdLane rs.1 t o op size (leNat o.data) = .done s2 [] →
        exec i s = .next s2))
    ∧ (∀ s1 e, s0.check t space p size size .rmw = (s1, .bad e) →
      exec i s = .next (State.trapped { s1.setThread t (s.thread t) with ops := s.ops } t (e.cause space p 2 size false) i s.leadPc))

/-- One member of a group takes what it receives (R197): its operands are consumed, and the value is written to its destination and the flags are set; a poisoned value is written as poison without flags (R367); with nothing received D stays as it is. It goes on. -/
def State.receives (s : State) (i : Instr) (x : Party) (r : XtResult) : State :=
  let s1 := (s.took i x.tid x.moved).advance x.tid
  match r with
  | none => s1
  | some (v, fl) => if v.psn then s1.writePoison x.tid x.dst else (s1.writeResult x.tid x.dst v.val).setFlags x.tid fl

/-- A cross-thread instruction at the PC of the packet's leader `t` (R197): once its threads have arrived, the group `g` is complete, every member's operands are good, clean in B, free of errors still to be found, equal where the instruction is uniform, and every mask names `g`, and no member with a scratchpad destination receives poison (R368); then all of `g` leave Converging, and each member receives its `f` (with U = 1 the lowest member's, R65) and goes on. -/
def Joins (i : Instr) (u : Bool) (f : List Party → Party → XtResult) : Prop :=
  ∀ (s : State) (t : Nat) (g : List Nat) (m : Party) (ms : List Party),
    s.lead = some t → i.check s.onQueue = none →
    let s1 := s.cur.tids.foldl (fun (s : State) t => s.arrive i t) s
    let s2 := g.foldl (fun (s : State) t => s.leave t) s1
    s1.xtGroup i (waveOf t) (s.thread t).pc = some g → s2.members i u none g = (m :: ms, []) →
    (∀ x ∈ m :: ms, (x.val 1).psn = false) → (∀ x ∈ g, (s1.thread x).latent = []) →
    s1.disagree i g (m :: ms) = [] → dissent u (m :: ms) = [] →
    let res (x : Party) : XtResult := f (m :: ms) (if u then m else x)
    (∀ x ∈ m :: ms, ∀ b n, x.dst = .scratch b n → ∀ v, res x = some v → v.1.psn = false) →
    exec i s = .next ((m :: ms).foldl (fun s x => s.receives i x (res x)) (g.foldl (fun s t => s.leave t) s1))

/-- `i` is refused with `c`: its thread traps, and of the attempt at state `s1` nothing of the thread or its operations is kept (R401, R415). -/
def Refuses (i : Instr) (s : State) (t : Nat) (s1 : State) (c : Cause) : Prop :=
  exec i s = .next (State.trapped { s1.setThread t (s.thread t) with ops := s.ops } t c i s.leadPc)

/-- `i` moves the window of thread `t` to `wb` from the state `s0` that has its operands, and then does `f` (R54, R55): nothing happens while a result is pending for the thread or the lines of the move have no frames in the L1 (R15); a move that fails traps with its cause and moves nothing (R386, R388, R444); for a line that lies absent in another device's memory a request goes out first; else `f` of the moved state follows. -/
def MovesWindow (i : Instr) (s : State) (t : Nat) (s0 : State) (wb : Int) (f : State → State) : Prop :=
  let move := s0.moveWindow t wb (encode i).toNat
  (s0.anyPending t = true → exec i s = .next s)
  ∧ (s0.anyPending t = false →
    (∀ c, move = .error c → c.trap = true → Refuses i s t s0 c)
    ∧ (∀ s1 ptr pa, move = .ok s1 → s0.farFill t wb = some (ptr, pa) →
        exec i s = .next { (s0.requestBlock t (encode i).toNat ptr pa).setThread t (s.thread t) with ops := s.ops })
    ∧ (∀ s1, move = .ok s1 → s0.farFill t wb = none → s0.moveRoomy t wb = false → exec i s = .next s)
    ∧ (∀ s1, move = .ok s1 → s0.farFill t wb = none → s0.moveRoomy t wb = true → exec i s = .next (f s1)))

/-- PHREG of thread `t` on the phaser `k`, number `n` in records, found in the state `s1` (R231): already a member, a member of four, a mode past 2, or another crew's phaser traps (R390); else the thread joins at the current phase and answers it. -/
def PhaserJoins (i : Instr) (s : State) (t : Nat) (s1 : State) (k n mode : Nat) (d : Dest) : Prop :=
  let p := s1.phaser k
  let x := s1.thread t
  let bad (r : Nat) : Prop := Refuses i s t s1 { group := 1, code := 0xf, d0 := r, d1 := n }
  let foreign : Prop := isDevPhaser k = false ∧ ¬ (p.nsig = 0 ∧ p.nwait = 0) ∧ p.crew ≠ s1.crewIdOf t
  (x.member k ≠ none → bad 1)
  ∧ (x.member k = none →
    (4 ≤ x.phas.length → bad 2)
    ∧ (x.phas.length < 4 →
      (2 < mode → bad 3)
      ∧ (mode ≤ 2 → foreign → bad 4)
      ∧ (mode ≤ 2 → ¬ foreign →
        exec i s = .next ((((s1.setThread t { x with phas := x.phas ++ [{ key := k, mode := mode, lp := p.phase, nx := p.phase }] }).setPhaser k
          { p with nsig := if mode ≠ 2 then p.nsig + 1 else p.nsig, nwait := if mode ≠ 1 then p.nwait + 1 else p.nwait, crew := s1.crewIdOf t }).writeDest
            t d p.phase.toNat false).advance t))))

/-- PHDROP there (R233): a member leaves; another thread traps (R390). -/
def PhaserLeaves (i : Instr) (s : State) (t : Nat) (s1 : State) (k n : Nat) : Prop :=
  ((s1.thread t).member k ≠ none → exec i s = .next ((s1.phDrop t k).advance t))
  ∧ ((s1.thread t).member k = none → Refuses i s t s1 { group := 1, code := 0xf, d0 := 5, d1 := n })

/-- PHSIG, PHWT and PHARV there (R232): a thread that is no member, a signal of a pure waiter or a wait of a pure signaller traps (R390); a signal follows every earlier operation, a wait every earlier read; a signal releases and counts, and parks where it has no place in this phase yet or its release is not complete; the last one advances the phase; then a wait returns and acquires where the phase has moved past the member's last one, and else parks. -/
def PhaserActs (sig wait : Bool) (i : Instr) (s : State) (t : Nat) (s1 : State) (k n : Nat) (d : Dest) : Prop :=
  let bad (r : Nat) : Prop := Refuses i s t s1 { group := 1, code := 0xf, d0 := r, d1 := n }
  let after (s : State) : State :=
    if wait then (match s.phWait t k d with
      | some s => (s.phAcquire t k).advance t
      | none => s.park t (.phaser k false true d))
    else s.advance t
  ((s1.thread t).member k = none → bad 5)
  ∧ ∀ m, (s1.thread t).member k = some m →
    (sig = true → m.mode = 2 → bad 6)
    ∧ ((sig = false ∨ m.mode ≠ 2) → wait = true → m.mode = 1 → bad 7)
    ∧ ((sig = false ∨ m.mode ≠ 2) → (wait = false ∨ m.mode ≠ 1) →
      let held : Prop := (sig = true ∧ s1.busy t = true) ∨ (wait = true ∧ s1.readsPending t = true)
      (held → exec i s = .next s)
      ∧ (¬ held →
        (sig = false → exec i s = .next (after s1))
        ∧ (sig = true → ∀ s' s2 all, s1.phRelease t k = some s' → s'.phSignal t k = some (s2, all) →
            exec i s = .next (after (if all then s2.phAdvance k else s2)))
        ∧ (sig = true → (∀ s', s1.phRelease t k = some s' → s'.phSignal t k = none) → exec i s = .next (s1.park t (.phaser k true wait d)))))

/-- `i`, issued by one thread with a poisoned source, writes a poisoned result of unspecified bits to its registers and raises no flag; where the destination is a scratchpad operand the thread traps, since the poison would be stored (R367, R368). -/
def Poisons (i : Instr) : Prop :=
  ∀ (s : State) (t : Nat) (x' : Thread) (vs : List (Pos × OpVal)) (d : Dest), Solo i s t x' vs d → (∃ v ∈ vs, v.2.psn = true) →
    ((∀ b n, d ≠ .scratch b n) → exec i s = .next (((s.took i t x').writePoison t d).advance t))
    ∧ (∀ b n, d = .scratch b n → Refuses i s t (s.took i t x') { group := 12, code := 2, d0 := dstCode i })

/-- A word or operand that fails traps every thread of the packet that issues it and does nothing else: a word check takes one cause for all of them (R376, R377), an operand its own (R378 to R382), after the records of the poisoned scratchpad granules read with it (R375). -/
def Faults (i : Instr) : Prop :=
  (∀ (s : State) (f : WordFault), i.check s.onQueue = some f →
    exec i s = .next (({ s := s, causes := (s.cur.tids.filter s.canIssue).map fun t => (t, wordCause f) } : Acc).finish (encode i).toNat 0))
  ∧ (∀ (s : State) (t : Nat) (c : Cause), SoloFault i s t c →
    exec i s = .next (({ s := s, causes := (s.trapReads t i none c ++ [c]).map fun c => (t, c) } : Acc).finish (encode i).toNat 0 s.leadPc)
    ∧ (s.trapReads t i none c = [] → c.trap = true → exec i s = .next (s.trapped t c i s.leadPc)))

/-- Offences that every engine command has (R415): a tag beyond the crew's, a poisoned structure. -/
def State.commandOffences (s : State) (t : Nat) (tag : Option Nat) (psn : Bool) : List Offence :=
  (match s.crewOf t, tag with
    | some c, some g => offends (c.ntags ≤ g) 4 noField
    | _, _ => []) ++ offends psn 5 noField

end Sys2Proof.Machine
end

