-- ==== Sys2Proof/Certificates/Slice0/Obligations.lean ====
section
/-! DEFINITION. The statements for the provers, by the rules of the manual: what each instruction does and where it completes, what the machine does around it, and encodings. -/

open Sys2Proof Sys2Proof.Machine

/-- INT (R178): for the 32-bit forms, with S the signed and Z the unsigned reading of a source. INT64 (R178): the 64-bit forms; the count of a shift is 32 bits. -/
def Obligations.IntegerResults : Prop :=
  (
  ∀ (u : Bool) (d a b : BitVec 7),
    Computes (.add u d a b) (fun _ v => ((nv v 0 + nv v 1) % 2 ^ 32, {}))
    ∧ Computes (.sub u d a b) (fun _ v => (trunc ((wv v 0).toInt - (wv v 1).toInt) 32, {}))
    ∧ Computes (.minI32 u d a b) (fun _ v => word32 (if (wv v 0).toInt ≤ (wv v 1).toInt then wv v 0 else wv v 1))
    ∧ Computes (.minN32 u d a b) (fun _ v => (min (wv v 0).toNat (wv v 1).toNat, {}))
    ∧ Computes (.maxI32 u d a b) (fun _ v => word32 (if (wv v 0).toInt ≤ (wv v 1).toInt then wv v 1 else wv v 0))
    ∧ Computes (.maxN32 u d a b) (fun _ v => (max (wv v 0).toNat (wv v 1).toNat, {}))
    ∧ Computes (.abs u d a) (fun _ v => (trunc ((wv v 0).toInt.natAbs : Int) 32, {}))
    ∧ Computes (.neg u d a) (fun _ v => (trunc (-(wv v 0).toInt) 32, {}))
    ∧ Computes (.and u d a b) (fun _ v => ((wv v 0).toNat &&& (wv v 1).toNat, {}))
    ∧ Computes (.or u d a b) (fun _ v => ((wv v 0).toNat ||| (wv v 1).toNat, {}))
    ∧ Computes (.xor u d a b) (fun _ v => ((wv v 0).toNat ^^^ (wv v 1).toNat, {}))
    ∧ Computes (.andn u d a b) (fun _ v => word32 (wv v 0 &&& ~~~(wv v 1)))
    ∧ Computes (.shl u d a b) (fun _ v => ((wv v 0).toNat * 2 ^ min (wv v 1).toNat 32 % 2 ^ 32, {}))
    ∧ Computes (.shr u d a b) (fun _ v => ((wv v 0).toNat / 2 ^ min (wv v 1).toNat 32, {}))
    ∧ Computes (.sar u d a b) (fun _ v => (trunc ((wv v 0).toInt / 2 ^ min (wv v 1).toNat 32) 32, {})))
  ∧ (
  ∀ (u : Bool) (d a b : BitVec 7),
    Computes (.addI64 u d a b) (fun _ v => ((nv v 0 + nv v 1) % 2 ^ 64, {}))
    ∧ Computes (.subI64 u d a b) (fun _ v => (trunc ((dv v 0).toInt - (dv v 1).toInt) 64, {}))
    ∧ Computes (.minI64 u d a b) (fun _ v => word64 (if (dv v 0).toInt ≤ (dv v 1).toInt then dv v 0 else dv v 1))
    ∧ Computes (.minN64 u d a b) (fun _ v => (min (dv v 0).toNat (dv v 1).toNat, {}))
    ∧ Computes (.maxI64 u d a b) (fun _ v => word64 (if (dv v 0).toInt ≤ (dv v 1).toInt then dv v 1 else dv v 0))
    ∧ Computes (.maxN64 u d a b) (fun _ v => (max (dv v 0).toNat (dv v 1).toNat, {}))
    ∧ Computes (.absI64 u d a) (fun _ v => (trunc ((dv v 0).toInt.natAbs : Int) 64, {}))
    ∧ Computes (.negI64 u d a) (fun _ v => (trunc (-(dv v 0).toInt) 64, {}))
    ∧ Computes (.andI64 u d a b) (fun _ v => ((dv v 0).toNat &&& (dv v 1).toNat, {}))
    ∧ Computes (.orI64 u d a b) (fun _ v => ((dv v 0).toNat ||| (dv v 1).toNat, {}))
    ∧ Computes (.xorI64 u d a b) (fun _ v => ((dv v 0).toNat ^^^ (dv v 1).toNat, {}))
    ∧ Computes (.andnI64 u d a b) (fun _ v => word64 (dv v 0 &&& ~~~(dv v 1)))
    ∧ Computes (.shlI64 u d a b) (fun _ v => ((dv v 0).toNat * 2 ^ min (wv v 1).toNat 64 % 2 ^ 64, {}))
    ∧ Computes (.shrI64 u d a b) (fun _ v => ((dv v 0).toNat / 2 ^ min (wv v 1).toNat 64, {}))
    ∧ Computes (.sarI64 u d a b) (fun _ v => (trunc ((dv v 0).toInt / 2 ^ min (wv v 1).toNat 64) 64, {}))
    ∧ Computes (.mulI64 u d a b) (fun _ v => ((dv v 0).toNat * (dv v 1).toNat % 2 ^ 64, {})))

/-- INTX (R179), where source 2 is the old D. SET and SET64 (R180): 1 where the relation holds, 0 where it does not. -/
def Obligations.IntegerExtensionAndComparisonResults : Prop :=
  (
  ∀ (u : Bool) (d a b : BitVec 7),
    Computes (.fshl u d a b) (fun _ v => (((wv v 0).toNat * 2 ^ 32 + (wv v 2).toNat) * 2 ^ min (wv v 1).toNat 32 / 2 ^ 32 % 2 ^ 32, {}))
    ∧ Computes (.fshr u d a b) (fun _ v => (((wv v 0).toNat * 2 ^ 32 + (wv v 2).toNat) / 2 ^ min (wv v 1).toNat 32 % 2 ^ 32, {}))
    ∧ Computes (.popc u d a) (fun _ v => (((List.range 32).filter fun i => (wv v 0).getLsbD i).length, {}))
    ∧ Computes (.clz u d a) (fun _ v => (((List.range 32).takeWhile fun i => !(wv v 0).getLsbD (31 - i)).length, {}))
    ∧ Computes (.ctz u d a) (fun _ v => (((List.range 32).takeWhile fun i => !(wv v 0).getLsbD i).length, {}))
    ∧ Computes (.brev u d a) (fun _ v => word32 (wv v 0).reverse)
    ∧ Computes (.prmb u d a b) (fun _ v => word32 (permuteBytes (wv v 0) (wv v 1)))
    ∧ Computes (.mul u d a b) (fun _ v => ((wv v 0).toNat * (wv v 1).toNat % 2 ^ 32, {}))
    ∧ Computes (.mulhI32 u d a b) (fun _ v => (trunc ((wv v 0).toInt * (wv v 1).toInt / 2 ^ 32) 32, {}))
    ∧ Computes (.mulhN32 u d a b) (fun _ v => ((wv v 0).toNat * (wv v 1).toNat / 2 ^ 32, {}))
    ∧ Computes (.mad u d a b) (fun _ v => (((wv v 0).toNat * (wv v 1).toNat + (wv v 2).toNat) % 2 ^ 32, {}))
    ∧ Computes (.sel u d a b) (fun _ v => word32 (if wv v 2 = 0 then wv v 1 else wv v 0)))
  ∧ (
  ∀ (u : Bool) (d a b : BitVec 7),
    Computes (.seteq u d a b) (fun _ v => truth (wv v 0 = wv v 1))
    ∧ Computes (.setne u d a b) (fun _ v => truth (wv v 0 ≠ wv v 1))
    ∧ Computes (.setltI u d a b) (fun _ v => truth ((wv v 0).toInt < (wv v 1).toInt))
    ∧ Computes (.setleI u d a b) (fun _ v => truth ((wv v 0).toInt ≤ (wv v 1).toInt))
    ∧ Computes (.setgtI u d a b) (fun _ v => truth ((wv v 1).toInt < (wv v 0).toInt))
    ∧ Computes (.setgeI u d a b) (fun _ v => truth ((wv v 1).toInt ≤ (wv v 0).toInt))
    ∧ Computes (.setltN u d a b) (fun _ v => truth ((wv v 0).toNat < (wv v 1).toNat))
    ∧ Computes (.setleN u d a b) (fun _ v => truth ((wv v 0).toNat ≤ (wv v 1).toNat))
    ∧ Computes (.setgtN u d a b) (fun _ v => truth ((wv v 1).toNat < (wv v 0).toNat))
    ∧ Computes (.setgeN u d a b) (fun _ v => truth ((wv v 1).toNat ≤ (wv v 0).toNat))
    ∧ Computes (.seteq64 u d a b) (fun _ v => truth (dv v 0 = dv v 1))
    ∧ Computes (.setne64 u d a b) (fun _ v => truth (dv v 0 ≠ dv v 1))
    ∧ Computes (.setltI64 u d a b) (fun _ v => truth ((dv v 0).toInt < (dv v 1).toInt))
    ∧ Computes (.setleI64 u d a b) (fun _ v => truth ((dv v 0).toInt ≤ (dv v 1).toInt))
    ∧ Computes (.setgtI64 u d a b) (fun _ v => truth ((dv v 1).toInt < (dv v 0).toInt))
    ∧ Computes (.setgeI64 u d a b) (fun _ v => truth ((dv v 1).toInt ≤ (dv v 0).toInt))
    ∧ Computes (.setltN64 u d a b) (fun _ v => truth ((dv v 0).toNat < (dv v 1).toNat))
    ∧ Computes (.setleN64 u d a b) (fun _ v => truth ((dv v 0).toNat ≤ (dv v 1).toNat))
    ∧ Computes (.setgtN64 u d a b) (fun _ v => truth ((dv v 1).toNat < (dv v 0).toNat))
    ∧ Computes (.setgeN64 u d a b) (fun _ v => truth ((dv v 1).toNat ≤ (dv v 0).toNat)))

/-- The immediate and address forms (R181 to R185). MOVA writes address register k after A is resolved. -/
def Obligations.ImmediateAndAddressResults : Prop :=
  (∀ (u : Bool) (d a : BitVec 7) (i : BitVec 11),
    Computes (.addi u d a i) (fun _ v => (trunc ((wv v 0).toInt + i.toInt) 32, {}))
    ∧ Computes (.andi u d a i) (fun _ v => ((wv v 0).toNat &&& i.toNat, {}))
    ∧ Computes (.ori u d a i) (fun _ v => ((wv v 0).toNat ||| i.toNat, {}))
    ∧ Computes (.xori u d a i) (fun _ v => ((wv v 0).toNat ^^^ i.toNat, {}))
    ∧ Computes (.leai u d a i) (fun _ v => ((dv v 0).toNat / 2 ^ 56 * 2 ^ 56 + trunc (((dv v 0).toNat % 2 ^ 56 : Nat) + i.toInt) 56, {})))
  ∧ (∀ (u : Bool) (d a : BitVec 7) (n : BitVec 5),
    Computes (.shli u d a n) (fun _ v => ((wv v 0).toNat * 2 ^ n.toNat % 2 ^ 32, {}))
    ∧ Computes (.shri u d a n) (fun _ v => ((wv v 0).toNat / 2 ^ n.toNat, {}))
    ∧ Computes (.sari u d a n) (fun _ v => (trunc ((wv v 0).toInt / 2 ^ n.toNat) 32, {})))
  ∧ (∀ (u : Bool) (d a : BitVec 7) (sg : BitVec 1) (w p : BitVec 5),
    Computes (.bfx u d a sg w p) (fun _ v =>
      let f := ((if sg = 1 then (wv v 0).toInt else (wv v 0).toNat) / 2 ^ p.toNat % 2 ^ (w.toNat + 1)).toNat
      (trunc (if sg = 1 then signExtend f (w.toNat + 1) else f) 32, {}))
    ∧ Computes (.bfi u d a w p) (fun _ v =>
      let e := min 32 (p.toNat + w.toNat + 1)
      ((wv v 1).toNat / 2 ^ e * 2 ^ e + (wv v 0).toNat % 2 ^ (e - p.toNat) * 2 ^ p.toNat + (wv v 1).toNat % 2 ^ p.toNat, {})))
  ∧ (∀ (u : Bool) (d : BitVec 7) (i : BitVec 18),
    Computes (.limm u d i) (fun _ _ => (trunc i.toInt 32, {}))
    ∧ Computes (.lhi u d i) (fun _ v => (i.toNat * 2 ^ 14 + (wv v 0).toNat % 2 ^ 14, {})))
  ∧ (∀ (u : Bool) (sh : BitVec 4) (d a b : BitVec 7),
    Computes (.lea u sh d a b) (fun _ v =>
      ((dv v 0).toNat / 2 ^ 56 * 2 ^ 56 + trunc (((dv v 0).toNat % 2 ^ 56 : Nat) + (wv v 1).toInt * 2 ^ sh.toNat) 56, {})))
  ∧ (∀ (k : BitVec 3) (a : BitVec 7) (i : BitVec 11) (s : State) (t : Nat) (x' : Thread) (vs : List (Pos × OpVal)) (d : Dest),
    Solo (.mova k a i) s t x' vs d → Clean vs →
    let s0 := s.took (.mova k a i) t x'
    let w : Word := BitVec.ofInt 32 (nv (valsOf vs) 0 + i.toInt)
    exec (.mova k a i) s = .next (((s0.setThread t ((s0.thread t).setAreg k.toNat ⟨w, false⟩)).noteRecent t (4096 + k.toNat) 1).advance t))

/-- FP32 and FP64 (R186, R187): each writes one rounding of its exact value in the mode of MODE.RM or of its modifier, and raises the flags; what `Fmt.add` and its fellows are, the statements on rounding and on special values say. -/
def Obligations.FloatingResults : Prop :=
  ∀ (u : Bool) (r : BitVec 2) (d a b : BitVec 7),
    Computes (.fadd u d a b) (fun m v => f32.add (rmOf m.toNat) (nv v 0) (nv v 1))
    ∧ Computes (.fsub u d a b) (fun m v => f32.sub (rmOf m.toNat) (nv v 0) (nv v 1))
    ∧ Computes (.fmul u d a b) (fun m v => f32.mul (rmOf m.toNat) (nv v 0) (nv v 1))
    ∧ Computes (.fma u d a b) (fun m v => f32.fma (rmOf m.toNat) (nv v 0) (nv v 1) (nv v 2))
    ∧ Computes (.faddRm u r d a b) (fun _ v => f32.add (rmOf r.toNat) (nv v 0) (nv v 1))
    ∧ Computes (.fsubRm u r d a b) (fun _ v => f32.sub (rmOf r.toNat) (nv v 0) (nv v 1))
    ∧ Computes (.fmulRm u r d a b) (fun _ v => f32.mul (rmOf r.toNat) (nv v 0) (nv v 1))
    ∧ Computes (.fmaRm u r d a b) (fun _ v => f32.fma (rmOf r.toNat) (nv v 0) (nv v 1) (nv v 2))
    ∧ Computes (.fmin u d a b) (fun _ v => f32.minMax false (nv v 0) (nv v 1))
    ∧ Computes (.fmax u d a b) (fun _ v => f32.minMax true (nv v 0) (nv v 1))
    ∧ Computes (.dadd u d a b) (fun m v => f64.add (rmOf m.toNat) (nv v 0) (nv v 1))
    ∧ Computes (.dsub u d a b) (fun m v => f64.sub (rmOf m.toNat) (nv v 0) (nv v 1))
    ∧ Computes (.dmul u d a b) (fun m v => f64.mul (rmOf m.toNat) (nv v 0) (nv v 1))
    ∧ Computes (.dfma u d a b) (fun m v => f64.fma (rmOf m.toNat) (nv v 0) (nv v 1) (nv v 2))
    ∧ Computes (.daddRm u r d a b) (fun _ v => f64.add (rmOf r.toNat) (nv v 0) (nv v 1))
    ∧ Computes (.dsubRm u r d a b) (fun _ v => f64.sub (rmOf r.toNat) (nv v 0) (nv v 1))
    ∧ Computes (.dmulRm u r d a b) (fun _ v => f64.mul (rmOf r.toNat) (nv v 0) (nv v 1))
    ∧ Computes (.dfmaRm u r d a b) (fun _ v => f64.fma (rmOf r.toNat) (nv v 0) (nv v 1) (nv v 2))
    ∧ Computes (.dmin u d a b) (fun _ v => f64.minMax false (nv v 0) (nv v 1))
    ∧ Computes (.dmax u d a b) (fun _ v => f64.minMax true (nv v 0) (nv v 1))

/-- FSET and DSET (R188): 1 where the relation holds of the values, where −0 equals +0, and 0 where it does not; with a NaN operand NE and UN alone hold, and NV is set by the four orderings, by the other relations for a signalling NaN only. The packed 16-bit forms (R189) act element by element, with the flags of both. -/
def Obligations.FloatingComparisonAndPackedResults : Prop :=
  ∀ (u : Bool) (d a b : BitVec 7),
    let compare (sign inf quiet : Nat) (holds : Int → Int → Bool) (ofNaN signals : Bool) (x y : Nat) : Nat × Flags :=
      let nan (z : Nat) : Bool := inf < z % sign
      let snan (z : Nat) : Bool := nan z && z / quiet % 2 = 0
      let value (z : Nat) : Int := if z / sign % 2 = 1 then -((z % sign : Nat) : Int) else (z % sign : Nat)
      if nan x || nan y then (ofNaN.toNat, { nv := signals || snan x || snan y }) else ((holds (value x) (value y)).toNat, {})
    let f := compare (2 ^ 31) 0x7f800000 (2 ^ 22)
    let g := compare (2 ^ 63) 0x7ff0000000000000 (2 ^ 51)
    Computes (.fseteq u d a b) (fun _ v => f (fun x y => decide (x = y)) false false (nv v 0) (nv v 1))
    ∧ Computes (.fsetne u d a b) (fun _ v => f (fun x y => decide (x ≠ y)) true false (nv v 0) (nv v 1))
    ∧ Computes (.fsetlt u d a b) (fun _ v => f (fun x y => decide (x < y)) false true (nv v 0) (nv v 1))
    ∧ Computes (.fsetle u d a b) (fun _ v => f (fun x y => decide (x ≤ y)) false true (nv v 0) (nv v 1))
    ∧ Computes (.fsetgt u d a b) (fun _ v => f (fun x y => decide (y < x)) false true (nv v 0) (nv v 1))
    ∧ Computes (.fsetge u d a b) (fun _ v => f (fun x y => decide (y ≤ x)) false true (nv v 0) (nv v 1))
    ∧ Computes (.fsetun u d a b) (fun _ v => f (fun _ _ => false) true false (nv v 0) (nv v 1))
    ∧ Computes (.fsetor u d a b) (fun _ v => f (fun _ _ => true) false false (nv v 0) (nv v 1))
    ∧ Computes (.dseteq u d a b) (fun _ v => g (fun x y => decide (x = y)) false false (nv v 0) (nv v 1))
    ∧ Computes (.dsetne u d a b) (fun _ v => g (fun x y => decide (x ≠ y)) true false (nv v 0) (nv v 1))
    ∧ Computes (.dsetlt u d a b) (fun _ v => g (fun x y => decide (x < y)) false true (nv v 0) (nv v 1))
    ∧ Computes (.dsetle u d a b) (fun _ v => g (fun x y => decide (x ≤ y)) false true (nv v 0) (nv v 1))
    ∧ Computes (.dsetgt u d a b) (fun _ v => g (fun x y => decide (y < x)) false true (nv v 0) (nv v 1))
    ∧ Computes (.dsetge u d a b) (fun _ v => g (fun x y => decide (y ≤ x)) false true (nv v 0) (nv v 1))
    ∧ Computes (.dsetun u d a b) (fun _ v => g (fun _ _ => false) true false (nv v 0) (nv v 1))
    ∧ Computes (.dsetor u d a b) (fun _ v => g (fun _ _ => true) false false (nv v 0) (nv v 1))
    ∧ Computes (.hadd2F16 u d a b) (fun m v =>
        let e (k : Nat) := f16.add (rmOf m.toNat) (nv v 0 / 2 ^ k % 2 ^ 16) (nv v 1 / 2 ^ k % 2 ^ 16)
        ((e 0).1 + (e 16).1 * 2 ^ 16, (e 0).2.or (e 16).2))
    ∧ Computes (.hmul2F16 u d a b) (fun m v =>
        let e (k : Nat) := f16.mul (rmOf m.toNat) (nv v 0 / 2 ^ k % 2 ^ 16) (nv v 1 / 2 ^ k % 2 ^ 16)
        ((e 0).1 + (e 16).1 * 2 ^ 16, (e 0).2.or (e 16).2))
    ∧ Computes (.hfma2F16 u d a b) (fun m v =>
        let e (k : Nat) := f16.fma (rmOf m.toNat) (nv v 0 / 2 ^ k % 2 ^ 16) (nv v 1 / 2 ^ k % 2 ^ 16) (nv v 2 / 2 ^ k % 2 ^ 16)
        ((e 0).1 + (e 16).1 * 2 ^ 16, (e 0).2.or (e 16).2))
    ∧ Computes (.hadd2Bf16 u d a b) (fun m v =>
        let e (k : Nat) := bf16.add (rmOf m.toNat) (nv v 0 / 2 ^ k % 2 ^ 16) (nv v 1 / 2 ^ k % 2 ^ 16)
        ((e 0).1 + (e 16).1 * 2 ^ 16, (e 0).2.or (e 16).2))
    ∧ Computes (.hmul2Bf16 u d a b) (fun m v =>
        let e (k : Nat) := bf16.mul (rmOf m.toNat) (nv v 0 / 2 ^ k % 2 ^ 16) (nv v 1 / 2 ^ k % 2 ^ 16)
        ((e 0).1 + (e 16).1 * 2 ^ 16, (e 0).2.or (e 16).2))
    ∧ Computes (.hfma2Bf16 u d a b) (fun m v =>
        let e (k : Nat) := bf16.fma (rmOf m.toNat) (nv v 0 / 2 ^ k % 2 ^ 16) (nv v 1 / 2 ^ k % 2 ^ 16) (nv v 2 / 2 ^ k % 2 ^ 16)
        ((e 0).1 + (e 16).1 * 2 ^ 16, (e 0).2.or (e 16).2))

/-- TRANS (R190, R191): the functions of R96 with their special results (which value within its bound a finite operand has is a free value of the configuration, log 10), the square root rounded once, and the divisions; dividing by zero sets DZ and traps nothing. -/
def Obligations.TranscendentalAndDivisionResults : Prop :=
  (∀ (u : Bool) (d a b : BitVec 7),
    let by' (f : Fmt) (inf zero : Bool → Nat × Flags) (other : Bool → Nat × Flags) (v : List Nat) : Nat × Flags :=
      match f.decode (nv v 0) with
      | .nan sg => (f.quiet (nv v 0), { nv := sg })
      | .inf n => inf n
      | .fin n m _ => if m = 0 then zero n else other n
    let signed (f : Fmt) (n : Bool) (x : Nat) : Nat := (if n then f.signBit else 0) + x
    let rcp (f : Fmt) (k : Nat) (v : List Nat) := by' f (fun n => (signed f n 0, {})) (fun n => (signed f n f.infBits, { dz := true })) (fun _ => f.rcp k (nv v 0)) v
    let positive (f : Fmt) (inf : Nat) (zero : Bool → Nat × Flags) (y : Nat × Flags) :=
      by' f (fun n => if n then (f.defaultNaN, { nv := true }) else (inf, {})) zero (fun n => if n then (f.defaultNaN, { nv := true }) else y)
    let rsq (f : Fmt) (k : Nat) (v : List Nat) := positive f 0 (fun n => (signed f n f.infBits, { dz := true })) (f.rsq k (nv v 0)) v
    let sqrt (f : Fmt) (m : Word) (v : List Nat) := positive f (nv v 0) (fun _ => (nv v 0, {})) (f.sqrt (rmOf m.toNat) (nv v 0)) v
    let trig (cos : Bool) (v : List Nat) :=
      by' f32 (fun _ => (f32.defaultNaN, { nv := true })) (fun _ => (if cos then 0x3f800000 else nv v 0, {})) (fun _ => trigF32 cos (nv v 0)) v
    Computes (.rcpF32 u d a) (fun _ v => rcp f32 0 v)
    ∧ Computes (.rsqF32 u d a) (fun _ v => rsq f32 1 v)
    ∧ Computes (.sqrtF32 u d a) (fun m v => sqrt f32 m v)
    ∧ Computes (.exp2 u d a) (fun _ v => by' f32 (fun n => (if n then 0 else f32.infBits, {})) (fun _ => (0x3f800000, {})) (fun _ => exp2F32 (nv v 0)) v)
    ∧ Computes (.log2 u d a) (fun _ v => positive f32 f32.infBits (fun _ => (f32.signBit + f32.infBits, { dz := true })) (log2F32 (nv v 0)) v)
    ∧ Computes (.sin u d a) (fun _ v => trig false v)
    ∧ Computes (.cos u d a) (fun _ v => trig true v)
    ∧ Computes (.rcpF64 u d a) (fun _ v => rcp f64 7 v)
    ∧ Computes (.rsqF64 u d a) (fun _ v => rsq f64 8 v)
    ∧ Computes (.sqrtF64 u d a) (fun m v => sqrt f64 m v)
    ∧ Computes (.idivI32 u d a b) (fun _ v =>
        if wv v 1 = 0 then (0xffffffff, { dz := true })
        else (trunc (Int.tdiv (wv v 0).toInt (wv v 1).toInt) 32, {}))
    ∧ Computes (.iremI32 u d a b) (fun _ v =>
        if wv v 1 = 0 then ((wv v 0).toNat, { dz := true })
        else (trunc ((wv v 0).toInt - Int.tdiv (wv v 0).toInt (wv v 1).toInt * (wv v 1).toInt) 32, {}))
    ∧ Computes (.idivN32 u d a b) (fun _ v =>
        if wv v 1 = 0 then (0xffffffff, { dz := true }) else ((wv v 0).toNat / (wv v 1).toNat, {}))
    ∧ Computes (.iremN32 u d a b) (fun _ v =>
        if wv v 1 = 0 then ((wv v 0).toNat, { dz := true }) else ((wv v 0).toNat % (wv v 1).toNat, {})))
  ∧ (∀ f ∈ [f32, f64], ∀ (rm : Rm) (x m r : Nat) (e : Int), f.decode x = .fin false m e → 0 < m →
      let big := (if e % 2 = 0 then m else 2 * m) * 2 ^ 140 -- x = big × 2^(2h − 140) with h the half of the even exponent
      r * r ≤ big → big < (r + 1) * (r + 1) →
      f.sqrt rm x = f.round rm false (2 * r + if r * r = big then 0 else 1) (e / 2 - 71))

/-- CVT and CVTD by the table of R193, type codes 0 to 3 the signed and 4 to 7 the unsigned integers, 8 to 11 the formats (R160, R192): an integer that does not fit becomes the nearer bound, with NV where the source is a float; a NaN becomes 0, or the quiet NaN of its sign with the high payload bits; everything else is one rounding. PACK (R195): PKBX forms the block of R78 and UPBX gives its values (R77); PKMX packs by R75 (which NaN code a NaN takes is free, log 10; the scale code of a block without a finite value is log 55) and UPMX rounds the values of R74. RNGK (R196) gives the values of two counters. -/
def Obligations.ConversionAndPackingResults : Prop :=
  (∀ (u : Bool) (d a : BitVec 7) (t sc : BitVec 4) (r : BitVec 3), ∀ i ∈ [Instr.cvt u d a t sc r, .cvtd u d a t sc r],
    let rm (m : Word) : Rm := if r.toNat < 4 then rmOf m.toNat else rmOf r.toNat
    let width (c : BitVec 4) : Nat := 8 * 2 ^ (c.toNat % 4)
    let fmt (c : BitVec 4) : Fmt := if c = 8 then f16 else if c = 9 then bf16 else if c = 10 then f32 else f64
    let lo : Int := if t.toNat < 4 then -(2 ^ (width t - 1)) else 0
    let hi : Int := if t.toNat < 4 then 2 ^ (width t - 1) - 1 else 2 ^ width t - 1
    let put (y : Int) : Nat := trunc y (if width t = 64 then 64 else 32)
    let int (v : List Nat) : Int := if sc.toNat < 4 then signExtend (nv v 0) (width sc) else (nv v 0 % 2 ^ width sc : Nat)
    let pat (v : List Nat) : Nat := nv v 0 % (2 * (fmt sc).signBit)
    (t.toNat < 8 → sc.toNat < 8 → Computes i (fun _ v => (put (max lo (min hi (int v))), {})))
    ∧ (8 ≤ t.toNat → t.toNat < 12 → sc.toNat < 8 → Computes i (fun m v =>
        if int v = 0 then (0, {}) else (fmt t).round (rm m) (decide (int v < 0)) (int v).natAbs 0))
    ∧ (t.toNat < 8 → 8 ≤ sc.toNat → sc.toNat < 12 → Computes i (fun m v =>
        match (fmt sc).decode (nv v 0) with
        | .nan _ => (0, { nv := true })
        | .inf n => (put (if n then lo else hi), { nv := true })
        | .fin n man e =>
          let k := roundAt (rm m) n man e 0
          let y : Int := if n then -(k.1 : Int) else k.1
          if y < lo then (put lo, { nv := true }) else if hi < y then (put hi, { nv := true }) else (put y, { nx := k.2 })))
    ∧ (8 ≤ t.toNat → t.toNat < 12 → t = sc → Computes i (fun _ v =>
        if (fmt sc).isNaN (pat v) then ((fmt sc).quiet (pat v), { nv := (fmt sc).isSNaN (pat v) }) else (pat v, {})))
    ∧ (8 ≤ t.toNat → t.toNat < 12 → 8 ≤ sc.toNat → sc.toNat < 12 → t ≠ sc → Computes i (fun m v =>
        let f := fmt sc
        let g := fmt t
        let payload := f.quiet (pat v) % 2 ^ f.m
        match f.decode (nv v 0) with
        | .nan _ => ((if f.neg (pat v) then g.signBit else 0) + g.infBits + (if f.m ≤ g.m then payload * 2 ^ (g.m - f.m) else payload / 2 ^ (f.m - g.m)),
            { nv := f.isSNaN (pat v) })
        | .inf n => ((if n then g.signBit else 0) + g.infBits, {})
        | .fin n man e => g.round (rm m) n man e)))
  ∧ (∀ (u : Bool) (d a : BitVec 7),
    let x (v : List Nat) (i : Nat) : FVal := f32.decode (nv v 0 / 2 ^ (32 * i) % 2 ^ 32)
    let pack (k : Nat) (v : List Nat) : Nat × Flags :=
      let xs := (List.range 16).map (x v)
      if xs.any (fun y => !y.isFinite) then (255, { nv := true })
      else
        let e : Nat := (clampTo 0 254 ((maxLog2 xs).getD (-127) + 127)).toNat
        let mu (j : Nat) : Nat := match maxLog2 [x v (2 * j), x v (2 * j + 1)] with
          | none => 1
          | some l => if l < (e : Int) - 127 then 1 else 0
        let code (i : Nat) : Nat × Bool := match x v i with
          | .fin n m ex =>
            let q := roundAt .rne n m ex ((e : Int) - 127 - mu (i / 2) - (k - 1 : Nat))
            (min q.1 (2 ^ k - 1) + n.toNat * 2 ^ k, q.2 || decide (2 ^ k - 1 < q.1))
          | .nan _ | .inf _ => (0, false)
        (e + ((List.range 8).map fun j => mu j * 2 ^ (8 + j)).sum + ((List.range 16).map fun i => (code i).1 * 2 ^ (16 + (k + 1) * i)).sum,
          { nx := (List.range 16).any fun i => (code i).2 })
    let unpack (k : Nat) (v : List Nat) : Nat × Flags :=
      let b := nv v 0
      let value (i : Nat) : Nat :=
        let c := b / 2 ^ (16 + (k + 1) * i) % 2 ^ (k + 1)
        if b % 256 = 255 then 0x7fc00000
        else (f32.round .rne (decide (c / 2 ^ k = 1)) (c % 2 ^ k) (((b % 256 : Nat) : Int) - 127 - (b / 2 ^ (8 + i / 2) % 2 : Nat) - (k - 1 : Nat))).1
      (((List.range 16).map fun i => value i * 2 ^ (32 * i)).sum, {})
    Computes (.pkbxBx2 u d a) (fun _ v => pack 2 v) ∧ Computes (.pkbxBx4 u d a) (fun _ v => pack 4 v) ∧ Computes (.pkbxBx7 u d a) (fun _ v => pack 7 v)
    ∧ Computes (.upbxBx2 u d a) (fun _ v => unpack 2 v) ∧ Computes (.upbxBx4 u d a) (fun _ v => unpack 4 v) ∧ Computes (.upbxBx7 u d a) (fun _ v => unpack 7 v))
  ∧ (∀ (u : Bool) (d a : BitVec 7),
    let pat (v : List Nat) (i : Nat) : Nat := nv v 0 / 2 ^ (32 * i) % 2 ^ 32
    let pack (f : MxFmt) (v : List Nat) : Nat × Flags :=
      let xs := (List.range 32).map fun i => f32.decode (pat v i)
      if f = .int8 && xs.any (fun y => !y.isFinite) then (255 * 2 ^ 256, { nv := true })
      else
        let scale : Int := match maxLog2 xs with
          | none => -127
          | some l => clampTo (-127) 127 (l - f.emax)
        let code (i : Nat) : Nat × Flags := match f32.decode (pat v i) with
          | .nan _ => (f.nanCode (pat v i), { nv := true })
          | .inf n => if f = .e5m2 then (n.toNat * 128 + 0x7c, {}) else (f.nanCode (pat v i), { nv := true })
          | .fin n m e => ((mxElem f scale n m e).1, { nx := (mxElem f scale n m e).2 })
        (((List.range 32).map fun i => (code i).1 * 256 ^ i).sum + (scale + 127).toNat * 2 ^ 256,
          { nv := (List.range 32).any fun i => (code i).2.nv, nx := (List.range 32).any fun i => (code i).2.nx })
    let unpack (f : MxFmt) (v : List Nat) : Nat × Flags :=
      let one (j : Nat) : Nat × Flags := f32.ofFVal .rne (mxValue f (nv v 0 / 256 ^ j % 256) (nv v 0 / 2 ^ 256 % 256))
      (((List.range 32).map fun j => (one j).1 * 2 ^ (32 * j)).sum, (List.range 32).foldl (fun g j => g.or (one j).2) {})
    Computes (.pkmxMxi8 u d a) (fun _ v => pack .int8 v) ∧ Computes (.pkmxMxf8e4 u d a) (fun _ v => pack .e4m3 v)
    ∧ Computes (.pkmxMxf8e5 u d a) (fun _ v => pack .e5m2 v)
    ∧ Computes (.upmxMxi8 u d a) (fun _ v => unpack .int8 v) ∧ Computes (.upmxMxf8e4 u d a) (fun _ v => unpack .e4m3 v)
    ∧ Computes (.upmxMxf8e5 u d a) (fun _ v => unpack .e5m2 v))
  ∧ (∀ (u : Bool) (d a b : BitVec 7),
    Computes (.rngk u d a b) (fun _ v => ((rngK (dv v 0) (dv v 1)).toNat + 2 ^ 32 * (rngK (dv v 0 + 1) (dv v 1)).toNat, {})))

/-- The rounding of R73: `man × 2^exp` to a multiple of `2^q`, exact where it is one; else, with `k` the multiple taken of `unit`, truncation toward zero, the nearest with ties to even, or the next in the mode's direction. A magnitude at or above 2^(emax + 1) takes the mode's overflow result with OF and NX, and every other result decodes to exactly that multiple. Sums, products and the fused product (R186) round the exact value once; the exact zero of R73 is a − a. -/
def Obligations.RoundingModes : Prop :=
  (∀ (rm : Rm) (neg : Bool) (man : Nat) (exp q : Int), q ≤ exp → roundAt rm neg man exp q = (man * 2 ^ (exp - q).toNat, false))
  ∧ (∀ (rm : Rm) (neg : Bool) (man : Nat) (exp q : Int), exp < q →
      let unit := 2 ^ (q - exp).toNat
      let k := (roundAt rm neg man exp q).1
      ((roundAt rm neg man exp q).2 = true ↔ k * unit ≠ man)
      ∧ (rm = .rne → 2 * (k * unit) ≤ 2 * man + unit ∧ 2 * man ≤ 2 * (k * unit) + unit
          ∧ (2 * (k * unit) = 2 * man + unit ∨ 2 * man = 2 * (k * unit) + unit → k % 2 = 0))
      ∧ (rm = .rtz ∨ (rm = .rup ∧ neg = true) ∨ (rm = .rdn ∧ neg = false) → k * unit ≤ man ∧ man < k * unit + unit)
      ∧ ((rm = .rup ∧ neg = false) ∨ (rm = .rdn ∧ neg = true) → man ≤ k * unit ∧ k * unit < man + unit))
  ∧ (∀ f ∈ [f16, bf16, f32, f64], ∀ (rm : Rm) (neg : Bool) (man : Nat) (exp : Int), 0 < man →
      2 ^ (f.e - 1) ≤ exp + Nat.log2 man →
      f.round rm neg man exp =
        ((if neg then f.signBit else 0) +
          (if rm = .rne ∨ (rm = .rup ∧ neg = false) ∨ (rm = .rdn ∧ neg = true) then f.infBits else f.infBits - 1),
          { ovf := true, nx := true }))
  ∧ (∀ f ∈ [f16, bf16, f32, f64], ∀ (rm : Rm) (a : Nat), a < 2 * f.signBit → f.mag a < f.infBits →
      f.sub rm a a = (if rm = .rdn then f.signBit else 0, {}))
  ∧ (∀ f ∈ [f16, bf16, f32, f64], ∀ (rm : Rm) (neg : Bool) (man : Nat) (exp : Int), 0 < man → (f.round rm neg man exp).2.ovf = false →
      let q := max (exp + Nat.log2 man - f.m) f.eulp
      let k := roundAt rm neg man exp q
      (f.round rm neg man exp).2.nx = k.2
      ∧ ∃ m' e', f.decode (f.round rm neg man exp).1 = .fin neg m' e' ∧ f.eulp ≤ e' ∧ m' * 2 ^ (e' - f.eulp).toNat = k.1 * 2 ^ (q - f.eulp).toNat)
  ∧ (∀ f ∈ [f16, bf16, f32, f64], ∀ (rm : Rm) (a b c : Nat) (n1 n2 n3 : Bool) (m1 m2 m3 : Nat) (e1 e2 e3 : Int),
      a < 2 * f.signBit → b < 2 * f.signBit → c < 2 * f.signBit →
      f.decode a = .fin n1 m1 e1 → f.decode b = .fin n2 m2 e2 → f.decode c = .fin n3 m3 e3 →
      let at' (n : Bool) (m : Nat) (e low : Int) : Int := (if n then -1 else 1) * (m * 2 ^ (e - low).toNat)
      let rounded (v e : Int) : Nat × Flags := f.round rm (decide (v < 0)) v.natAbs e
      let low := min e1 e2
      let low3 := min (e1 + e2) e3
      let sum := at' n1 m1 e1 low + at' n2 m2 e2 low
      let dif := at' n1 m1 e1 low - at' n2 m2 e2 low
      let acc := at' (n1 != n2) (m1 * m2) (e1 + e2) low3 + at' n3 m3 e3 low3
      f.mul rm a b = f.round rm (n1 != n2) (m1 * m2) (e1 + e2)
      ∧ (sum ≠ 0 → f.add rm a b = rounded sum low) ∧ (dif ≠ 0 → f.sub rm a b = rounded dif low) ∧ (acc ≠ 0 → f.fma rm a b c = rounded acc low3))

/-- NaNs (R72): the first NaN operand in the order A, B, third comes back with its quiet bit set and its other bits kept, and a signalling one sets NV; 0 × ∞ and ∞ − ∞ give the default NaN with NV. FMIN and FMAX return the other operand where one is a NaN (R187). Special operands of the approximated functions (R96): zeros, infinities, and negative operands. -/
def Obligations.NanAndApproximationResults : Prop :=
  (
  ∀ f ∈ [f16, bf16, f32, f64], ∀ (rm : Rm) (a b c : Nat),
    (f.quiet a = a ∨ f.quiet a = a + f.quietBit)
    ∧ (f.isNaN a = true →
        f.add rm a b = (f.quiet a, { nv := f.isSNaN a || f.isSNaN b }) ∧ f.sub rm a b = (f.quiet a, { nv := f.isSNaN a || f.isSNaN b })
        ∧ f.mul rm a b = (f.quiet a, { nv := f.isSNaN a || f.isSNaN b }) ∧ (f.fma rm a b c).1 = f.quiet a)
    ∧ (f.isNaN a = false → f.isNaN b = true →
        f.add rm a b = (f.quiet b, { nv := f.isSNaN b }) ∧ f.sub rm a b = (f.quiet b, { nv := f.isSNaN b })
        ∧ f.mul rm a b = (f.quiet b, { nv := f.isSNaN b }) ∧ (f.fma rm a b c).1 = f.quiet b)
    ∧ (f.isNaN a = false → f.isNaN b = false → f.isNaN c = true → (f.fma rm a b c).1 = f.quiet c)
    ∧ (∀ m : Bool, (f.isNaN a = true → f.isNaN b = false → (f.minMax m a b).1 = b) ∧ (f.isNaN a = false → f.isNaN b = true → (f.minMax m a b).1 = a)
        ∧ (f.minMax m a b).2 = { nv := f.isSNaN a || f.isSNaN b })
    ∧ f.add rm f.infBits (f.signBit + f.infBits) = (f.defaultNaN, { nv := true })
    ∧ f.mul rm 0 f.infBits = (f.defaultNaN, { nv := true }))
  ∧ (
  (∀ f ∈ [f32, f64], ∀ (rm : Rm) (n : Nat),
    f.rcp n 0 = (f.infBits, { dz := true }) ∧ f.rcp n f.signBit = (f.signBit + f.infBits, { dz := true })
    ∧ f.rcp n f.infBits = (0, {}) ∧ f.rcp n (f.signBit + f.infBits) = (f.signBit, {})
    ∧ f.rsq n 0 = (f.infBits, { dz := true }) ∧ f.rsq n f.signBit = (f.signBit + f.infBits, { dz := true }) ∧ f.rsq n f.infBits = (0, {})
    ∧ f.sqrt rm 0 = (0, {}) ∧ f.sqrt rm f.signBit = (f.signBit, {}) ∧ f.sqrt rm f.infBits = (f.infBits, {})
    ∧ (∀ x, f.neg x = true → 0 < f.mag x → f.mag x ≤ f.infBits → x < 2 * f.signBit →
        f.rsq n x = (f.defaultNaN, { nv := true }) ∧ f.sqrt rm x = (f.defaultNaN, { nv := true })))
  ∧ exp2F32 0xff800000 = (0, {}) ∧ exp2F32 0x7f800000 = (0x7f800000, {})
  ∧ log2F32 0 = (0xff800000, { dz := true }) ∧ log2F32 0x80000000 = (0xff800000, { dz := true }) ∧ log2F32 0x7f800000 = (0x7f800000, {})
  ∧ log2F32 0x3f800000 = (0, {})
  ∧ (∀ x, f32.neg x = true → 0 < f32.mag x → f32.mag x ≤ f32.infBits → x < 2 ^ 32 → log2F32 x = (f32.defaultNaN, { nv := true }))
  ∧ trigF32 false 0 = (0, {}) ∧ trigF32 false 0x80000000 = (0x80000000, {}) ∧ trigF32 true 0 = (0x3f800000, {}) ∧ trigF32 true 0x80000000 = (0x3f800000, {})
  ∧ (∀ c : Bool, trigF32 c 0x7f800000 = (f32.defaultNaN, { nv := true }) ∧ trigF32 c 0xff800000 = (f32.defaultNaN, { nv := true }))
  ∧ (∀ (rm : Rm) (n x : Nat), f32.isNaN x = true → x < 2 ^ 32 →
      f32.rcp n x = (f32.quiet x, { nv := f32.isSNaN x }) ∧ f32.rsq n x = (f32.quiet x, { nv := f32.isSNaN x })
      ∧ f32.sqrt rm x = (f32.quiet x, { nv := f32.isSNaN x }) ∧ exp2F32 x = (f32.quiet x, { nv := f32.isSNaN x })
      ∧ log2F32 x = (f32.quiet x, { nv := f32.isSNaN x }) ∧ trigF32 false x = (f32.quiet x, { nv := f32.isSNaN x })
      ∧ trigF32 true x = (f32.quiet x, { nv := f32.isSNaN x })))

/-- XT (R197 to R200, R38, R65): what each member of a complete group receives where no member traps, none has a poisoned B and none differs; a SHFL whose source is no member leaves D as it is. That the group forms in the step in which its last thread arrives, and that with U = 1 its lowest member that does not trap stands for all, is the model's reading (log 16). -/
def Obligations.CrossThreadResults : Prop :=
  ∀ (u : Bool) (d a b : BitVec 7),
    Joins (.shflIdx u d a b) u (fun ms m => (ms.find? fun (x : Party) => decide ((x.lane : Int) = m.b.toNat)).map fun (x : Party) => (x.val 2, {}))
    ∧ Joins (.shflUp u d a b) u (fun ms m => (ms.find? fun (x : Party) => decide ((x.lane : Int) = m.lane - m.b.toNat)).map fun (x : Party) => (x.val 2, {}))
    ∧ Joins (.shflDown u d a b) u (fun ms m => (ms.find? fun (x : Party) => decide ((x.lane : Int) = m.lane + m.b.toNat)).map fun (x : Party) => (x.val 2, {}))
    ∧ Joins (.shflXor u d a b) u (fun ms m => (ms.find? fun (x : Party) => decide ((x.lane : Int) = (m.lane ^^^ m.b.toNat : Nat))).map fun (x : Party) => (x.val 2, {}))
    ∧ Joins (.voteAll u d a b) u (fun ms _ => some (⟨if ms.all (fun (m : Party) => decide (m.b ≠ 0)) then 1 else 0, false⟩, {}))
    ∧ Joins (.voteAny u d a b) u (fun ms _ => some (⟨if ms.any (fun (m : Party) => decide (m.b ≠ 0)) then 1 else 0, false⟩, {}))
    ∧ Joins (.voteEq u d a b) u (fun ms _ => some (⟨if ms.all (fun (m : Party) => ms.all fun (n : Party) => decide (m.b = n.b)) then 1 else 0, false⟩, {}))
    ∧ Joins (.ballot u d a b) u (fun ms _ => some (⟨(ms.map fun (m : Party) => if m.b = 0 then 0 else 2 ^ m.lane).sum, false⟩, {}))
    ∧ Joins (.wredAddI32 u d a b) u (fun ms _ => some (⟨(ms.map fun (m : Party) => m.b.toNat).sum % 2 ^ 32, false⟩, {}))
    ∧ Joins (.wredMinI32 u d a b) u (fun ms _ => some (⟨trunc ((ms.map fun (m : Party) => m.b.toInt).foldl min (2 ^ 31 - 1)) 32, false⟩, {}))
    ∧ Joins (.wredMaxI32 u d a b) u (fun ms _ => some (⟨trunc ((ms.map fun (m : Party) => m.b.toInt).foldl max (-(2 ^ 31))) 32, false⟩, {}))
    ∧ Joins (.wredAnd u d a b) u (fun ms _ => some (⟨((ms.map fun (m : Party) => m.b).foldl (· &&& ·) 0xffffffff).toNat, false⟩, {}))
    ∧ Joins (.wredOr u d a b) u (fun ms _ => some (⟨((ms.map fun (m : Party) => m.b).foldl (· ||| ·) 0).toNat, false⟩, {}))
    ∧ Joins (.wredXor u d a b) u (fun ms _ => some (⟨((ms.map fun (m : Party) => m.b).foldl (· ^^^ ·) 0).toNat, false⟩, {}))
    ∧ Joins (.wredAddF32 u d a b) u (fun ms _ => some (⟨(wredF32 (ms.map (·.b))).1, false⟩, (wredF32 (ms.map (·.b))).2))

/-- Branches (R203, R204): BR goes to PC + 4 × OFF14 where C holds of A (R156) and on otherwise, JMP to PC + 4 × OFF21, BRX to the pointer; NOP goes on; YIELD in an ordered grid gives up the running wave, elsewhere the entry loses the next 16 cycles (R208). -/
def Obligations.BranchResults : Prop :=
  (∀ (j : Bool) (c : BitVec 4) (a : BitVec 7) (o : BitVec 14) (s : State) (t : Nat) (x' : Thread) (vs : List (Pos × OpVal)) (d : Dest),
    Solo (.br j c a o) s t x' vs d →
    let s0 := s.took (.br j c a o) t x'
    let x := wv (valsOf vs) 0
    let holds : Prop :=
      match c.toNat with
      | 0 => x = 0
      | 1 => x ≠ 0
      | 2 => x.toInt < 0
      | 3 => 0 ≤ x.toInt
      | 4 => 0 < x.toInt
      | 5 => x.toInt ≤ 0
      | 6 => x.toNat % 2 = 1
      | 7 => x.toNat % 2 = 0
      | _ => True
    (holds → exec (.br j c a o) s = .next (s0.goto t (ptrAdd (s0.thread t).pc.toNat (4 * o.toInt)) j))
    ∧ (¬ holds → exec (.br j c a o) s = .next (s0.advance t)))
  ∧ (∀ (o : BitVec 21) (s : State) (t : Nat) (x' : Thread) (vs : List (Pos × OpVal)) (d : Dest), Solo (.jmp o) s t x' vs d →
    let s0 := s.took (.jmp o) t x'
    exec (.jmp o) s = .next (s0.goto t (ptrAdd (s0.thread t).pc.toNat (4 * o.toInt)) false))
  ∧ (∀ (u : Bool) (a : BitVec 7) (s : State) (t : Nat) (x' : Thread) (vs : List (Pos × OpVal)) (d : Dest), Solo (.brx u a) s t x' vs d →
    exec (.brx u a) s = .next ((s.took (.brx u a) t x').goto t (nv (valsOf vs) 0) false))
  ∧ (∀ (s : State) (t : Nat) (x' : Thread) (vs : List (Pos × OpVal)) (d : Dest), Solo .nop s t x' vs d →
    exec .nop s = .next ((s.took .nop t x').advance t))
  ∧ (∀ (s : State) (t : Nat) (x' : Thread) (vs : List (Pos × OpVal)) (d : Dest), Solo .yield s t x' vs d →
    let s1 := (s.took .yield t x').advance t
    exec .yield s = .next (s1.setThread t (if s1.orderedGrid t then { s1.thread t with yielded := true }
      else { s1.thread t with yieldTo := (s1.core (coreOf t)).cyc.toNat + 17 })))

/-- Calls and the window (R205 to R207): each moves the window by 8 registers a unit as `MovesWindow` says, whether the move waits, fails with a trap that moves nothing, or succeeds; then CALL and CALLX write the link to v61 to v63 of the new window and go to their target, RET goes to the PC of v62 and v63, WBASE goes on. RET traps where v61, v62 or v63 is poisoned, on the first of them (R368). -/
def Obligations.CallResults : Prop :=
  let linked (s1 : State) (t : Nat) (h link : Nat) : State :=
    s1.setThread t (((s1.thread t).setReg 61 ⟨BitVec.ofNat 32 h, false⟩).setReg 62 ⟨BitVec.ofNat 32 link, false⟩ |>.setReg 63 ⟨BitVec.ofNat 32 (link / 2 ^ 32), false⟩)
  (∀ (h : BitVec 4) (o : BitVec 21) (s : State) (t : Nat) (x' : Thread) (vs : List (Pos × OpVal)) (d : Dest), Solo (.call h o) s t x' vs d →
    let s0 := s.took (.call h o) t x'
    let pc : Nat := (s0.thread t).pc.toNat
    MovesWindow (.call h o) s t s0 ((s0.thread t).wb + 8 * h.toNat : Nat) fun s1 =>
      (linked s1 t h.toNat (ptrAdd pc 4)).goto t (ptrAdd pc (4 * o.toInt)) false)
  ∧ (∀ (u : Bool) (a : BitVec 7) (h : BitVec 4) (s : State) (t : Nat) (x' : Thread) (vs : List (Pos × OpVal)) (d : Dest), Solo (.callx u a h) s t x' vs d →
    let s0 := s.took (.callx u a h) t x'
    MovesWindow (.callx u a h) s t s0 ((s0.thread t).wb + 8 * h.toNat : Nat) fun s1 =>
      (linked s1 t h.toNat (ptrAdd (s0.thread t).pc.toNat 4)).goto t (nv (valsOf vs) 0) false)
  ∧ (∀ (s : State) (t : Nat) (x' : Thread) (vs : List (Pos × OpVal)) (d : Dest), Solo .ret s t x' vs d →
    let s0 := s.took .ret t x'
    let x := s0.thread t
    ((x.reg 61).psn = false → (x.reg 62).psn = false → (x.reg 63).psn = false →
      MovesWindow .ret s t s0 ((x.wb : Int) - 8 * ((x.reg 61).val.toNat % 16 : Nat)) fun s1 =>
        s1.goto t ((x.reg 63).val.toNat * 2 ^ 32 + (x.reg 62).val.toNat) false)
    ∧ (∀ i ∈ [61, 62, 63], (x.reg i).psn = true → (∀ j, 61 ≤ j → j < i → (x.reg j).psn = false) →
      (s0.anyPending t = true → exec .ret s = .next s)
      ∧ (s0.anyPending t = false → Refuses .ret s t s0 { group := 12, code := 3, d0 := i })))
  ∧ (∀ (n : BitVec 7) (s : State) (t : Nat) (x' : Thread) (vs : List (Pos × OpVal)) (d : Dest), Solo (.wbase n) s t x' vs d →
    let s0 := s.took (.wbase n) t x'
    MovesWindow (.wbase n) s t s0 ((s0.thread t).wb + 8 * n.toInt) fun s1 => s1.advance t)

/-- A window move within the stack (R51, R53, R54): outside 0 to 4032 it fails with a window-range cause (R386); where it needs no spill and no fill the base moves, every register that the new window or a lower one can name is kept, and the positions above are dropped. On a queue core the range is 0 to 192 (R285, R386). -/
def Obligations.WindowMoves : Prop :=
  (∀ (s : State) (t insn : Nat) (wb : Int), isQueueTid t = false → (wb < 0 ∨ 4032 < wb) →
    s.moveWindow t wb insn = .error { group := 1, code := 0xa, d0 := trunc wb 64, d1 := (s.thread t).wb })
  ∧ (∀ (s : State) (t insn : Nat) (wb : Int), isQueueTid t = true → (wb < 0 ∨ 192 < wb) →
    s.moveWindow t wb insn = .error { group := 1, code := 0xa, d0 := trunc wb 64, d1 := (s.thread t).wb })
  ∧ (∀ (s : State) (t insn wb : Nat), isQueueTid t = true → wb ≤ 192 →
    ∃ s', s.moveWindow t wb insn = .ok s' ∧ (s'.thread t).wb = wb
      ∧ (∀ p, p < wb + 64 → (s'.thread t).regs.lookD p {} = (s.thread t).regs.lookD p {})
      ∧ (∀ p, wb + 64 ≤ p → p < 4096 → (s'.thread t).regs.lookD p {} = {})
      ∧ (∀ u, u ≠ t → s'.thread u = s.thread u))
  ∧ (∀ (s : State) (t insn wb : Nat), isQueueTid t = false → wb ≤ 4032 → (s.thread t).rb ≤ wb →
    wb + 64 ≤ (s.thread t).rb + ((s.gridOf t).map (·.depth)).getD 64 →
    ∃ s', s.moveWindow t wb insn = .ok s' ∧ (s'.thread t).wb = wb ∧ (s'.thread t).rb = (s.thread t).rb
      ∧ (∀ p, p < wb + 64 → (s'.thread t).regs.lookD p {} = (s.thread t).regs.lookD p {})
      ∧ (∀ p, wb + 64 ≤ p → p < 4096 → (s'.thread t).regs.lookD p {} = {})
      ∧ (∀ u, u ≠ t → s'.thread u = s.thread u) ∧ s'.phys = s.phys ∧ s'.l1 = s.l1)

/-- EXIT (R209): while an earlier access of the thread to a device phaser's record of its own is pending (R136), or that record's mapping (R409), nothing happens; else, with a store or a read-modify-write pending, the thread has dropped its phaser memberships and waits at the EXIT; with none, a core thread drops them, releases at device scope, ends its stream and ends; a queue program stops (R285). TRAP, once the results pending for the thread are written (R54), writes its record and enters the handler with TPC after it (R241). ERET moves the window back as `MovesWindow` says and restores MODE and the PC (R374); outside a handler it traps (R384). -/
def Obligations.ExitAndTrapResults : Prop :=
  (∀ (s : State) (t : Nat) (x' : Thread) (vs : List (Pos × OpVal)) (d : Dest), Solo .exit s t x' vs d →
    let s0 := s.took .exit t x'
    let s1 := s0.phDropAll t
    let writing := s0.pend.any fun o => o.threads.contains t && !o.op.isLoad && !o.op.isPref
    (s0.phDropWaits t = true → exec .exit s = .next s)
    ∧ (s0.phDropWaits t = false →
      (writing = true → exec .exit s = .next { s1 with ops := s.ops })
      ∧ (writing = false → isQueueTid t = true → exec .exit s = .next (s0.stopProgram (queueOf t) false))
      ∧ (∀ s2 done, writing = false → isQueueTid t = false → s1.tryRelease 3 (coreOf t) (s0.ctxOf t) = (s2, done) →
          exec .exit s = .next (if done then (s2.endStream t).endThread t else { s2 with ops := s.ops }))))
  ∧ (∀ (c : BitVec 7) (s : State) (t : Nat), s.cur.tids = [t] → (Instr.trap c).check s.onQueue = none → s.canIssue t = true →
    (s.anyPending t = true → exec (.trap c) s = .next s)
    ∧ (s.anyPending t = false → s.aborting t = false →
      exec (.trap c) s = .next (s.takeTrap [t] { group := 11, code := c.toNat } (encode (.trap c)).toNat (laneMask [t]) 4)))
  ∧ (∀ (s : State) (t : Nat) (x' : Thread) (vs : List (Pos × OpVal)) (d : Dest), Solo .eret s t x' vs d →
    let s0 := s.took .eret t x'
    let x := s0.thread t
    MovesWindow .eret s t s0 (x.trap.twb : Nat) fun s1 =>
      s1.setThread t { s1.thread t with mode := x.trap.tmode, trap := { (s1.thread t).trap with inh := false }, pc := x.trap.tpc })
  ∧ (∀ (s : State) (t : Nat), s.cur.tids = [t] → Instr.eret.check s.onQueue = none → s.canIssue t = true → (s.thread t).trap.inh = false →
    exec .eret s = .next (s.trapped t { group := 1, code := 8, d0 := 0x1e00000, whole := true } .eret s.leadPc))

/-- Taking a trap with a handler (R363, R372): the record goes to the log at level 1; TPC, TADDR, TSEQ, TCAUSE, TINSN, TMODE, TPSN and the window base are saved, INH is set, MODE is cleared, the window moves up by 64 and the PC becomes THND; while a result is pending for the thread, or its spills find no frames in the L1 (R15), it waits for that first (R54, and log 59 on what it waits as); a window move that fails writes a second record, at level 2, and aborts the crew (R388, R444). Where no handler is entered (R363): a queue program stops with FLT set and a record at level 4; a trap inside a handler writes records at levels 1 and 2 with NEST and aborts the crew; without a handler, one record at level 2 and the crew is aborted. -/
def Obligations.TrapTaking : Prop :=
  (
  ∀ (s s1 : State) (t : Nat) (c : Cause) (insn lanes after seq : Nat) (lost : Bool) (s2 : State),
    s.fateOf t = .handler → (s.thread t).run ≠ .exited → s.aborting t = false →
    let r := c.record s t insn lanes 1 false
    s.logFault (s.ctxOf t) r = (s1, seq, lost) →
    let s' := s.takeTrap [t] c insn lanes after
    let x := s.thread t
    let y := s'.thread t
    let roomy := s1.moveRoomy t ((s.thread t).wb + 64 : Nat)
    (s.anyPending t = true ∨ roomy = false → s' = s1.park t (.entry r.addr r.cause r.insn seq lost after [t]))
    ∧ (∀ e k, s.anyPending t = false → roomy = true → s1.moveWindow t ((s.thread t).wb + 64 : Nat) r.insn = .error e → s.crewIdOf t = some k →
      s' = ((s1.logFault (s1.ctxOf t) (e.record s1 t r.insn (laneMask [t]) 2 false)).1).abortCrew k)
    ∧ (s.anyPending t = false → roomy = true → s1.moveWindow t ((s.thread t).wb + 64 : Nat) r.insn = .ok s2 →
    y.trap = { tpc := pcAdd x.pc (after : Nat), taddr := BitVec.ofNat 64 r.addr, tseq := BitVec.ofNat 64 seq, tcause := BitVec.ofNat 32 r.cause,
               tinsn := BitVec.ofNat 32 r.insn, inh := true, lost := lost, tmode := x.mode, tpsn := BitVec.ofNat 64 x.windowPoison, twb := x.wb }
    ∧ y.mode = 0 ∧ y.run = .ready ∧ y.wb = (s2.thread t).wb ∧ y.pc = ((s2.contexts.look (s2.ctxOf t)).map (·.thnd)).getD 0
    ∧ (∀ u, u ≠ t → s'.thread u = s2.thread u)))
  ∧ (
  ∀ (s : State) (t : Nat) (c : Cause) (insn lanes after : Nat),
    let log (s : State) (level : Nat) (nest : Bool) : State := (s.logFault (s.ctxOf t) (c.record s t insn lanes level nest)).1
    (isQueueTid t = true → s.takeTrap [t] c insn lanes after = (log s 4 false).stopProgram (queueOf t) true)
    ∧ (∀ k, isQueueTid t = false → (log s 2 false).crewIdOf t = some k → (s.thread t).trap.inh = false →
        ((s.contexts.look (s.ctxOf t)).map (·.thnd)).getD 0 = 0 → s.takeTrap [t] c insn lanes after = (log s 2 false).abortCrew k)
    ∧ (∀ k, isQueueTid t = false → (s.thread t).trap.inh = true →
        let s2 := ((log s 1 true).logFault (s.ctxOf t) (c.record (log s 1 true) t insn lanes 2 true)).1
        s2.crewIdOf t = some k → s.takeTrap [t] c insn lanes after = s2.abortCrew k))

/-- MFS and MTS (R240, R373): what each selector reads, and that MODE, TPC and TMODE are the ones written; outside a handler a write of TPC or TMODE traps (R384). -/
def Obligations.SelectorResults : Prop :=
  (∀ (u : Bool) (d : BitVec 7) (sel : BitVec 11) (s : State) (t : Nat) (x' : Thread) (vs : List (Pos × OpVal)) (dst : Dest),
    Solo (.mfs u d sel) s t x' vs dst →
    let s0 := s.took (.mfs u d sel) t x'
    exec (.mfs u d sel) s = .next ((s0.writeResult t dst (s0.selector t sel.toNat)).advance t))
  ∧ (∀ (s : State) (t : Nat),
    let x := s.thread t
    let c := s.core (coreOf t)
    s.selector t 1 = s.etimeOf t ∧ s.selector t 16 = x.mode.toNat ∧ s.selector t 32 = x.trap.tpc.toNat ∧ s.selector t 34 = x.trap.taddr.toNat
    ∧ s.selector t 36 = x.trap.tseq.toNat ∧ s.selector t 38 = ((s.contexts.look (s.ctxOf t)).map (·.thnd.toNat)).getD 0
    ∧ s.selector t 40 = x.trap.tcause.toNat ∧ s.selector t 41 = x.trap.tinsn.toNat
    ∧ s.selector t 42 = (if x.trap.inh then 2 ^ 31 else 0) + (if x.trap.lost then 2 ^ 30 else 0)
    ∧ s.selector t 43 = x.trap.tmode.toNat ∧ s.selector t 44 = x.trap.tpsn.toNat
    ∧ (isQueueTid t = false → s.selector t 0 = c.cyc.toNat ∧ s.selector t 10 = c.spillb.toNat ∧ s.selector t 11 = c.fillb.toNat ∧ s.selector t 12 = c.htime.toNat
        ∧ ∀ p, p < 4 → s.selector t (2 + p) = (c.cycT.getD p 0).toNat ∧ s.selector t (6 + p) = (c.issT.getD p 0).toNat))
  ∧ (∀ (a : BitVec 7) (sel : BitVec 11) (s : State) (t : Nat) (x' : Thread) (vs : List (Pos × OpVal)) (dst : Dest),
    Solo (.mts a sel) s t x' vs dst →
    let s0 := s.took (.mts a sel) t x'
    let x := s0.thread t
    (sel = 16 → exec (.mts a sel) s = .next ((s0.setThread t { x with mode := wv (valsOf vs) 0 &&& 0x1f03 }).advance t))
    ∧ (sel = 32 → exec (.mts a sel) s = .next ((s0.setThread t { x with trap := { x.trap with tpc := dv (valsOf vs) 0 } }).advance t))
    ∧ (sel = 43 → exec (.mts a sel) s = .next ((s0.setThread t { x with trap := { x.trap with tmode := wv (valsOf vs) 0 &&& 0x1f03 } }).advance t)))
  ∧ (∀ (a : BitVec 7) (sel : BitVec 11) (s : State) (t : Nat), (sel = 32 ∨ sel = 43) → s.cur.tids = [t] → (Instr.mts a sel).check s.onQueue = none →
    s.canIssue t = true → laneReady (.mts a sel) s t = true → latentRead (.mts a sel) (s.thread t) = [] → (s.thread t).trap.inh = false →
    exec (.mts a sel) s = .next (s.trapped t { group := 1, code := 8, d0 := 0x7ff, d1 := sel.toNat, whole := true } (.mts a sel) s.leadPc))

/-- LD and LDS (R210 to R212): 1 to 32 bytes, the offset counted in accesses. Where the checks pass the load is left pending or returns its bytes at once, as `Loads` says of each place; that a scratchpad access of at most 8 bytes and an access to a device register are performed in the issuing step is the model's choice (log 7). -/
def Obligations.LoadResults : Prop :=
  (∀ (u : Bool) (d a : BitVec 7) (w : BitVec 3) (p : BitVec 2) (o : BitVec 6),
    Loads (.ld u d a w p o) p.toNat (2 ^ w.toNat) (o.toInt * 2 ^ w.toNat) false)
  ∧ (∀ (u : Bool) (d a : BitVec 7) (w : BitVec 1) (p : BitVec 2) (o : BitVec 6),
    Loads (.lds u d a w p o) p.toNat (2 ^ w.toNat) (o.toInt * 2 ^ w.toNat) true)

/-- ST (R210 to R212): where the checks pass the bytes of D are left pending, in units of 8 bytes, for plain memory and for a window, and are in the thread's own scratchpad at once where they are at most 8 and no earlier operation is ordered before them, which is the model's choice (log 7); a failed check, and an APPEND page (R124), traps. -/
def Obligations.StoreResults : Prop :=
  ∀ (u : Bool) (d a : BitVec 7) (w : BitVec 3) (p : BitVec 2) (f : BitVec 6) (s : State) (t : Nat) (x' : Thread) (vs : List (Pos × OpVal)) (dst : Dest),
    let i : Instr := .st u d a w p f
    Solo i s t x' vs dst →
    let s0 := s.took i t x'
    let size : Nat := 2 ^ w.toNat
    let q := laneAddr p.toNat (nv (valsOf vs) 0) (f.toInt * size)
    (s0.thread t).stores < 255 →
    (∀ s1 g, s0.check t p.toNat q size size .write = (s1, .ok g) →
      let o : PendOp := { s1.newOp t g .store size (encode i).toNat with data := leBytes size (nv (valsOf vs) 1) }
      (g.place = 0 ∨ g.place = 2 → g.space ≠ 1 → g.cls ≠ 1 → exec i s = .next (s1.issuedStore t o))
      ∧ (g.place = 1 → g.space = 1 → size ≤ 8 → g.cls ≠ 1 → s1.blocked o = false →
          exec i s = .next ((s1.scratchWrite g.pa (clean (leBytes size (nv (valsOf vs) 1)))).advance t))
      ∧ (g.place = 1 → (g.space ≠ 1 ∨ 8 < size ∨ s1.blocked o = true) → g.cls ≠ 1 → exec i s = .next (((s1.pushUnits o).addStores t).advance t))
      ∧ (g.place = 3 → s1.busy t = false → exec i s = .next (s1.advance t))
      ∧ (g.place ≠ 3 → g.cls = 1 → s1.blocked o = false →
          exec i s = .next (State.trapped { s1.setThread t (s.thread t) with ops := s.ops } t ((s1.appendRefusal g).cause p.toNat q 1 size false) i s.leadPc)))
    ∧ (∀ s1 e, s0.check t p.toNat q size size .write = (s1, .bad e) →
      exec i s = .next (State.trapped { s1.setThread t (s.thread t) with ops := s.ops } t (e.cause p.toNat q 1 size false) i s.leadPc))

/-- PREF and CINV (R213, R214): a prefetch never faults; an invalidation of each scope is left pending on its line, or traps as a 1-byte read does. -/
def Obligations.CacheLineResults : Prop :=
  ∀ (a : BitVec 7) (s : State) (t : Nat) (x' : Thread) (vs : List (Pos × OpVal)) (d : Dest),
    (Solo (.pref a) s t x' vs d →
      let s0 := s.took (.pref a) t x'
      (∀ s1 g, s0.check t 0 (nv (valsOf vs) 0) 1 1 .read = (s1, .ok g) →
        exec (.pref a) s = .next ((if g.place = 0 then s1.pushOp (s1.newOp t g .pref 1 (encode (.pref a)).toNat) else s1).advance t))
      ∧ (∀ s1 e, s0.check t 0 (nv (valsOf vs) 0) 1 1 .read = (s1, .bad e) → exec (.pref a) s = .next (s1.advance t)))
    ∧ ∀ x ∈ [(Instr.cinvCore a, 0), (Instr.cinvClu a, 1), (Instr.cinvDie a, 2), (Instr.cinvDev a, 3), (Instr.cinvSys a, 4)], Solo x.1 s t x' vs d →
      let s0 := s.took x.1 t x'
      (∀ s1 g, s0.check t 0 (nv (valsOf vs) 0) 1 1 .read = (s1, .ok g) → g.place ≠ 3 →
        exec x.1 s = .next ((s1.pushOp { s1.newOp t g (.cinv x.2) 128 (encode x.1).toNat with pa := lineOf g.pa }).advance t))
      ∧ (∀ s1 g, s0.check t 0 (nv (valsOf vs) 0) 1 1 .read = (s1, .ok g) → g.place = 3 → exec x.1 s = .next (s1.advance t))
      ∧ (∀ s1 e, s0.check t 0 (nv (valsOf vs) 0) 1 1 .read = (s1, .bad e) →
        exec x.1 s = .next (State.trapped { s1.setThread t (s.thread t) with ops := s.ops } t (e.cause 0 (nv (valsOf vs) 0) 0 1 false) x.1 s.leadPc))

/-- ATOM and RED (R215 to R218), 32 and 64 bits, with ORD's release and acquire and the scope. That one on the thread's own scratchpad is performed in the issuing step where no thread of its packet has an operation pending, and that a device register answers in it, is log 7. -/
def Obligations.AtomicResults : Prop :=
  ∀ (d a : BitVec 7) (sc : BitVec 3) (p : BitVec 2) (op : BitVec 4) (r : BitVec 2),
    Updates (.atom32 d a sc p op r) true 1 sc.toNat p.toNat op.toNat r.toNat
    ∧ Updates (.atom64 d a sc p op r) true 2 sc.toNat p.toNat op.toNat r.toNat
    ∧ Updates (.red32 d a sc p op r) false 1 sc.toNat p.toNat op.toNat r.toNat
    ∧ Updates (.red64 d a sc p op r) false 2 sc.toNat p.toNat op.toNat r.toNat

/-- BRED, BINFIN, APPEND and SEAL (R219 to R222) on pages of their kind. BRED is left pending, and in an ordered grid held as a contribution (R300). An APPEND on an open page of this device answers the tail and moves it up by the size rounded to 8 bytes (R123); past the page's end it traps page-full and on a sealed page write-after-seal (R399 codes 0x0c and 0x0b), and a page that is not wholly within its region is a bounds fault (R221). That a local APPEND is performed in the issuing step where no thread of its packet has an operation pending, and left pending otherwise, is the model's choice (log 7); so is the die whose L2 slices a queue core's access to a host frame uses (log 12). -/
def Obligations.RecordAndAppendResults : Prop :=
  (∀ (wide : Bool) (a b : BitVec 7) (s : State) (t : Nat) (x' : Thread) (vs : List (Pos × OpVal)) (d : Dest),
    let i : Instr := if wide then .bredF64 a b else .bredF32 a b
    Solo i s t x' vs d → ((s.took i t x').thread t).stores < 255 →
    ∀ s1 g, (s.took i t x').check t 0 (nv (valsOf vs) 0) 64 64 .rmw = (s1, .ok g) → g.cls ≠ 1 → g.place ≠ 3 →
      let n : Nat := if wide then 8 else 4
      let o : PendOp := { s1.newOp t g (.bred wide) 64 (encode i).toNat with data := leBytes n (nv (valsOf vs) 1) }
      (s1.orderedGrid t = false → exec i s = .next (((((s1.digest o).pushOp o).addStores t).bumpSeq t).advance t))
      ∧ (∀ s2, s1.orderedGrid t = true → holdLane s1 t o (if wide then 17 else 16) n (leNat o.data) = .done s2 [] → exec i s = .next s2))
  ∧ (∀ (dd a : BitVec 7) (s : State) (t : Nat) (x' : Thread) (vs : List (Pos × OpVal)) (d : Dest),
    let i : Instr := .binfin dd a
    Solo i s t x' vs d → ((s.took i t x').thread t).loads < 255 →
    ∀ s1 g, (s.took i t x').check t 0 (nv (valsOf vs) 0) 40 64 .read = (s1, .ok g) → g.place ≠ 3 →
      exec i s = .next (((s1.pushOp { s1.newOp t g .binfin 40 (encode i).toNat with dst := d }).addLoads t).advance t))
  ∧ (∀ (dd a b : BitVec 7), ∀ x ∈ [(Instr.appendB32 dd a b, 4), (Instr.appendB64 dd a b, 8), (Instr.appendB128 dd a b, 16), (Instr.appendB256 dd a b, 32)],
    ∀ (s : State) (t : Nat) (x' : Thread) (vs : List (Pos × OpVal)) (d : Dest), Solo x.1 s t x' vs d → ((s.took x.1 t x').thread t).loads < 255 →
    ∀ s1 g, (s.took x.1 t x').check t 0 (nv (valsOf vs) 0) 1 1 .append = (s1, .ok g) → g.place = 0 → g.cls = 1 →
      let p := nv (valsOf vs) 0
      let base := g.pa / g.psize * g.psize
      let o : PendOp := { s1.newOp t g .append g.psize (encode x.1).toNat with pa := base, data := leBytes x.2 (nv (valsOf vs) 1), dst := d }
      (∀ e, g.bounds.check (vaOf p - vaOf p % g.psize) g.psize .append = some e →
        exec x.1 s = .next (State.trapped { s1.setThread t (s.thread t) with ops := s.ops } t (e.cause 0 p 7 x.2 false) x.1 s.leadPc))
      ∧ (g.bounds.check (vaOf p - vaOf p % g.psize) g.psize .append = none → s1.together = false →
        exec x.1 s = .next (((((s1.digest o).pushOp o).addLoads t).bumpSeq t).advance t))
      ∧ (g.bounds.check (vaOf p - vaOf p % g.psize) g.psize .append = none → s1.together = true → s1.dualOf t = false → s1.shadowOf t = false →
        let s2 := s1.touchHome (dieOfWho (whoOf t) base) base
        let f := s2.markOf base g.leaf g.psize
        let sz := 8 * ((x.2 + 7) / 8)
        (f.shut = false → f.tail + sz ≤ g.psize →
          ∃ s3, s2.appendAt base g.leaf g.psize (leBytes x.2 (nv (valsOf vs) 1)) = (s3, .ok f.tail)
            ∧ s3.appended.look base = some { f with tail := f.tail + sz }
            ∧ exec x.1 s = .next ((((((s3.digest o).noteSample o f.tail false).dropOwn { o with pa := base + f.tail, size := x.2 }).writeDest t d f.tail false).bumpSeq t).advance t))
        ∧ (∀ e, e = (if f.shut then ({ code := 0xb, d1 := f.tail } : MemErr) else { code := 0xc, d1 := f.tail + sz * 2 ^ 32 }) →
          (f.shut = true ∨ g.psize < f.tail + sz) →
          let s3 : State := s2.setMark base g.leaf f
          exec x.1 s = .next (State.trapped { s3.setThread t (s.thread t) with ops := s.ops } t (e.cause 0 p 7 x.2 false) x.1 s.leadPc))))
  ∧ (∀ (a : BitVec 7) (s : State) (t : Nat) (x' : Thread) (vs : List (Pos × OpVal)) (d : Dest),
    let i : Instr := .sealPage a
    Solo i s t x' vs d → ((s.took i t x').thread t).stores < 255 →
    ∀ s1 g, (s.took i t x').check t 0 (nv (valsOf vs) 0) 1 1 .append = (s1, .ok g) → g.place = 0 → g.cls = 1 →
      let o : PendOp := { s1.newOp t g .sealing g.psize (encode i).toNat with pa := g.pa / g.psize * g.psize }
      exec i s = .next (((((s1.digest o).pushOp o).addStores t).bumpSeq t).advance t))

/-- Pending operations are performed by their events (R135 to R137, R212 to R223): a load's data goes to its destination and the load counter falls; a store enters the L1 view as dirty bytes, or is performed at its home, and the store counter falls; an atomic, returning or not, performs its release, its read and write, its acquire and its result as one step; a BRED updates its record, a BINFIN delivers its value, an APPEND moves the tail, a SEAL performs its release and then closes the page, a CINV writes back and drops its line. The die of a queue core's home access is log 12, the poison that a read-modify-write keeps log 13. -/
def Obligations.MemoryEvents : Prop :=
  ∀ (s : State) (o : PendOp), s.findPend o.id = some o → s.blocked o = false → s.opGroup o = [o] → (∀ x ∈ s.pend, x.err = none) → o.place = 0 → o.space = 0 →
    let goes (s : State) : Prop := s.fencedOp o = none ∧ s.reachable o = true ∧ s.dualOf o.tid = false ∧ s.shadowOf o.tid = false
    (goes s →
      (∀ sg, o.op = .load sg →
        let r := s.readOp o
        exec (.loadDataReturn o.id false) s = .next ((r.2.deliverLoad o sg r.1).completeOp o))
      ∧ (o.op = .store → s.direct o = false →
        exec (.storePerformed o.id) s = .next (((s.l1Store o.core o.ctx o.pa (o.data.map fun b => (b, o.psn))).sendDual o).completeOp o))
      ∧ (o.op = .store → s.direct o = true →
        exec (.storePerformed o.id) s = .next (((s.touchHome (dieOfCore o.core % 4) o.pa).homeWrite o.pa (o.data.map fun b => (b, o.psn))).completeOp o))
      ∧ (∀ wide, o.op = .bred wide → exec (.storePerformed o.id) s = .next (((s.noteAtomic o 3).bredAt o wide).completeOp o))
      ∧ (o.op = .binfin →
        let r := (s.writeBackOwn { o with size := 64 }).homeFetch o 40
        let w := (List.range 5).map fun i => leNat (((r.1.map (·.1)).drop (8 * i)).take 8)
        exec (.loadDataReturn o.id false) s = .next (r.2.deliverBin o (binfinValue w) (r.1.any (·.2))))
      ∧ (∀ s1 off, o.op = .append → s.appendAt o.pa o.leaf o.psize o.data = (s1, .ok off) →
        exec (.loadDataReturn o.id false) s =
          .next ((((s1.dropOwn { o with pa := o.pa + off, size := o.data.length }).deliverOp o off false).noteSample o off false).completeOp o))
      ∧ (∀ scope, o.op = .cinv scope →
        let line (a : Nat) : Bool := a / 128 = o.pa / 128
        exec (.storePerformed o.id) s = .next (((if 2 ≤ scope then s.writeBackAll o.core o.ctx line else s).l1Drop o.core o.ctx line).completeOp o)))
    ∧ (∀ op ret rel acq scope s1, o.op = .atomic op ret rel acq scope → (if rel then s.tryRelease scope o.core o.ctx else (s, true)) = (s1, true) → goes s1 →
      let s2 := if rel then s1.release scope o.core o.ctx else s1
      let r := (s2.noteAtomic o scope).rmwAt o op scope
      let s3 := if acq then r.1.acquire scope o.core o.ctx else r.1
      let v := leNat (r.2.map (·.1))
      let p := r.2.any (·.2)
      exec (if ret then .loadDataReturn o.id false else .storePerformed o.id) s = .next ((if ret then (s3.deliverOp o v p).noteSample o v p else s3).completeOp o))
    ∧ (∀ s1, o.op = .sealing → s.tryRelease 3 o.core o.ctx = (s1, true) → goes s1 →
      exec (.storePerformed o.id) s = .next (((s1.release 3 o.core o.ctx).sealAt (o.pa / o.psize * o.psize) o.leaf o.psize).completeOp o))

/-- What a read-modify-write stores (R216): for each operation of R155 on 4 or 8 bytes, from the old value and the operand, with the poison of the old bytes kept, which is the model's reading (log 13); a cas stores its second operand where the first equals the old value, and nothing elsewhere. BRED and BINFIN (R93, R94): a finite contribution within the record's range adds its nearest multiple of 2^(EMAX − 119), split over the three bins, and counts; NaN and the infinities set their header bits and change no bin; BINFIN of a record without header bits is the one rounding of the exact sum. -/
def Obligations.AtomicAndBinValues : Prop :=
  (
  ∀ (o : PendOp) (bs : List MByte), (o.size = 4 ∨ o.size = 8) →
    let old := leNat (bs.map (·.1))
    let x := o.operand 0
    let m : Nat := 2 ^ (8 * o.size)
    let val (v : Nat) : Option (List MByte) := some ((leBytes o.size v).map fun b => (b, bs.any (·.2)))
    o.rmw 0 bs = val ((old + x) % m)
    ∧ o.rmw 1 bs = val (if signExtend x (8 * o.size) < signExtend old (8 * o.size) then x else old)
    ∧ o.rmw 2 bs = val (min old x)
    ∧ o.rmw 3 bs = val (if signExtend old (8 * o.size) < signExtend x (8 * o.size) then x else old)
    ∧ o.rmw 4 bs = val (max old x)
    ∧ o.rmw 5 bs = val (old &&& x) ∧ o.rmw 6 bs = val (old ||| x) ∧ o.rmw 7 bs = val (old ^^^ x) ∧ o.rmw 8 bs = val x
    ∧ (old = x → o.rmw 9 bs = val (o.operand 1)) ∧ (old ≠ x → o.rmw 9 bs = none)
    ∧ o.rmw 10 bs = val ((if o.size = 4 then f32 else f64).add .rne old x).1)
  ∧ (
  (∀ (h b0 b1 b2 n : Nat) (neg : Bool) (m : Nat) (e : Int),
    let emax := signExtend h 16
    let q := (roundAt .rne neg m e (emax - 119)).1
    let sg (v : Nat) : Int := if neg then -(v : Int) else v
    let s0 := signExtend b0 64 + sg (q / 2 ^ 80)
    let s1 := signExtend b1 64 + sg (q / 2 ^ 40 % 2 ^ 40)
    let s2 := signExtend b2 64 + sg (q % 2 ^ 40)
    (m = 0 ∨ e + Nat.log2 m ≤ emax) → (∀ x ∈ [s0, s1, s2], -(2 ^ 63) ≤ x ∧ x < 2 ^ 63) → n + 1 < 2 ^ 64 →
    bredUpdate [h, b0, b1, b2, n] (.fin neg m e) = [h, trunc s0 64, trunc s1 64, trunc s2 64, n + 1]
    ∧ s0 * 2 ^ 80 + s1 * 2 ^ 40 + s2 =
        signExtend b0 64 * 2 ^ 80 + signExtend b1 64 * 2 ^ 40 + signExtend b2 64 + sg q)
  ∧ (∀ (w : List Nat) (sg : Bool), (bredUpdate w (.nan sg)).drop 1 = w.drop 1 ∧ bit ((bredUpdate w (.nan sg)).getD 0 0) 16 = true)
  ∧ (∀ (w : List Nat) (neg : Bool), (bredUpdate w (.inf neg)).drop 1 = w.drop 1 ∧ bit ((bredUpdate w (.inf neg)).getD 0 0) (if neg then 18 else 17) = true)
  ∧ (∀ (h b0 b1 b2 n : Nat), bit h 16 = false → bit h 17 = false → bit h 18 = false →
    binfinValue [h, b0, b1, b2, n] =
      (f64.roundInt .rne (signExtend b0 64 * 2 ^ 80 + signExtend b1 64 * 2 ^ 40 + signExtend b2 64) (signExtend h 16 - 119) false).1))

/-- Checks of an access before it happens (R104, R106, R107, R98, R202): a pointer off its alignment; scratchpad bytes past the crew's allocation; a window slot that is not open, or that another core of the cluster writes; the system space without the grant, and its reserved addresses. -/
def Obligations.AccessChecks : Prop :=
  (∀ (s : State) (t space p n al : Nat) (k : Need), p % al ≠ 0 → s.check t space p n al k = (s, .bad { code := 1 }))
  ∧ (∀ (s : State) (t p n al : Nat) (k : Need) (c : Crew), p % al = 0 → s.crewOf t = some c → c.alloc < p + n →
      s.check t 1 p n al k = (s, .bad { code := 8, d1 := c.alloc }))
  ∧ (∀ (s : State) (t p n al : Nat) (k : Need) (c : Crew), p % al = 0 → s.crewOf t = some c → p + n ≤ c.alloc → (s.core (coreOf t)).windows = [] →
      s.check t 1 p n al k = (s, .ok { space := 1, ptr := p, pa := c.scratchByte (coreOf t) p, place := 1 }))
  ∧ (∀ (s : State) (t p n al : Nat) (k : Need), p % al = 0 → p < 2 ^ 15 →
      let home := coreOf t / 4 * 4 + p / 2 ^ 13 % 4
      let w := (s.core home).windows.lookD (p / 2 ^ 7 % 2 ^ 6) {}
      (w.v = false → s.check t 2 p n al k = (s, .bad { group := 3, code := 1, reason := 2, d1 := w.word }))
      ∧ (w.v = true → k.writes = true → w.sw = true → w.wcore ≠ coreOf t % 4 →
          s.check t 2 p n al k = (s, .bad { group := 3, code := 2, d1 := w.wcore + coreOf t % 4 * 256 }))
      ∧ (∀ c, w.v = true → (k.writes = false ∨ w.sw = false ∨ w.wcore = coreOf t % 4) → s.crews.look w.crew = some c →
          s.check t 2 p n al k = (s, .ok { space := 2, ptr := p, pa := c.scratchByte home (w.row * 128 + p % 128), place := 1 })))
  ∧ (∀ (s : State) (t p n al : Nat) (k : Need), p % al = 0 →
      let granted := (s.thread t).trap.inh && ((s.contexts.look (s.ctxOf t)).map (·.sys)).getD false
      (granted = false → s.check t 3 p n al k = (s, .bad { code := 6 }))
      ∧ (granted = true → (2 ^ 48 ≤ p ∨ reservedPa p = true) → s.check t 3 p n al k = (s, .bad { code := 7, d1 := p })))

/-- Tag waits (R225, R226), with no read of the thread outstanding: TWANY returns the done tags of the mask or parks while none is done, TWALL returns once all are, TFFR takes the lowest done tag and clears its bit (64 for an empty mask); a return is an acquire at the widest completion scope of its tags (R141). WAITC goes on once the four counters are at or below its counts, and parks until then (R224). WAITA and WAKE (R227 to R229) on a plain word of this device, performed in the issuing step (log 7), and the fences (R235): WAITA answers the word where it differs from B (a poisoned one traps where a scratchpad operand would take it, R368) and else registers the thread at the home and parks it; WAKE removes and wakes at most B registrations, oldest first, and answers their number; a fence is its release, then its acquire. -/
def Obligations.WaitAndFenceResults : Prop :=
  (
  (∀ (dd a : BitVec 7), ∀ q ∈ [(Instr.twany dd a, TagWait.any), (Instr.twall a, TagWait.all), (Instr.tffr dd a, TagWait.first)],
    ∀ (s : State) (t : Nat) (x' : Thread) (vs : List (Pos × OpVal)) (d : Dest), Solo q.1 s t x' vs d →
    let s0 := s.took q.1 t x'
    s0.readsPending t = false →
    (∀ k c v ts c', s0.crewIdOf t = some k → s0.crewOf t = some c → c.tagReturn q.2 (nv (valsOf vs) 0) = some (v, ts, c') →
      let s1 := s0.setCrew k c'
      let s2 := if ts = [] then s1 else s1.acquire (c.tagScope ts) (coreOf t) (s1.ctxOf t)
      exec q.1 s = .next ((s2.writeDest t d v false).advance t))
    ∧ (∀ k c, s0.crewIdOf t = some k → s0.crewOf t = some c → c.tagReturn q.2 (nv (valsOf vs) 0) = none →
      exec q.1 s = .next (s0.park t (.tags q.2 (nv (valsOf vs) 0) d))))
  ∧ (∀ (c : Crew) (mask : Nat),
    let m := (List.range c.ntags).filter fun i => bit mask i
    let done := m.filter fun i => (c.tags.lookD i {}).done
    (m ≠ [] → done = [] → c.tagReturn .any mask = none ∧ c.tagReturn .first mask = none)
    ∧ (done ≠ [] → c.tagReturn .any mask = some (done.foldl (fun v i => v + 2 ^ i) 0, done, c))
    ∧ (m = [] → c.tagReturn .any mask = some (0, [], c) ∧ c.tagReturn .all mask = some (0, [], c) ∧ c.tagReturn .first mask = some (64, [], c))
    ∧ (done = m → c.tagReturn .all mask = some (0, m, c)) ∧ (done ≠ m → c.tagReturn .all mask = none)
    ∧ (∀ i r, done = i :: r → c.tagReturn .first mask =
        some (i, [i], { c with tags := c.tags.put i { (c.tags.lookD i {}) with done := false, scope := 0 } })))
  ∧ (∀ (l st : BitVec 5) (c tl : BitVec 4) (s : State) (t : Nat) (x' : Thread) (vs : List (Pos × OpVal)) (d : Dest), Solo (.waitc l st c tl) s t x' vs d →
    let s0 := s.took (.waitc l st c tl) t x'
    let x := s0.thread t
    let met : Prop := x.loads ≤ l.toNat ∧ x.stores ≤ st.toNat ∧ x.copies ≤ c.toNat ∧ x.tiles ≤ tl.toNat
    (met → exec (.waitc l st c tl) s = .next (s0.advance t))
    ∧ (¬ met → exec (.waitc l st c tl) s = .next (s0.park t (.counters l.toNat st.toNat c.toNat tl.toNat)))))
  ∧ (
  (∀ (dd a b : BitVec 7) (s : State) (t : Nat) (x' : Thread) (vs : List (Pos × OpVal)) (d : Dest),
    let i : Instr := .waita dd a b
    Solo i s t x' vs d →
    let p := nv (valsOf vs) 0
    ∀ s1 g, (s.took i t x').check t 0 p 4 4 .read = (s1, .ok g) → g.place = 0 → g.cls = 0 → inHbm g.pa = true →
      let o := s1.newOp t g (.load false) 4 (encode i).toNat
      s1.blocked o = false → s1.mapPending (lineOf g.pa) = false →
      let s2 := s1.writeBackOwn o
      let bs := s2.homeRead g.pa 4
      let s3 := (s2.waitaRead o).1
      let w := leNat (bs.map (·.1))
      let psn := bs.any (·.2)
      (w ≠ nv (valsOf vs) 1 % 2 ^ 32 → (psn = false ∨ ∀ b n, d ≠ .scratch b n) → exec i s = .next ((s3.writeDest t d w psn).advance t))
      ∧ (w ≠ nv (valsOf vs) 1 % 2 ^ 32 → psn = true → ∀ b n, d = .scratch b n → Refuses i s t s3 { group := 12, code := 2, d0 := dstCode i })
      ∧ (w = nv (valsOf vs) 1 % 2 ^ 32 →
          exec i s = .next ((s3.registerWaiter (sliceFor t g.pa) g.pa (s3.ctxOf t) t).park t (.waita g.pa p d (encode i).toNat))))
  ∧ (∀ (dd a b : BitVec 7) (s : State) (t : Nat) (x' : Thread) (vs : List (Pos × OpVal)) (d : Dest),
    let i : Instr := .wake dd a b
    Solo i s t x' vs d →
    ∀ s1 g, (s.took i t x').check t 0 (nv (valsOf vs) 0) 4 4 .read = (s1, .ok g) → g.place = 0 → g.cls = 0 → inHbm g.pa = true →
      let o := s1.newOp t g (.atomic 8 true false false 3) 4 (encode i).toNat
      s1.blocked o = false → s1.mapPending (lineOf g.pa) = false →
      let s2 := s1.writeBackOwn o
      let ws := (s2.wordWaiters (s2.ctxOf t) g.pa).take (nv (valsOf vs) 1 % 2 ^ 32)
      let s3 := ws.foldl (fun s u => s.wakeWaita u) (s2.dropWaiters fun u => ws.contains u)
      exec i s = .next ((s3.writeDest t d ws.length false).advance t))
  ∧ (∀ (sc : BitVec 7) (s : State) (t : Nat) (x' : Thread) (vs : List (Pos × OpVal)) (d : Dest),
    (Solo (.fenceAcq sc) s t x' vs d → let s0 := s.took (.fenceAcq sc) t x'
      s0.readsPending t = false → exec (.fenceAcq sc) s = .next ((s0.acquire sc.toNat (coreOf t) (s0.ctxOf t)).advance t))
    ∧ (Solo (.fenceRel sc) s t x' vs d → let s0 := s.took (.fenceRel sc) t x'
      s0.busy t = false → ∀ s1, s0.tryRelease sc.toNat (coreOf t) (s0.ctxOf t) = (s1, true) → exec (.fenceRel sc) s = .next (s1.advance t))
    ∧ (Solo (.fenceAr sc) s t x' vs d → let s0 := s.took (.fenceAr sc) t x'
      s0.busy t = false → ∀ s1, s0.tryRelease sc.toNat (coreOf t) (s0.ctxOf t) = (s1, true) →
        exec (.fenceAr sc) s = .next ((s1.acquire sc.toNat (coreOf t) (s0.ctxOf t)).advance t))))

/-- Phasers (R230 to R234): PHREG joins as a signaller, a waiter or both at the current phase and answers it; PHSIG releases, signals, and advances the phase where every signaller has signalled; PHWT returns and acquires where the phase has moved past the thread's last one, and parks where it has not; PHARV signals, then waits; PHDROP ends the membership. A thread that is no member traps (R390), as the clauses of `PhaserJoins`, `PhaserLeaves` and `PhaserActs` say of every reason. A core phaser is named by its number, 0 to 63, any other traps; a device phaser by its record's 64-byte aligned pointer, once the record has passed its checks: a pointer off its alignment, an access that fails, another place or page class, or a record whose upper 48 bytes are not zero traps (R390), and a record with earlier operations of the thread on it waits. That core phasers are acted on in the issuing step is the model's choice (log 7). -/
def Obligations.PhaserResults : Prop :=
  (∀ (dd a b : BitVec 7) (s : State) (t : Nat) (x' : Thread) (vs : List (Pos × OpVal)) (d : Dest) (n : Nat), nv (valsOf vs) 0 % 2 ^ 32 = n →
    let named (i : Instr) (act : State → Nat → Prop) : Prop := Solo i s t x' vs d →
      let s0 := s.took i t x'
      (n ≤ 63 → act s0 (corePhaser (s0.phaserCore t) n)) ∧ (63 < n → Refuses i s t s0 { group := 1, code := 0xf, d0 := 8, d1 := n })
    named (.phreg dd a b) (fun s1 k => PhaserJoins (.phreg dd a b) s t s1 k n (nv (valsOf vs) 1 % 2 ^ 32) d)
    ∧ named (.phdrop a) (fun s1 k => PhaserLeaves (.phdrop a) s t s1 k n)
    ∧ named (.phsig a) (fun s1 k => PhaserActs true false (.phsig a) s t s1 k n .none)
    ∧ named (.phwt dd a) (fun s1 k => PhaserActs false true (.phwt dd a) s t s1 k n d)
    ∧ named (.pharv dd a) (fun s1 k => PhaserActs true true (.pharv dd a) s t s1 k n d))
  ∧ (∀ (dd a b : BitVec 7) (s : State) (t : Nat) (x' : Thread) (vs : List (Pos × OpVal)) (d : Dest),
    let p := nv (valsOf vs) 0
    let named (i : Instr) (act : State → Nat → Prop) : Prop := Solo i s t x' vs d →
      let s0 := s.took i t x'
      let bad (s1 : State) (r : Nat) : Prop := Refuses i s t s1 { group := 1, code := 0xf, d0 := r, d1 := 64 }
      (p % 64 ≠ 0 → bad s0 9)
      ∧ (∀ s1 e, p % 64 = 0 → s0.check t 0 p 64 1 .rmw = (s1, .bad e) → Refuses i s t s1 (e.cause 0 p 2 16 false))
      ∧ (∀ s1 h, p % 64 = 0 → s0.check t 0 p 64 1 .rmw = (s1, .hostOwned h) → bad s1 9)
      ∧ (∀ s1 g, p % 64 = 0 → s0.check t 0 p 64 1 .rmw = (s1, .ok g) → (g.place ≠ 0 ∨ g.cls ≠ 0) → bad s1 9)
      ∧ (∀ s1 g, p % 64 = 0 → s0.check t 0 p 64 1 .rmw = (s1, .ok g) → g.place = 0 → g.cls = 0 →
        let o := s1.newOp t g (.atomic 8 true false false 3) 64 (encode i).toNat
        let r := (s1.writeBackOwn o).homeFetch o 64
        (s1.blocked o = true ∨ s1.mapPending (lineOf g.pa) = true → exec i s = .next s)
        ∧ (s1.blocked o = false → s1.mapPending (lineOf g.pa) = false →
          ((∃ b ∈ r.1.drop 16, b.1 ≠ 0) → bad r.2 10)
          ∧ ((∀ b ∈ r.1.drop 16, b.1 = 0) → act (r.2.dropOwn o) (devPhaser g.pa))))
    named (.phregDev dd a b) (fun s1 k => PhaserJoins (.phregDev dd a b) s t s1 k 64 (nv (valsOf vs) 1 % 2 ^ 32) d)
    ∧ named (.phdropDev a) (fun s1 k => PhaserLeaves (.phdropDev a) s t s1 k 64)
    ∧ named (.phsigDev a) (fun s1 k => PhaserActs true false (.phsigDev a) s t s1 k 64 .none)
    ∧ named (.phwtDev dd a) (fun s1 k => PhaserActs false true (.phwtDev dd a) s t s1 k 64 d)
    ∧ named (.pharvDev dd a) (fun s1 k => PhaserActs true true (.pharvDev dd a) s t s1 k 64 d))

/-- Signals, waits and the phase of a core phaser (R232): a signal raises the member's NX and the phaser's ARR, and parks instead where the member has already signalled this phase; a wait raises LP and answers it, and parks instead while the phase is LP; an Advance raises PHASE, clears ARR, and lets a thread parked in its wait go on. -/
def Obligations.PhaserPhases : Prop :=
  ∀ (s : State) (t core n : Nat) (m : Member), n < 64 → core < 2 ^ 40 →
    let k := corePhaser core n
    let p := s.phaser k
    ((s.thread t).member k = some m →
      (m.nx = p.phase →
        ∃ s', s.phSignal t k = some (s', decide (p.arr + 1 = p.nsig))
          ∧ (s'.phaser k).arr = p.arr + 1 ∧ (s'.phaser k).phase = p.phase
          ∧ (s'.thread t).member k = some { m with nx := m.nx + 1 } ∧ s'.phys = s.phys)
      ∧ (m.nx ≠ p.phase → s.phSignal t k = none)
      ∧ (p.phase = m.lp → ∀ d, s.phWait t k d = none)
      ∧ (p.phase ≠ m.lp → ∀ q, ∃ s', s.phWait t k (.reg q 1) = some s' ∧ (s'.thread t).member k = some { m with lp := m.lp + 1 }
          ∧ (s'.thread t).regs.lookD q {} = ⟨m.lp + 1, false⟩ ∧ s'.phaser k = p))
    ∧ ((∀ f ∈ s.flushes, f.phaser ≠ some k) →
      let s1 := s.phAdvanceCount k
      s1.phaser k = { p with phase := p.phase + 1, arr := 0 } ∧ s1.threads = s.threads ∧ s1.phys = s.phys
      ∧ (s.phaserWaiters k = [] → s.phAdvance k = s1)
      ∧ (∀ d s2, s.phaserWaiters k = [t] → isSavedTid t = false → (s.thread t).run = .parked (.phaser k false true d) → s1.phWait t k d = some s2 →
          s.phAdvance k = (s2.phAcquire t k).unpark t))

/-- Windows and mappings (R236 to R239, R108, R409): WOPEN takes the lowest free slot of the core and answers its space-10 address, or all ones where none is free; WSHUT closes a slot of the thread's crew; SPMAP records a pending mapping and parks until every home has answered; SPUNMAP parks until the rows are at their homes; the two completions do that, with the records of the poisoned granules they read (R375), and let the thread go on. -/
def Obligations.WindowAndMappingResults : Prop :=
  (∀ (dd a b : BitVec 7) (s : State) (t : Nat) (x' : Thread) (vs : List (Pos × OpVal)) (d : Dest) (c : Crew) (k : Nat),
    let i : Instr := .wopen dd a b
    Solo i s t x' vs d →
    let s0 := s.took i t x'
    let off := nv (valsOf vs) 0
    let f := nv (valsOf vs) 1
    let x := s0.core (coreOf t)
    s0.crewOf t = some c → s0.crewIdOf t = some k → off < c.alloc → c.alloc < 2 ^ 32 → off % 128 = 0 → f < 8 →
    (∀ n, (List.range 64).find? (fun n => !(x.windows.lookD n {}).v) = some n →
      exec i s = .next (((s0.setCore (coreOf t)
        { x with windows := x.windows.put n { v := true, sw := bit f 2, wcore := f % 4, row := off / 128, crew := k } }).writeDest
          t d (coreOf t % 4 * 2 ^ 13 + n * 2 ^ 7) false).advance t))
    ∧ ((∀ n, n < 64 → (x.windows.lookD n {}).v = true) → exec i s = .next ((s0.writeDest t d 0xffffffff false).advance t)))
  ∧ (∀ (a : BitVec 7) (s : State) (t : Nat) (x' : Thread) (vs : List (Pos × OpVal)) (d : Dest) (n : Nat),
    let i : Instr := .wshut a
    Solo i s t x' vs d →
    let s0 := s.took i t x'
    let x := s0.core (coreOf t)
    let w := x.windows.lookD n {}
    n < 64 → nv (valsOf vs) 0 = coreOf t % 4 * 2 ^ 13 + n * 2 ^ 7 → w.v = true → s0.crewIdOf t = some w.crew →
    exec i s = .next ((s0.setCore (coreOf t) { x with windows := x.windows.put n { w with v := false } }).advance t))
  ∧ (∀ (dd a b : BitVec 7) (s : State) (t : Nat) (x' : Thread) (vs : List (Pos × OpVal)) (d : Dest) (c : Crew) (k : Nat) (q : Context),
    let i : Instr := .spmap dd a b
    Solo i s t x' vs d →
    let s0 := s.took i t x'
    let p := nv (valsOf vs) 0
    let f := nv (valsOf vs) 1
    let n := f / 2 ^ 16 + 1
    let row := f % 2 ^ 13
    s0.crewOf t = some c → s0.crewIdOf t = some k → s0.contexts.look (s0.ctxOf t) = some q → s0.busy t = false → p % 128 = 0 →
    f < 2 ^ 25 → bits f 15 13 = 0 → (row + n) * 128 ≤ c.alloc →
    let e := s0.boundsOf q.btab (regionOf p)
    bit e.ctl 0 = true → e.base ≤ vaOf p → e.permits .readWrite = true → vaOf p + 128 * n - 1 ≤ e.limit → bit e.ctl 6 = false →
    ∀ s1 pas j, s0.mapLines t p p n = (s1, .ok pas) → (List.range 64).find? (fun j => ((s1.core (coreOf t)).maps.look j).isNone) = some j →
      let s2 := s1.writeBackAll (coreOf t) (s0.ctxOf t) fun a => pas.contains (lineOf a)
      let y := s2.core (coreOf t)
      let m : SpMapping := { crew := k, ptr := p, pas := pas, row := row, pending := true, tid := t, insn := (encode i).toNat, pkt := s2.cur.num }
      exec i s = .next ((s2.setCore (coreOf t) { y with maps := y.maps.put j m }).park t (.spmap j d)))
  ∧ (∀ (a : BitVec 7) (s : State) (t : Nat) (x' : Thread) (vs : List (Pos × OpVal)) (d : Dest) (m : SpMapping),
    let i : Instr := .spunmap a
    Solo i s t x' vs d →
    let s0 := s.took i t x'
    let n := nv (valsOf vs) 0
    n < 2 ^ 32 → s0.busy t = false → (s0.core (coreOf t)).maps.look n = some m → s0.crewIdOf t = some m.crew →
    let y := s0.core (coreOf t)
    exec i s = .next ((s0.setCore (coreOf t) { y with maps := y.maps.put n { m with tid := t, insn := (encode i).toNat, pkt := s0.cur.num } }).park t (.spunmap n)))
  ∧ (∀ (s : State) (core num : Nat) (m : SpMapping) (c : Crew), (s.core core).maps.look num = some m → m.pending = true → s.crews.look m.crew = some c →
    let s1 := m.pas.zipIdx.foldl (fun (s : State) (x : Nat × Nat) =>
      let r := s.homeFetch (m.op s core x.1 0) 128
      r.2.scratchWrite (c.scratchByte core ((m.row + x.2) * 128)) r.1) s
    let s2 := s1.setCore core { s1.core core with maps := (s1.core core).maps.put num { m with pending := false } }
    exec (.spmapComplete core num) s = .next (s2.wakeMapping core (fun q => match q with
      | .spmap i d => if i = num then some d else none
      | _ => none) num))
  ∧ (∀ (s : State) (core num : Nat), (s.threads.any fun y => decide (y.2.run = .parked (.spunmap num)) && decide (coreOf y.1 = core) && !isQueueTid y.1) = true →
    let s1 := match (s.core core).maps.look num with
      | none => s
      | some m => m.pas.foldl (fun (s : State) pa => match s.mappedLine pa with
        | some (_, _, a) => s.noteReads (m.op s core a 1) 2 4 (a % 2 ^ 20) (s.scratch.read 4 a 128)
        | none => s) s
    exec (.spunmapComplete core num) s = .next ((s1.unmapRows core num).wakeMapping core (fun q => match q with
      | .spunmap i => if i = num then some .none else none
      | _ => none) 0))

/-- Engine queues (R243): a command whose queue is full, or whose thread's counter stands at 255, is left out of the packet and nothing changes. A structure that is not aligned is refused with reason 1 (R242, R415). A refusal names the lowest reason of its offences, and the lowest offset of that reason. -/
def Obligations.EngineQueuesAndRefusals : Prop :=
  (∀ (dd : BitVec 7) (a : BitVec 7) (tg : BitVec 6) (f : Bool) (s : State) (t : Nat) (x' : Thread) (vs : List (Pos × OpVal)) (d : Dest),
    let p := nv (valsOf vs) 0
    (∀ i ∈ [Instr.bload dd a tg, .copy dd a tg, .gath dd a tg, .scat dd a tg], Solo i s t x' vs d →
      let s0 := s.took i t x'
      (s0.copyFull t (copyQueue dd) = true → exec i s = .next s)
      ∧ (s0.copyFull t (copyQueue dd) = false → p % 32 ≠ 0 → Refuses i s t s0 { group := 5, code := 1, addr := p, d0 := noField, d1 := 1 }))
    ∧ (Solo (.mxop a tg f) s t x' vs d →
      let s0 := s.took (.mxop a tg f) t x'
      (16 ≤ (s0.mxSlots (coreOf t)).length ∨ 255 ≤ (s0.thread t).tiles → exec (.mxop a tg f) s = .next s)
      ∧ ((s0.mxSlots (coreOf t)).length < 16 → (s0.thread t).tiles < 255 → p % 64 ≠ 0 →
          Refuses (.mxop a tg f) s t s0 { group := 4, code := 1, addr := p, d0 := noField, d1 := 1 }))
    ∧ (Solo (.trace a tg f) s t x' vs d →
      let s0 := s.took (.trace a tg f) t x'
      (2048 ≤ s0.raysOn (coreOf t) → exec (.trace a tg f) s = .next s)
      ∧ (s0.raysOn (coreOf t) < 2048 → p % 256 ≠ 0 → Refuses (.trace a tg f) s t s0 { group := 6, code := 1, addr := p, d0 := noField, d1 := 1 }))
    ∧ (Solo (.march a tg) s t x' vs d →
      let s0 := s.took (.march a tg) t x'
      let n := (s0.ops.filter fun o => o.core = coreOf t && o.kind = .march).length
      (8 ≤ n ∨ 255 ≤ (s0.thread t).tiles → exec (.march a tg) s = .next s)
      ∧ (n < 8 → (s0.thread t).tiles < 255 → p % 64 ≠ 0 → Refuses (.march a tg) s t s0 { group := 7, code := 1, addr := p, d0 := noField, d1 := 1 }))
    ∧ (∀ dt : BitVec 6, Solo (.tres dt a f) s t x' vs d → p % 16 ≠ 0 →
      Refuses (.tres dt a f) s t (s.took (.tres dt a f) t x') { group := 4, code := 1, addr := p, d0 := noField, d1 := 1 }))
  ∧ (∀ (g p : Nat) (l : List Offence), (∀ x ∈ l, x.1 < 99 ∧ x.2 ≤ noField) →
    (l = [] → refusal g p l = none)
    ∧ (l ≠ [] → ∃ r o, (r, o) ∈ l ∧ refusal g p l = some { group := g, code := 1, addr := p, d0 := o, d1 := r }
        ∧ ∀ x ∈ l, r ≤ x.1 ∧ (x.1 = r → o ≤ x.2)))

/-- Tile-store reservations (R249, R250): TRES answers the crew-local number of the rows it reserves, or all ones without .wait where there is no place, or parks in the core's line; a malformed request is refused. TREL frees a record, or parks while an accepted operation names it. The retry serves the line in order: a thread that finds its place goes on, and one that does not stays in the line while those after it try. The release frees a parked TREL's record once nothing names it. A reservation that is made has a base that is a multiple of 2^ALIGN, and its rows lie within the store and meet no other record of the core. -/
def Obligations.TileReservationResults : Prop :=
  (∀ (dd : BitVec 6) (a : BitVec 7) (f : Bool) (s : State) (t : Nat) (x' : Thread) (vs : List (Pos × OpVal)) (d : Dest) (k : Nat),
    let i : Instr := .tres dd a f
    Solo i s t x' vs d →
    let p := nv (valsOf vs) 0
    p % 16 = 0 → ∀ s1 b psn w, (s.took i t x').readStruct t p 16 (encode i).toNat = .ok s1 b psn w → s1.crewIdOf t = some k →
    let offs := s1.commandOffences t none psn ++ tresOffences b
    let x := s1.core (coreOf t)
    (∀ c, refusal 4 p offs = some c → Refuses i s t s1 c)
    ∧ (offs = [] →
      (∀ s2 n, s1.tryTres (coreOf t) k (s1.ctxOf t) b = some (s2, n) → exec i s = .next ((s2.writeDest t d n false).advance t))
      ∧ (s1.tryTres (coreOf t) k (s1.ctxOf t) b = none →
          (f = false → exec i s = .next ((s1.writeDest t d 0xffffffff false).advance t))
          ∧ (f = true → exec i s = .next ((s1.setCore (coreOf t) { x with tresQ := x.tresQ ++ [t] }).park t (.tres b d))))))
  ∧ (∀ (a : BitVec 7) (s : State) (t : Nat) (x' : Thread) (vs : List (Pos × OpVal)) (d : Dest) (k : Nat),
    let i : Instr := .trel a
    Solo i s t x' vs d →
    let s0 := s.took i t x'
    let n := nv (valsOf vs) 0 % 2 ^ 32
    s0.crewIdOf t = some k →
    (s0.resOf (coreOf t) k n = none → Refuses i s t s0 { group := 4, code := 1, d0 := noField, d1 := 6 })
    ∧ (s0.resOf (coreOf t) k n ≠ none → s0.busy t = false →
      (s0.resBusy (coreOf t) k n = false → exec i s = .next ((s0.freeRes (coreOf t) k n).advance t))
      ∧ (s0.resBusy (coreOf t) k n = true → exec i s = .next (s0.park t (.trel n)))))
  ∧ (∀ (core t : Nat) (r : List Nat) (s : State) (b : List Byte) (d : Dest) (k : Nat),
    (s.core core).tresQ = t :: r → coreOf t = core → (s.crewOf t).all (fun c => c.run = .running) = true → (s.thread t).run = .parked (.tres b d) →
    s.crewIdOf t = some k →
    let rest (s : State) : State := r.foldl (fun s u => if (s.crewOf u).all (fun c => c.run = .running) then s.retryTres u else s) s
    (∀ s1 n, s.tryTres core k (s.ctxOf t) b = some (s1, n) →
      let s2 := ((s1.setCore core { s1.core core with tresQ := (s1.core core).tresQ.filter (· ≠ t) }).writeDest t d n false).unpark t
      s.retryTres t = s2 ∧ exec (.tresRetry core) s = .next (rest s2))
    ∧ (s.tryTres core k (s.ctxOf t) b = none → s.retryTres t = s ∧ exec (.tresRetry core) s = .next (rest s)))
  ∧ (∀ (core : Nat) (s : State), (s.core core).tresQ = [] → exec (.tresRetry core) s = .next s)
  ∧ (∀ (t k n : Nat) (s : State), (s.thread t).run = .parked (.trel n) → s.crewIdOf t = some k → s.resBusy (coreOf t) k n = false → isSavedTid t = false →
    exec (.trelRelease t) s = .next ((s.freeRes (coreOf t) k n).unpark t))
  ∧ (∀ (s : State) (core k ctx : Nat) (b : List Byte) (c : Crew) (s' : State) (n : Nat),
    FMap.rising (s.core core).recs = true → s.crews.look k = some c → c.cores.contains core = true →
    s.tryTres core k ctx b = some (s', n) →
    ∃ i r, s'.resOf core k n = some (i, r) ∧ r.rows = fld b 0 2 ∧ r.base % 2 ^ fld b 9 1 = 0 ∧ r.base + r.rows ≤ 8192
      ∧ ∀ j q, (s'.core core).recs.look j = some q → j ≠ i → q.base + q.rows ≤ r.base ∨ r.base + r.rows ≤ q.base)

/-- MXOP and MXSWAP (R255, R257, R418): with its block well formed and its crew's banks current, an MXOP takes the last place of mxc with the next SEQ, counts as a tile operation and issues its tag; a wrong bank or a crew without banks traps as bank misuse; MXSWAP takes a place after the operations its thread issued. -/
def Obligations.MatrixIssueResults : Prop :=
  (∀ (a : BitVec 7) (tg : BitVec 6) (f : Bool) (s : State) (t : Nat) (x' : Thread) (vs : List (Pos × OpVal)) (d : Dest) (k : Nat),
    let i : Instr := .mxop a tg f
    Solo i s t x' vs d →
    let s0 := s.took i t x'
    let p := nv (valsOf vs) 0
    let core := coreOf t
    (s0.mxSlots core).length < 16 → (s0.thread t).tiles < 255 → p % 64 = 0 →
    ∀ s1 b psn w, s0.readStruct t p 64 (encode i).toNat = .ok s1 b psn w → s1.crewIdOf t = some k →
    let offs := s1.commandOffences t (some tg.toNat) psn ++ s1.mxOffences core k b
    (∀ c, refusal 4 p offs = some c → Refuses i s t s1 c)
    ∧ (offs = [] →
      (s1.holdsBanks core (some k) = false → Refuses i s t s1 { group := 4, code := 3, d0 := 2, addr := p })
      ∧ (s1.holdsBanks core (some k) = true → s1.pbank core (some k) ≠ (parseMx b).bank → Refuses i s t s1 { group := 4, code := 3, d0 := 1, addr := p })
      ∧ (s1.holdsBanks core (some k) = true → s1.pbank core (some k) = (parseMx b).bank →
        let s2 := s1.trimMxc core
        let c := s2.core core
        let m : MxCmd :=
          { op := s2.uid, swap := false, tid := t, crew := k, ctx := s2.ctxOf t, pb := b, tag := tg.toNat, stat := f, seq := (c.mxSeq + 1).toNat % 65536,
            pc := (s2.thread t).pc.toNat, insn := (encode i).toNat,
            units := ((s2.resOf core k (parseMx b).ares).map fun x => s2.budget core x.2 (parseMx b)).getD 0 }
        let s3 := { s2 with uid := s2.uid + 1 }.setCore core
          { c with mxc := c.mxc ++ [m], mxSeq := c.mxSeq + 1, clashes := c.clashes ++ (s2.copiesOn core).flatMap fun o => s2.clashOf o m }
        exec i s = .next (((s3.tagIssue k tg.toNat).addTiles t).advance t))))
  ∧ (∀ (s : State) (t : Nat) (x' : Thread) (vs : List (Pos × OpVal)) (d : Dest),
    Solo .mxswap s t x' vs d →
    let s0 := s.took .mxswap t x'
    let core := coreOf t
    (s0.mxSlots core).length < 16 → s0.busy t = false →
    (s0.holdsBanks core (s0.crewIdOf t) = false → Refuses .mxswap s t s0 { group := 4, code := 3, d0 := 2 })
    ∧ (s0.holdsBanks core (s0.crewIdOf t) = true →
      let s2 := s0.trimMxc core
      let c := s2.core core
      let m : MxCmd :=
        { op := s2.uid, swap := true, tid := t, crew := (s2.crewIdOf t).getD 0, ctx := s2.ctxOf t, pb := [], tag := 0, stat := false, seq := 0,
          pc := (s2.thread t).pc.toNat, insn := (encode .mxswap).toNat }
      exec .mxswap s = .next (({ s2 with uid := s2.uid + 1 }.setCore core { c with mxc := c.mxc ++ [m] }).advance t)))

/-- BLOAD, COPY, GATH and SCAT (R242, R259, R260, R266 to R268): a well-formed command enters the queue that its D code names with its tag, its place in the thread's sequence and the thread's copy counter; a BLOAD also takes the banks, traps where another crew holds them (R110, R418), or waits where a save that has begun or a resuming crew claims them (log 47, the model's choice); an offence refuses it (R415). -/
def Obligations.CopyIssueResults : Prop :=
  (∀ (dd a : BitVec 7) (tg : BitVec 6) (s : State) (t : Nat) (x' : Thread) (vs : List (Pos × OpVal)) (d : Dest) (k : Nat),
    let q := copyQueue dd
    let p := nv (valsOf vs) 0
    p % 32 = 0 →
    (∀ x ∈ [(Instr.bload dd a tg, true), (.copy dd a tg, false)], Solo x.1 s t x' vs d →
      let s0 := s.took x.1 t x'
      s0.copyFull t q = false →
      ∀ s1 b psn w, s0.readStruct t p 32 (encode x.1).toNat = .ok s1 b psn w → s1.crewIdOf t = some k →
      let offs := s1.commandOffences t (some tg.toNat) psn ++ s1.copyOffences (coreOf t) k (s1.ctxOf t) x.2 b
      let o : EngOp := { s1.newEng t (.copy x.2) tg.toNat p (encode x.1).toNat b with queue := q }
      (∀ c, refusal 5 p offs = some c → Refuses x.1 s t s1 c)
      ∧ (offs = [] →
        (x.2 = false → exec x.1 s = .next ((s1.acceptCopy o).advance t))
        ∧ (x.2 = true → (∀ s2, s1.takeBanks (coreOf t) k = .taken s2 → exec x.1 s = .next ((s2.acceptCopy o).advance t))
          ∧ (s1.takeBanks (coreOf t) k = .wait → exec x.1 s = .next s)
          ∧ (s1.takeBanks (coreOf t) k = .misuse → Refuses x.1 s t s1 { group := 4, code := 3, d0 := 2, addr := p }))))
    ∧ (∀ x ∈ [(Instr.gath dd a tg, true), (.scat dd a tg, false)], Solo x.1 s t x' vs d →
      let s0 := s.took x.1 t x'
      s0.copyFull t q = false →
      ∀ s1 b psn w, s0.readStruct t p 32 (encode x.1).toNat = .ok s1 b psn w → s1.crewIdOf t = some k → fld b 0 8 % 32 = 0 →
      ∀ s2 e psn' w', s1.readStruct t (fld b 0 8) 32 (encode x.1).toNat = .ok s2 e psn' w' →
      let offs := s1.commandOffences t (some tg.toNat) psn ++ offends psn' 5 noField ++ s2.tableOffences (coreOf t) k (s2.ctxOf t) x.2 b e w'
      let o : EngOp := { s2.newEng t (if x.2 then .gath else .scat) tg.toNat p (encode x.1).toNat b with queue := q, desc := e }
      (∀ c, refusal 5 p offs = some c → Refuses x.1 s t s2 c)
      ∧ (offs = [] → exec x.1 s = .next ((s2.acceptCopy o).advance t))))
  ∧ (∀ (s : State) (o : EngOp), s.overlapped o = none → (s.core o.core).mxc = [] →
    let s' := s.acceptCopy o
    s'.ops = s.ops ++ [{ o with overlap := none }] ∧ s'.phys = s.phys ∧ s'.tile = s.tile ∧ s'.banks = s.banks ∧ s'.scratch = s.scratch ∧ s'.l1 = s.l1)

/-- TRACE, TDEC, MARCH and EMIT (R270 to R279): a ray, a march command or a stream's record is accepted with all its structures read; a decision takes effect on the suspended ray of its hit record; an intersection candidate's t is taken from the record where it lies in range (R274). -/
def Obligations.RayAndStreamIssueResults : Prop :=
  (∀ (a : BitVec 7) (tg : BitVec 6) (f : Bool) (s : State) (t : Nat) (x' : Thread) (vs : List (Pos × OpVal)) (d : Dest),
    let i : Instr := .trace a tg f
    Solo i s t x' vs d →
    let s0 := s.took i t x'
    let p := nv (valsOf vs) 0
    s0.raysOn (coreOf t) < 2048 → p % 256 = 0 →
    ∀ s1 b psn w, s0.readStruct t p 256 (encode i).toNat = .ok s1 b psn w →
    let offs := s1.commandOffences t (some tg.toNat) psn ++ rayOffences b w
    (∀ c, refusal 6 p offs = some c → Refuses i s t s1 c)
    ∧ (offs = [] → exec i s = .next ((s1.acceptEng { s1.newEng t .trace tg.toNat p (encode i).toNat (b.take 64) with flag := f }).advance t)))
  ∧ (∀ (a : BitVec 7) (s : State) (t : Nat) (x' : Thread) (vs : List (Pos × OpVal)) (d : Dest),
    ∀ q ∈ [(Instr.tdecCont a, false, false), (.tdecAcc a, true, false), (.tdecTerm a, true, true)], Solo q.1 s t x' vs d →
    let s0 := s.took q.1 t x'
    let p := nv (valsOf vs) 0
    s0.busy t = false →
    (p % 64 ≠ 0 → Refuses q.1 s t s0 { group := 6, code := 1, addr := p, d0 := noField, d1 := 1 })
    ∧ (p % 64 = 0 → s0.suspendedRay t p = none → Refuses q.1 s t s0 { group := 6, code := 1, addr := p, d0 := noField, d1 := 7 })
    ∧ (∀ o kind h, p % 64 = 0 → s0.suspendedRay t p = some o → o.ray.cand = some (kind, h) →
      (q.2.1 = false → exec q.1 s = .next ((s0.setEng (o.decide none q.2.2)).advance t))
      ∧ (q.2.1 = true → kind = 1 → exec q.1 s = .next ((s0.setEng (o.decide (some h) q.2.2)).advance t))
      ∧ (q.2.1 = true → kind ≠ 1 → ∀ s1 b w, s0.readStruct t p 4 (encode q.1).toNat = .ok s1 b false w →
          let tb := fld b 0 4
          let inRange : Prop := f32.isNaN tb = false ∧ key32 (rayOf o.cmd).tmin ≤ key32 tb ∧ key32 tb ≤ key32 o.ray.tmax
          (inRange → exec q.1 s = .next ((s1.setEng (o.decide (some { h with t := tb }) q.2.2)).advance t))
          ∧ (¬ inRange → exec q.1 s = .next ((s1.setEng (o.decide none q.2.2)).advance t)))))
  ∧ (∀ (a : BitVec 7) (tg : BitVec 6) (s : State) (t : Nat) (x' : Thread) (vs : List (Pos × OpVal)) (d : Dest) (k : Nat),
    let i : Instr := .march a tg
    Solo i s t x' vs d →
    let s0 := s.took i t x'
    let p := nv (valsOf vs) 0
    let insn := (encode i).toNat
    (s0.ops.filter fun o => o.core = coreOf t && o.kind = .march).length < 8 → (s0.thread t).tiles < 255 → p % 64 = 0 →
    ∀ s1 b psn w, s0.readStruct t p 64 insn = .ok s1 b psn w → s1.crewIdOf t = some k →
    (parseMarch b).occ % 64 = 0 → (parseMarch b).grid % 64 = 0 →
    ∀ s2 e psn1 w1, s1.readStruct t (parseMarch b).occ 64 insn true = .ok s2 e psn1 w1 →
    ∀ s3 g psn2 w2, s2.readStruct t (parseMarch b).grid 64 insn true = .ok s3 g psn2 w2 →
    let offs := s1.commandOffences t (some tg.toNat) psn ++ offends (psn1 || psn2) 5 noField ++ s3.marchOffences (coreOf t) k b ++ occOffences e
      ++ gridOffences (parseMarch b).levels g ++ offends w1 8 8 ++ offends w2 8 16
    (∀ c, refusal 7 p offs = some c → Refuses i s t s3 c)
    ∧ (offs = [] → exec i s = .next (((s3.acceptEng { s3.newEng t .march tg.toNat p insn b with desc := e ++ g }).addTiles t).advance t)))
  ∧ (∀ (a : BitVec 7) (f : Bool) (s : State) (t : Nat) (x' : Thread) (vs : List (Pos × OpVal)) (d : Dest),
    let i : Instr := .emit a f
    Solo i s t x' vs d →
    let s0 := s.took i t x'
    let b := leBytes 16 (nv (valsOf vs) 0)
    let insn := (encode i).toNat
    let offs := emitOffences b (s0.emitOpen t)
    let pushed (s : State) (p : Nat) (r : List Byte) : State :=
      ((s.pushEng { s.newEng t .emit 0 p insn b with flag := f, desc := r }).bumpSeq t).advance t
    (64 ≤ s0.prmCount (coreOf t) ∨ s0.busy t = true → exec i s = .next s)
    ∧ (s0.prmCount (coreOf t) < 64 → s0.busy t = false →
      (∀ c, fld b 0 1 ≠ 0 → refusal 7 0 offs = some c → Refuses i s t s0 c)
      ∧ (fld b 0 1 ≠ 0 → offs = [] → exec i s = .next (pushed s0 0 []))
      ∧ (fld b 0 1 = 0 → fld b 4 8 % 64 ≠ 0 → Refuses i s t s0 { group := 7, code := 1, addr := 0, d0 := 4, d1 := 1 })
      ∧ (fld b 0 1 = 0 → fld b 4 8 % 64 = 0 → ∀ s1 e psn w, s0.readStruct t (fld b 4 8) 64 insn = .ok s1 e psn w →
          let more := offs ++ outOffences e ++ offends psn 5 noField ++ offends w 8 4
          (∀ c, refusal 7 0 more = some c → Refuses i s t s1 c)
          ∧ (more = [] → exec i s = .next (pushed s1 (fld b 4 8) e)))))

/-- Queue programs (R280 to R286): LAUNCH answers 0 and a record at level 0 for an invalid launch record, else the grid's handle, and the grid waits in lch for the dispatcher; GWAIT parks until the grid has finished and traps on a handle its queue has not made; QSIG counts, stores its value and raises the queue's vector; a write of QC_QPC with GO starts a program at its entry, or sets REJ. The dispatcher takes the oldest record of a queue core, and a queue core's cycle issues for the next ready program after the one it served last. A GO whose slot entry is not valid, and that REJ leaves ENTRY as it was, are the model's choice (log 40). -/
def Obligations.QueueProgramResults : Prop :=
  (∀ (dd : BitVec 6) (a : BitVec 7) (s : State) (t : Nat) (x' : Thread) (vs : List (Pos × OpVal)) (d : Dest),
    let i : Instr := .launch dd a
    Solo i s t x' vs d →
    let s0 := s.took i t x'
    let p := nv (valsOf vs) 0
    let q := queueOf t
    (s0.launchStalled q = true ∨ s0.busy t = true → exec i s = .next s)
    ∧ (s0.launchStalled q = false → s0.busy t = false → ∀ s1 g, s0.check t 0 p 64 64 .read = (s1, .ok g) →
      let o := s1.issueRead t g 64 (encode i).toNat
      let taken (s2 : State) (bs : List MByte) : Prop :=
        let why := launchCause (firstPoisoned bs) (s2.launchOffences q (bs.map (·.1)))
        let l := s2.pushLaunch q (bs.map (·.1))
        (∀ c, why = some c → exec i s = .next (((s2.writeDest t d 0 false).advance t).recorded t c i s.leadPc))
        ∧ (why = none → exec i s = .next ((l.1.writeDest t d l.2 false).advance t))
      (g.place = 3 → taken s1 (clean (s1.regRead g.pa 64)))
      ∧ (g.place = 2 → s1.l1Has o.core o.ctx o.pa 64 = true →
          taken (s1.l1Drop o.core o.ctx fun x => lineOf x = lineOf o.pa) (s1.l1Bytes o.core o.ctx o.pa 64))
      ∧ (g.place ≠ 2 → g.place ≠ 3 → s1.reachable o = true → taken (s1.readOp o).2 (s1.readOp o).1)))
  ∧ (∀ (q : Nat) (r : List Byte) (s : State), q < 64 →
    let l := s.pushLaunch q r
    let h := q * 2 ^ 26 + (s.queue q).launches % (2 ^ 26 - 1) + 1
    l.2 = h ∧ (l.1.queue q).launches = (s.queue q).launches + 1 ∧ (l.1.qcore (q / 8)).lch = (s.qcore (q / 8)).lch ++ [h]
      ∧ (l.1.grids.look h).map (·.record) = some r)
  ∧ (∀ (a : BitVec 7) (s : State) (t : Nat) (x' : Thread) (vs : List (Pos × OpVal)) (d : Dest),
    let i : Instr := .gwait a
    Solo i s t x' vs d →
    let s0 := s.took i t x'
    let h := nv (valsOf vs) 0 % 2 ^ 32
    let mine : Prop := h / 2 ^ 26 = queueOf t ∧ h % 2 ^ 26 ≠ 0 ∧ h % 2 ^ 26 ≤ (s0.queue (queueOf t)).launches
    (¬ mine → Refuses i s t s0 { group := 1, code := 0x10, d0 := h })
    ∧ (mine → s0.readsPending t = false →
      (s0.grids.look h ≠ none → exec i s = .next (s0.park t (.gwait h))) ∧ (s0.grids.look h = none → exec i s = .next (s0.advance t))))
  ∧ (∀ (a : BitVec 7) (s : State) (t : Nat) (x' : Thread) (vs : List (Pos × OpVal)) (d : Dest),
    let i : Instr := .qsig a
    Solo i s t x' vs d →
    let s0 := s.took i t x'
    let q := queueOf t
    s0.busy t = false → ∀ s1, s0.tryRelease 4 (coreOf t) (s0.ctxOf t) = (s1, true) →
    let x := s1.queue q
    exec i s = .next (((s1.setQueue q { x with sigCount := x.sigCount + 1, sigValue := wv (valsOf vs) 0 }).raise q).advance t))
  ∧ (∀ (q : Nat) (v : Dword) (s : State), q < 64 → s.hostUp = false → exec (.queueGo q v) s = .next s)
  ∧ (∀ (q : Nat) (v : Dword) (s : State), q < 64 → s.hostUp = true →
    let x := { s.queue q with entry := v }
    let t := Config.coreThreads + q
    (v.getLsbD 0 = false → exec (.queueGo q v) s = .next (s.setQueue q x))
    ∧ (v.getLsbD 0 = true → (s.queue q).run = false → s.gridsOf q = 0 → (s.slot q).valid = true →
      exec (.queueGo q v) s = .next (({ s with heldPops := s.heldPops.filter fun h => h.tid ≠ t }.setQueue q
        { x with run := true, qctx := (s.slot q).ctx }).setThread t { run := .ready, pc := v &&& ~~~3 }))
    ∧ (v.getLsbD 0 = true → (s.queue q).run = true ∨ s.gridsOf q ≠ 0 ∨ (s.slot q).valid = false →
      exec (.queueGo q v) s = .next (s.setQueue q { s.queue q with rej := true })))
  ∧ (∀ (n h : Nat) (r : List Nat) (g : Grid) (s : State), (s.qcore n).lch = h :: r → s.grids.look h = some g →
    let s1 := s.setQcore n { s.qcore n with lch := r }
    (g.aborted = true → exec (.launchDispatch n) s = .next s1)
    ∧ (g.aborted = false → exec (.launchDispatch n) s = .next
      { s1 with grids := s1.grids.put h { g with taken := true, ranges := s1.splitGrid g, since := s1.waitClock g } }))
  ∧ (∀ (n i : Nat) (s : State), n < 8 → s.picks.any (fun p => p.tids.any fun t => isQueueTid t && queueOf t / 8 = n) = false →
    let s1 := s.setQcore n { s.qcore n with cyc := (s.qcore n).cyc + 1 }
    ((List.range 8).map fun j => ((s.qcore n).last + 1 + j) % 8).find? (fun j => s1.programReady (8 * n + j)) = some i →
    let s2 := s1.setQcore n { s1.qcore n with last := i }
    exec (.queueCoreCycle n) s = .next { s2 with picks := s2.picks ++ [{ tids := [Config.coreThreads + 8 * n + i], pipe := 0, num := s2.uid }], uid := s2.uid + 1 })

/-- Events of the matrix unit (R110, R244, R255, R257, R310 to R312): MATRIX_START starts the eligible head that wins arbitration, MXSWAP_EFFECT makes the other bank current once every MXOP accepted before it has started, MXOP_COMPLETE finishes a started operation once no earlier one that it must follow remains and its release is complete, and BANK_SAVE hands a pre-empted crew's banks to the crew that waits. Arbitration (R312): a command passed over four times goes first, in order; else the one of fewest budget units, the lower quarter where they tie. Latencies are left out: an event comes when it is listed or due (logs 1 and 2, the model's choice). -/
def Obligations.MatrixEvents : Prop :=
  (
  (∀ (core : Nat) (m : MxCmd) (s : State), arbitrate ((s.core core).mxc.filter (s.eligible core)) = some m →
    exec (.matrixStart core) s = .next (s.startMx core m))
  ∧ (∀ (core : Nat) (m : MxCmd) (s : State),
    let c := s.core core
    c.mxc.find? (·.swap) = some m → isHead c.mxc m = true → (∀ x ∈ mxBefore c.mxc m, x.stage ≠ 0) → c.bankCrew = some m.crew →
    exec (.mxswapEffect core) s = .next (s.setCore core { c with mxc := c.mxc.filter fun x => x.op ≠ m.op, bank := 1 - c.bank }))
  ∧ (∀ (core : Nat) (m : MxCmd) (j : Nat) (s : State), s.mxFree core m j = true ↔
    ∀ x ∈ mxBefore (s.core core).mxc m, x.swap = false → x.stage = 1 → ∀ i, x.part.outs ≤ i → i < (parseMx x.pb).m * (parseMx x.pb).n →
      ∀ a n b k, s.mxPlace core m j = some (a, n) → s.mxPlace core x i = some (b, k) → a + n ≤ b ∨ b + k ≤ a)
  ∧ (∀ (core op : Nat) (m : MxCmd) (s s1 : State) (i j : Nat) (ra rc : TileRec),
    let p := parseMx m.pb
    s.cores.findSome? (fun x => (x.2.mxc.find? fun y => y.op = op && y.stage = 1).map fun y => (x.1, y)) = some (core, m) →
    (∀ j, m.part.outs ≤ j → j < p.m * p.n → s.mxFree core m j = true) →
    s.tryRelease p.scope core m.ctx = (s1, true) → s1.resOf core m.crew p.ares = some (i, ra) → s1.resOf core m.crew p.cres = some (j, rc) →
    exec (.mxopComplete op) s = .next (s1.finishMx core m p ra rc))
  ∧ (∀ (core j k : Nat) (c : Crew) (s : State), (s.core core).bankTaker = some j → (s.core core).bankCrew = some k → s.namesBanks core k = false →
    s.crews.look k = some c →
    exec (.bankSave core) s =
      .next ((s.setCrew k { c with saved := { c.saved with banks := c.saved.banks.put (c.parity core) (s.bankContents core) } }).giveBanks core j))
  ∧ (∀ (core j : Nat) (s : State), (s.core core).bankTaker = some j → (s.core core).bankCrew = none → exec (.bankSave core) s = .next (s.giveBanks core j)))
  ∧ (
  ∀ (l : List MxCmd) (m : MxCmd), arbitrate l = some m →
    m ∈ l ∧ (l.find? (fun x => 4 ≤ x.passed) = some m ∨ ∀ x ∈ l, x.passed < 4 ∧ (m.units < x.units ∨ m.units = x.units ∧ quarterOf m.tid ≤ quarterOf x.tid)))

/-- An element of an integer matrix product (R81): the accumulator plus the sum of the products of signed bytes, modulo 2^32; the two operands may be exchanged. -/
def Obligations.IntegerMatrixElement : Prop :=
  (∀ (k : Nat) (ra rb : List Byte) (acc : Nat),
    (intOut k ra rb acc : Int) =
      ((acc : Int) + ((List.range k).map fun i => (ra.getD i 0).toInt * (rb.getD i 0).toInt).foldr (· + ·) 0) % 2 ^ 32)
  ∧ (∀ (k : Nat) (ra rb : List Byte) (acc : Nat), intOut k ra rb acc < 2 ^ 32)
  ∧ ∀ (k : Nat) (ra rb : List Byte) (acc : Nat), intOut k ra rb acc = intOut k rb ra acc

/-- Events of the copy engine, the traversal unit, the sampler and the rasteriser (R62, R244, R264, R269, R273, R276, R279): each goes on with the operation it names where its turn has come, and where nothing holds it does what the engine's own description says. The views hold at most four entries, oldest first (R62, R243): an entry pushed to a thread that has not exited enters its view while the crew runs, no older entry of it is held and fewer than four are there, and else the engine holds it. In which steps an engine's accesses are performed (log 46), when samplers and rasterisers take commands and records (log 48), and that an event whose turn has not come does nothing (log 19) are the model's choice. -/
def Obligations.EngineEvents : Prop :=
  (
  (∀ (op : Nat) (o : EngOp) (s : State), s.findEng op = some o → s.copyTurn o = true →
    (o.step = 1 → exec (.copyComplete op) s = .next (s.finishCopy o))
    ∧ (o.step ≠ 1 → o.overlap ≠ none → exec (.copyComplete op) s = .next (((s.overlapRec o).setEng { o with step := 1 }).finishCopy { o with step := 1 }))
    ∧ (o.step ≠ 1 → o.overlap = none →
      let r := (s.engRun o).perform
      let o' := { r.kept with step := 1 }
      (r.stop = none → exec (.copyComplete op) s = .next ((r.logFaults.setEng o').finishCopy o'))
      ∧ ∀ w, r.stop = some w → exec (.copyComplete op) s = .next (s.engWait o w)))
  ∧ (∀ (op kind : Nat) (o : EngOp) (h : RayHit) (r : EngRun) (s : State), s.findEng op = some o → s.rayGoes o = true →
    s.rayRun o = (r, .candidate kind h) → r.stop = none →
    exec (.rayCandidate op) s = .next ((r.logFaults.setEng { r.kept with ray := { r.o.ray with cand := some (kind, h) } }).pushPop o.tid 7
      { val := BitVec.ofNat 64 o.hitPtr, src := o.id }))
  ∧ (∀ (op : Nat) (o : EngOp) (s : State), s.findEng op = some o → o.kind = .trace →
    (o.ray.done = true → exec (.rayComplete op) s = .next (s.finishRay o))
    ∧ (∀ bs c, o.ray.done = false → o.ray.spill = some bs → s.crews.look o.crew = some c → c.run = .aborted → exec (.rayComplete op) s = .next (s.refillRay o))
    ∧ (∀ r stop, s.rayGoes o = true → s.rayRun o = (r, stop) → r.stop = none → (stop = .ended ∨ ∃ c d0 d1, stop = .lost c d0 d1) →
      let o' := { r.kept with ray := { r.o.ray with done := true } }
      exec (.rayComplete op) s = .next ((r.logFaults.setEng o').finishRay o')))
  ∧ (∀ (op : Nat) (o : EngOp) (s : State), s.findEng op = some o → o.kind = .march →
    (o.march.done = true → exec (.marchBatch op) s = .next (s.finishMarch o))
    ∧ (o.march.done = false → s.marchTurn o = true →
      let x := (s.beginMarch o).1.marchOn (s.beginMarch o).2
      let r := x.1
      let m := r.o.march
      r.stop = none →
      (x.2 = false → exec (.marchBatch op) s = .next (r.logFaults.setEng r.kept))
      ∧ (x.2 = true → (parseMarch (s.beginMarch o).2.cmd).nrays ≤ m.ray →
        let o' := { r.kept with march := { m with done := true } }
        exec (.marchBatch op) s = .next ((r.logFaults.setEng o').finishMarch o'))
      ∧ (x.2 = true → m.ray < (parseMarch (s.beginMarch o).2.cmd).nrays →
        exec (.marchBatch op) s = .next ((r.logFaults.setEng { r.kept with march := { m with batch := m.batch + 1, rows := 0 } }).pushPop
          (s.beginMarch o).2.tid 9 { val := BitVec.ofNat 64 (m.batch % 2 * 2 ^ 30 + m.rows), src := (s.beginMarch o).2.id }))))
  ∧ (∀ (t : Nat) (s : State),
    (∀ o, (s.recordsOf t).head?.filter s.takesRecord = some o → exec (.streamClose t) s = .next (s.takeRecord o))
    ∧ (∀ x, (s.recordsOf t).head?.filter s.takesRecord = none → s.streams.look t = some x →
      (∀ o, s.ops.find? (fun o => o.kind = .emit && o.tid = t && o.step = 1) = some o → exec (.streamClose t) s = .next (s.finishRecord o x))
      ∧ (s.streamDone t x = true →
        (s.shadowOf t = true → exec (.streamClose t) s = .next (s.dropStream t))
        ∧ (s.shadowOf t = false → s.dualOf t = true → exec (.streamClose t) s = .next (s.closeChecked t x))
        ∧ (s.shadowOf t = false → s.dualOf t = false → exec (.streamClose t) s = .next (s.closeStream t x)))))
  ∧ (∀ (n : Nat) (h : HeldPop) (s : State), s.heldPops.find? (·.id = n) = some h → (s.heldPops.find? fun x => x.tid = h.tid && x.q = h.q) = some h →
    s.viewRoom h.tid h.q = true →
    exec (.popEntryPush n) s = .next ({ s with heldPops := s.heldPops.filter fun x => x.id ≠ n }.setThread h.tid ((s.thread h.tid).pushView h.q h.ent))))
  ∧ (
  ∀ (s : State) (t q : Nat) (e : PopEntry), q ∈ [1, 7, 9, 12] → (s.thread t).run ≠ .exited →
    (s.viewRoom t q = true → (∀ h ∈ s.heldPops, h.tid = t → h.q ≠ q) →
      ((s.pushPop t q e).thread t).view (80 + q) = (s.thread t).view (80 + q) ++ [e] ∧ (s.pushPop t q e).heldPops = s.heldPops
        ∧ (∀ u, u ≠ t → (s.pushPop t q e).thread u = s.thread u))
    ∧ (s.viewRoom t q = false → (s.pushPop t q e).threads = s.threads ∧ (s.pushPop t q e).heldPops = s.heldPops ++ [{ id := s.uid, tid := t, q := q, ent := e }])
    ∧ (s.viewRoom t q = true → ((s.thread t).view (80 + q)).length < 4))

/-- A core's cycle and its timers (R33, R35, R41 to R44, R291, R427): ISSUE_CYCLE of a core whose clock runs spends one cycle of its class's length and issues the packets the rules choose, JOIN_HOLD_TIMEOUT ends a hold of 4096 cycles, AGE_SATURATION gives an entry its place among the saturated ones, CLOCK_GATE lets only ETIME and HTIME pass, and CONV_WATCHDOG traps a group that has waited CONV microseconds. The order of what a cycle begins with (log 2), that a cycle of a held or fenced core does nothing (log 19), class batching (log 49) and the ties of the choice (log 54) are the model's choice. -/
def Obligations.CoreEvents : Prop :=
  (∀ (core : Nat) (s : State), core < 192 → (s.core core).runs = true → s.issuingOn core = false →
    let s1 := s.beginCycle core
    let ts := s1.threadsOn core
    let es := (s1.core core).entries
    let cs := streamed (es.flatMap fun e => if e.pc = ovfPc then s1.overflowCand core ts es e else s1.entryCands core ts e) (s1.core core).blocks
    let v : View := { core := s1.core core, cands := cs.1 ++ s1.groups core ts, blocks := cs.2, now := (s1.core core).cyc.toNat,
                      last := fun w k => ((s1.waves.look (core * 96 + w)).map fun x => x.last.lookD k 0).getD 0 }
    exec (.issueCycle core) s = .next (s1.issue core v v.choice))
  ∧ (∀ (core : Nat) (s : State), (s.core core).runs = false ∨ s.issuingOn core = true → exec (.issueCycle core) s = .next s)
  ∧ (∀ (c : Core), let k := c.stages.foldl (fun m x => max m x.2.2.1) 0
    c.cycle.cyc = c.cyc + 1 ∧ c.cycle.htime = c.htime ∧ c.cycle.entries = c.entries
      ∧ c.cycle.etime = c.etime + BitVec.ofNat 64 (if k = 0 then 450 else if k = 1 then 571 else if k = 2 then 700 else 1000))
  ∧ (∀ (core slot : Nat) (pc : Dword) (e : Entry) (s : State), entryAt (s.core core).entries slot pc.toNat = some e → e.hold = true →
    (4096 ≤ e.holdAge → exec (.joinHoldTimeout core slot pc) s = .next (s.clearHold core slot pc.toNat))
    ∧ (e.holdAge < 4096 → exec (.joinHoldTimeout core slot pc) s = .next s))
  ∧ (∀ (core slot : Nat) (pc : Dword) (e : Entry) (s : State), (s.core core).entries = [e] → e.slot = slot → e.pc = pc.toNat → e.age = 4096 → e.sat = none →
    exec (.ageSaturation core slot pc) s =
      .next (s.setCore core { s.core core with entries := [{ e with sat := some (s.core core).satNext }], satNext := (s.core core).satNext + 1 }))
  ∧ (∀ (core ps : Nat) (s : State), core < 192 → s.wavesOn core = [] → s.engineOn core = false → (s.core core).held = false → (s.core core).fenced = false →
    exec (.clockGate core ps) s = .next (s.setCore core { s.core core with
      etime := (s.core core).etime + BitVec.ofNat 64 ps, htime := (s.core core).htime + BitVec.ofNat 64 ps }))
  ∧ (∀ (core slot t : Nat) (pc : Dword) (x : Thread) (since lim : Nat) (s : State),
    ((s.threadsOn core).filter fun y => slotOf y.1 = slot && y.2.pc = pc && y.2.run.isConverging) = [(t, x)] → x.run = .converging since →
    s.convLimit (s.ctxOf t) = lim → 0 < lim → lim * 10 ^ 6 ≤ elapsed (s.etimeOf t) since →
    exec (.convWatchdog core slot pc) s = .next ((s.leave t).report 2 [(t, { group := 8, code := 4, d0 := lim, whole := true })] (s.peek t).toNat 0))

/-- Crews (R28, R282, R289, R290, R299, R427): CREW_PLACE places the first waiting crew that has room, CREW_STEAL takes from the largest range of a sibling, CREW_END frees a crew that is no longer busy and counts it for its grid, SAMPLED_DIGEST_COMPARE compares the digests of two ended copies, and CREW_WATCHDOG aborts a crew that has run CREW microseconds. Pre-emption (R296, R297, R407, R426): the dispatcher pre-empts the crews whose removal makes room for the crew that waits, Lacewing pre-empts any running crew and closes its windows, a stopped crew that has drained is saved, a saved crew placed again has its storage restored and runs, and a save that takes a millisecond fails with reason 1. Which of the crews that wait are served (log 43), the save area and its errors (log 21), how ranges divide (log 29), ordered and checked grids (log 50), the clocks (log 58) and events that do nothing (log 19) are the model's choice. -/
def Obligations.CrewEvents : Prop :=
  (
  (∀ (cluster : Nat) (s s1 : State), (s.waiting cluster).findSome? (fun w => s.placeOne cluster w.2) = some s1 →
    exec (.crewPlace cluster) s = .next s1)
  ∧ (∀ (cluster h v : Nat) (s : State), cluster < 48 → s.waiting cluster = [] →
    s.largest (((List.range 12).map (12 * (cluster / 12) + ·)).filter (· ≠ cluster)) = some (h, v) → s.hasRoom h cluster = true →
    exec (.crewSteal cluster) s = .next (s.stealFrom h v cluster fun f n => [(cluster, f, n)]))
  ∧ (∀ (k : Nat) (c : Crew) (g : Grid) (s : State), s.crews.look k = some c → c.run ≠ .ended → s.crewBusy k = false → c.copy = 0 →
    let s0 := if c.run = .aborted then s.endAborted k else s
    let s1 := (s0.cores.map (·.1)).foldl (fun (s : State) x => s.freeOn k x) s0
    s1.duals.all (fun d => d.crew ≠ k) = true →
    let s2 := s1.removeWaves k
    let s3 : State := { s2 with crews := s2.crews.del k }
    s3.grids.look c.grid = some g →
    exec (.crewEnd k) s = .next ((State.endOfGrid { s3 with grids := s3.grids.put c.grid { g with ended := g.ended + 1 } } c.grid).switchOff (dieOfCore c.core)))
  ∧ (∀ (k j : Nat) (p d : Crew) (s : State), s.crews.look k = some p → p.twin = some j → s.crews.look j = some d → p.copy = 3 → p.run = .ended → d.run = .ended →
    let gone : State := { s with
      crews := (s.crews.del k).del j
      digests := s.digests.filter fun x => x.1 / 2 ^ 16 ≠ k && x.1 / 2 ^ 16 ≠ j
      samples := s.samples.filter fun x => x.1.1 ≠ k }
    let r := s.crewRec k 0 8 3 (leNat ((s.crewDigest k p.waves).take 8)) (leNat ((s.crewDigest j d.waves).take 8))
    exec (.sampledDigestCompare k) s = .next (if s.crewDigest k p.waves = s.crewDigest j d.waves then gone.endOfGrid p.grid
      else (({ r with crews := gone.crews, digests := gone.digests, samples := gone.samples } : State).noteMismatch p.core d.core).endOfGrid p.grid))
  ∧ (∀ (k lim : Nat) (c : Crew) (s : State), s.crews.look k = some c → c.begun = true → c.run = .running ∨ c.run = .stopping →
    s.crewLimit (s.crewCtx c) = lim → 0 < lim →
    let ran := elapsed (s.crewTime c) c.began
    lim * 10 ^ 6 ≤ ran →
    exec (.crewWatchdog k) s = .next ((s.crewRec k 2 8 5 (ran / 10 ^ 6) lim).abortCrew k)))
  ∧ (
  (∀ (cl : Nat) (s : State),
    let due := (s.waiting cl).filter fun w => 20 * 10 ^ 6 ≤ s.waited w.2 && (s.placeOne cl w.2).isNone
    (∀ ks, (due.map fun w => s.removal cl w.1 w.2).find? (· ≠ []) = some ks → exec (.preemptDispatcher cl) s = .next (ks.foldl (fun s k => s.beginPreempt k) s))
    ∧ ((∀ w ∈ due, s.removal cl w.1 w.2 = []) → exec (.preemptDispatcher cl) s = .next s))
  ∧ (∀ (cl : Nat) (r : Rank) (w : Waiting) (s : State) (k : Nat), k ∈ s.removal cl r w →
    ∃ c, (k, c) ∈ s.crews ∧ c.run = .running ∧ c.prio + 8 ≤ r.prio ∧ s.holdsWindow k = false)
  ∧ (∀ (k : Nat) (c : Crew) (s : State), s.crews.look k = some c → c.run = .running →
    exec (.preemptLacewing k) s = .next (({ s with cores := s.cores.map fun (x : Nat × Core) =>
      (x.1, { x.2 with windows := x.2.windows.map fun y => if y.2.crew = k then (y.1, { y.2 with v := false }) else y }) } : State).beginPreempt k))
  ∧ (∀ (k : Nat) (c : Crew) (s : State), s.crews.look k = some c → c.run = .running →
    s.beginPreempt k = s.setCrew k { c with run := .stopping, stopAt := (s.core c.core).etime.toNat })
  ∧ (∀ (k : Nat) (c : Crew) (s : State), s.crews.look k = some c → c.run = .stopping → (s.crewThreads k) ≠ [] → s.draining k c = false →
    (s.saveFenced c = false → exec (.preemptSave k) s = .next (s.saveCrew k c))
    ∧ (s.saveFenced c = true → exec (.preemptSave k) s = .next (s.failPreempt k 2)))
  ∧ (∀ (k : Nat) (c : Crew) (s : State), s.crews.look k = some c → c.run = .stopping →
    (10 ^ 9 ≤ elapsed (s.core c.core).etime.toNat c.stopAt → exec (.preemptSaveTimeout k) s = .next (s.failPreempt k 1))
    ∧ (elapsed (s.core c.core).etime.toNat c.stopAt < 10 ^ 9 → exec (.preemptSaveTimeout k) s = .next s))
  ∧ (∀ (k : Nat) (c : Crew) (s s1 : State), s.crews.look k = some c → c.run = .resuming →
    s.savePoisoned c = false →
    (((s.restoreRecs k c).bind fun s => c.holdsBanks.foldl (fun (r : Restore) par => r.bind fun s => s.restoreBank k par) (.ok s)).bind
      fun s => (s.restorePhasers k).bind fun s => s.restoreViews c).bind (fun s => s.restoreMaps k) = .ok s1 →
    (s1.ops.any fun o => o.crew = k && s1.refillHeld o) = false →
    exec (.crewResume k) s = .next (s1.finishResume k)))

/-- Events of the L1 and of the ordering hardware (R137, R301, R302, R303): a write-back sends one dirty byte to its home, a drop removes the clean bytes of one line and no other byte, a flush point drains every core's contributions of its grid in key order and then does what waited for it, a slew group of at most 16 clusters is released, and a quiet line loses its contention record. The comparator (R298, R429): matching operations of the two copies of a crew are performed once; a difference writes a record with the first differing 8 bytes of both and aborts both copies; an operation without a partner for 1 ms, or whose partner copy has ended, does the same with CODE 2. Contention records (log 45), what of a drain is compared and when (log 50) and events that do nothing (log 19) are the model's choice. -/
def Obligations.OrderingAndComparatorEvents : Prop :=
  (
  (∀ (core ctx a : Nat) (s : State),
    (2 ^ 64 ≤ a → exec (.l1WriteBack core ctx a) s = .next (s.sendBackAll core ctx fun x => x = a))
    ∧ (a < 2 ^ 64 → (s.l1.look (l1Key core ctx a)).any (·.dirty) = false ∨ s.withheld core ctx a = true → exec (.l1WriteBack core ctx a) s = .next s)
    ∧ (∀ c, a < 2 ^ 64 → s.l1.look (l1Key core ctx a) = some c → c.dirty = true → s.withheld core ctx a = false →
      (s.homeHolds a = true → exec (.l1WriteBack core ctx a) s = .next s)
      ∧ (∀ g w d0 d1, s.homeHolds a = false → s.refuses a = some (g, w, d0, d1) → exec (.l1WriteBack core ctx a) s = .next (s.discardLine core ctx (lineOf a) g w d0 d1))
      ∧ (s.homeHolds a = false → s.refuses a = none →
        let psn := s.l1psn.lookD (l1Key core ctx a / 8) false
        let s1 := if psn then s.logPoison core ctx 3 (a / 8 * 8) else s
        exec (.l1WriteBack core ctx a) s = .next (((s1.touchHome (dieOfCore core) a).homeWrite a [(c.val, psn)]).l1Clean core ctx a 1))))
  ∧ (∀ (core ctx a : Nat) (s : State), ∃ s', exec (.l1Drop core ctx a) s = .next s' ∧ s'.phys = s.phys ∧ s'.threads = s.threads
    ∧ (∀ k c, (k, c) ∈ s'.l1 ↔ (k, c) ∈ s.l1 ∧ ¬ (k / 2 ^ 80 = core * 256 + ctx ∧ k % 2 ^ 80 / 128 * 128 = a / 128 * 128 ∧ c.dirty = false)))
  ∧ (∀ (grid : Nat) (f : Flush) (g : Grid) (s : State), s.flushes.find? (fun f => f.grid = grid) = some f → s.grids.look grid = some g →
    let mine (y : Flush) : Bool := y.grid = grid && y.phaser = f.phaser
    let y := if f.compared = false ∧ g.flag 2 = true then s.compareDrained f.left else (s, f.left)
    let x := drainAll grid y.2 [] y.1
    let waits : Prop := x.2 ≠ [] ∨ x.1.drainSent grid ≠ [] ∨ ∃ c ∈ f.cores, x.1.unmatched c g.ctx = true
    let s1 := f.cores.foldl (fun (s : State) c => s.release 3 c g.ctx) { x.1 with flushes := x.1.flushes.filter fun y => !mine y }
    (waits → exec (.reductionDrain grid) s =
      .next { x.1 with flushes := x.1.flushes.map fun y => if mine y then { y with compared := true, left := x.2 } else y })
    ∧ (¬ waits → (f.phaser = none → exec (.reductionDrain grid) s = .next (s1.finishGrid grid))
      ∧ (∀ p, f.phaser = some p → exec (.reductionDrain grid) s = .next ((s1.phAdvanceNow p).endOfGrid grid))))
  ∧ (∀ (grid : Nat) (k : Option Nat) (s : State),
    let all := (s.cores.flatMap fun x => x.2.redbuf.filter fun r => r.grid = grid).mergeSort Contribution.before
    let at' := all.map (·.core) ++ (s.crews.filter fun x => x.2.grid = grid).flatMap fun x => if x.2.paired then [x.2.core, x.2.core + 1] else [x.2.core]
    s.beginFlush grid k = { s with
      flushes := s.flushes ++ [{ grid := grid, phaser := k, cores := at'.eraseDups, left := all }]
      cores := s.cores.map fun x => (x.1, { x.2 with redbuf := x.2.redbuf.filter fun r => r.grid ≠ grid }) })
  ∧ (∀ (grid : Nat) (r : Contribution) (l : List Contribution) (s : State),
    (r.copy = 2 → drainAll grid (r :: l) [] s = drainAll grid l [] s)
    ∧ (∀ s', r.copy ≠ 2 → (s.drainSent grid).contains r.spot = false → s.performContribution r = .done s' → drainAll grid (r :: l) [] s = drainAll grid l [] s')
    ∧ (∀ held, held.contains r.spot = true → r.copy ≠ 2 → (drainAll grid (r :: l) held s).2.head? = some r))
  ∧ (∀ (w : Slew) (r : List Slew) (s : State), s.slews = w :: r →
    let cs := slewClusters w.first 16 w.left
    let here (t : Nat) : Bool := cs.contains ((clusterOf (coreOf t) + 48 - w.first) % 48)
    let rest := w.left.filter fun t => !here t
    cs.length ≤ 16
    ∧ exec .slewGroupRelease s = .next ((w.left.filter here).foldl (fun s t => s.slewWake t)
        { s with slews := if rest.isEmpty then r else { w with left := rest } :: r }))
  ∧ (∀ (line : Nat) (s : State),
    (s.contention.look line = none → exec (.atomicQuietExpiry line) s = .next s)
    ∧ (∀ r, s.contention.look line = some r →
      (elapsed (s.core r.core).etime.toNat r.time < 2 * 10 ^ 6 → exec (.atomicQuietExpiry line) s = .next s)
      ∧ (2 * 10 ^ 6 ≤ elapsed (s.core r.core).etime.toNat r.time → exec (.atomicQuietExpiry line) s = .next { s with contention := s.contention.del line }))))
  ∧ (
  (∀ (prim shad : Nat) (p d : DualOp) (c : Crew) (s : State), s.duals.find? (·.id = prim) = some p → s.duals.find? (·.id = shad) = some d →
    s.crews.look p.crew = some c → c.copy = 0 → c.twin = some d.crew → p.lane = d.lane → p.seq = d.seq → p.shadow = false →
    p.op.id - p.op.grp = d.op.id - d.op.grp →
    (s.duals.any fun x => x.id < p.id && x.op.core = p.op.core && x.op.ctx = p.op.ctx && x.op.overlaps p.op) = false →
    (s.duals.find? (s.partners p) = some d → s.compared p.op = false → p.agrees d = true →
      exec (.comparatorMatch prim shad) s = .next ((s.performPair p d).settleFailed p.op.pkt))
    ∧ (s.duals.find? (s.partners p) = some d → s.compared p.op = true → s.dualGroup p = [p] → (s.opGroup p.op).length = 1 → p.agrees d = true →
      (s.pairRoom p.op d.op = true → exec (.comparatorMatch prim shad) s = .next ((s.performPair p d).settleFailed p.op.pkt))
      ∧ (s.pairRoom p.op d.op = false → exec (.comparatorMatch prim shad) s = .next s))
    ∧ (p.agrees d = false → exec (.comparatorMatch prim shad) s =
        .next (((s.opRec p.op (causeWord true false false 2 8 1) (differing p.op.data d.op.data 8) (differing d.op.data p.op.data 8)).abortPair p.crew).noteMismatch
          p.op.core d.op.core)))
  ∧ (∀ (op : Nat) (d : DualOp) (s : State), s.duals.find? (·.id = op) = some d → d.shadow = false →
    let gone := match (s.crews.look d.crew).bind (·.twin) with
      | some j => (s.crewThreads j).isEmpty && !(s.duals.any fun x => x.crew = j) && !(s.pend.any fun o => s.crewIdOf o.tid = some j)
      | none => true
    (gone = true ∨ 10 ^ 9 ≤ elapsed (s.etimeOf d.op.tid) d.since →
      exec (.dualUnmatchedTimeout op) s = .next ((s.opRec d.op (causeWord true false false 2 8 2) (s.unmatchedOps d.crew) 0).abortPair d.crew))
    ∧ (gone = false → elapsed (s.etimeOf d.op.tid) d.since < 10 ^ 9 → exec (.dualUnmatchedTimeout op) s = .next s)))

/-- Commands of the host and of Lacewing (R119, R120, R128, R309, R338, R340, R349, R411): each is a write of the register that R338 gives it, a write by another agent changes nothing, an invalidation completes once no access by a removed translation remains, and a migration that is not acknowledged within 100 ms of ETIME fails with reason 2. Accesses of the host (R337, R346, R405, R412): a write reaches HBM line by line at the homes, takes nothing in a marked APPEND frame or a fenced die; a read answers the bytes with a poison status; other addresses are answered Unsupported Request; a snoop makes the homes give up a host line; a configuration request before step 6 is answered with Retry Status (what is left out of R346, a completion's data, is a free value, log 25). Writes by other agents and events that do nothing (log 19), host accesses by their 8-byte units, posted writes in order (logs 35 and 46), HOSTSHARE details (log 36), the management log and MSI-X (log 53), and GO during a request (log 56) are the model's choice. -/
def Obligations.HostEvents : Prop :=
  (
  (∀ (agent a : Nat) (v : Dword) (s : State),
    (inRegs a = false → exec (.registerWrite agent a v) s = .next s)
    ∧ (inRegs a = true → 1 < agent → exec (.registerWrite agent a v) s = .next s)
    ∧ (inRegs a = true → agent = 1 → exec (.registerWrite agent a v) s = .next (s.lacewingWrite (a - Config.regBase) v.toNat))
    ∧ (inRegs a = true → agent = 0 → s.bootStep = 6 → exec (.registerWrite agent a v) s = .next (s.hostRegWrite (a - Config.regBase) v.toNat))
    ∧ (inRegs a = true → agent = 0 → s.bootStep ≠ 6 → exec (.registerWrite agent a v) s = .next s))
  ∧ (∀ (scope ctx : Nat) (b c : Bool) (s : State),
    let go (scope : Nat) (rcl bnd : Bool) := s.invCommand (invWord scope ctx rcl bnd)
    exec (.invalidatePage ctx b c) s = .next (go 0 b c) ∧ exec (.invalidateContext ctx b c) s = .next (go 1 b c) ∧ exec (.invalidateAll ctx b c) s = .next (go 2 b c)
      ∧ exec (.reclaim scope ctx) s = .next (go scope true false) ∧ exec (.dropBounds scope ctx) s = .next (go scope false true))
  ∧ (∀ (scope ctx : Nat) (rcl bnd : Bool) (s : State), s.invBusy = none → scope < 3 → ctx < 256 →
    let s' := s.invCommand (invWord scope ctx rcl bnd)
    (∃ c, s'.invBusy = some c ∧ c.scope = scope ∧ c.ctx = ctx ∧ c.reclaim = rcl ∧ c.bounds = bnd ∧ c.upto = s.uid)
      ∧ s'.phys = s.phys ∧ s'.threads = s.threads ∧ s'.pend = s.pend)
  ∧ (∀ (s : State), s.toHost = [] →
    (s.invBusy = none → exec .invalidationComplete s = .next s)
    ∧ (∀ c, s.invBusy = some c → s.invWaits c = true → exec .invalidationComplete s = .next s)
    ∧ (∀ c, s.invBusy = some c → s.invWaits c = false →
        exec .invalidationComplete s = .next ({ c.frames.foldl (fun s (f : Nat × Nat) => s.reclaimFrame f.1 f.2) s with invBusy := none } : State).noteTables))
  ∧ (∀ (seq : Nat) (refuse : Bool) (e : HsEntry) (s : State), s.hsRing.find? (fun e => e.seq % 4096 = seq % 4096) = some e →
    let gone : State := { s with hsRing := s.hsRing.filter fun x => x.seq ≠ e.seq }
    (e.kind = 1 → refuse = true → exec (.hsAcknowledge seq refuse) s = .next (s.failMigration 1 e))
    ∧ (e.kind = 1 → refuse = false → exec (.hsAcknowledge seq refuse) s =
        .next (((((gone.setOwner e.leaf false).dropPage e.page e.psize).dropRange e.page e.psize).wakePage e.page).wantParked))
    ∧ (e.kind ≠ 1 → exec (.hsAcknowledge seq refuse) s = .next gone.wantParked))
  ∧ (∀ (seq : Nat) (e : HsEntry) (s : State), s.hsRing.find? (fun e => e.seq = seq && e.kind = 1) = some e → 10 ^ 11 ≤ elapsed (s.etimeOf e.tid) e.since →
    exec (.migrationTimeout seq) s = .next (s.failMigration 2 e))
  ∧ (∀ (vapg ctx : Nat) (s : State), exec (.hsRequestPage vapg ctx) s = .next (s.hsRequest vapg (ctx % 256)))
  ∧ (∀ (v : Dword) (s : State), s.bootStep = 6 → v.getLsbD 0 = true → bits (s.regVal offAttreq) 3 2 ≠ 1 →
    exec (.attestationGo v) s = .next { s.setAttreq v.toNat 1 with attesting := some (BitVec.ofNat 64 (v.toNat / 2 ^ 14 * 2 ^ 14)) })
  ∧ (∀ (v : Dword) (s : State), s.bootStep = 6 → v.getLsbD 0 = false →
    exec (.attestationGo v) s = .next (s.setAttreq v.toNat (bits (s.regVal offAttreq) 3 2)))
  ∧ (∀ (v : Dword) (s : State),
    (v.getLsbD 0 = true → exec (.scLockWrite v) s = .next { s with locked := true }) ∧ (v.getLsbD 0 = false → exec (.scLockWrite v) s = .next s))
  ∧ (∀ (core : Nat) (v : Dword) (s : State), core < 192 →
    let c := v.toNat % 32
    (1 ≤ c → c ≤ 16 → exec (.mxCadenceWrite core v) s = .next (s.setCore core { s.core core with cadence := c }))
    ∧ (c = 0 ∨ 17 ≤ c → exec (.mxCadenceWrite core v) s = .next s)))
  ∧ (
  (∀ (pa : Nat) (data : List Byte) (psn : Bool) (s : State), s.bootStep = 6 →
    let s1 : State := { s with uid := s.uid + 1 }
    (pa % 8 + data.length ≤ 8 → 0 < data.length → inHbm pa = true → pa + data.length ≤ Config.hbmEnd → s.mapPending (lineOf pa) = false → s.outside = [] →
      (s.fencedErr pa = none → s.marked pa = false →
        exec (.hostWrite pa data psn) s = .next ((s1.touchHome 0 pa).homeWrite pa (data.map fun b => (b, psn))))
      ∧ (s.fencedErr pa = none → s.marked pa = true → exec (.hostWrite pa data psn) s = .next (s1.manage 0x405 pa))
      ∧ (s.fencedErr pa ≠ none → exec (.hostWrite pa data psn) s = .next s1))
    ∧ (inHbm pa = false → inHost pa = false → inRegs pa = false → exec (.hostWrite pa data psn) s = .next (s.answer 0 [1]))
    ∧ (inHbm pa = true → pa + data.length ≤ Config.hbmEnd →
      let x : OutAccess := { pa := pa, size := data.length, write := true, data := data.map fun b => (b, psn), id := s.uid }
      let n := x.units.length
      1 < n → exec (.hostWrite pa data psn) s = .next { s with outside := s.outside ++ [{ x with left := List.range n }], uid := s.uid + n }))
  ∧ (∀ (pa n : Nat) (s : State), s.bootStep = 6 →
    (pa % 8 + n ≤ 8 → 0 < n → inHbm pa = true → pa + n ≤ Config.hbmEnd → s.mapPending (lineOf pa) = false → s.fencedErr pa = none → s.outside = [] →
      let bs := s.homeRaw pa n
      exec (.hostRead pa n) s = .next ((({ s with uid := s.uid + 1 } : State).touchHome 0 pa).answer 0 ((if bs.any (·.2) then 3 else 0) :: bs.map (·.1))))
    ∧ (inHbm pa = true → pa + n ≤ Config.hbmEnd → s.fencedErr pa ≠ none → exec (.hostRead pa n) s = .next (s.answer 0 [1]))
    ∧ (inHbm pa = false → inHost pa = false → inRegs pa = false → exec (.hostRead pa n) s = .next (s.answer 0 [1])))
  ∧ (∀ (op : Nat) (x : OutAccess) (s : State), s.findPend op = none → op < 2 ^ 62 → s.outside.find? (fun y => y.id ≤ op && y.left.contains (op - y.id)) = some x →
    x.who = 0 → x.write = true → s.hostWaits x = false →
    let off := (x.units.getD (op - x.id) (0, 0)).1
    let bs := (x.data.drop off).take (x.units.getD (op - x.id) (0, 0)).2
    let rest := x.left.erase (op - x.id)
    s.mapPending (lineOf (x.pa + off)) = false → s.fencedErr (x.pa + off) = none → s.marked (x.pa + off) = false → rest ≠ [] →
    exec (.storePerformed op) s = .next { (s.touchHome 0 (x.pa + off)).homeWrite (x.pa + off) bs with
      outside := s.outside.map fun y => if y.id = x.id then { x with left := rest } else y })
  ∧ (∀ (pa : Nat) (s : State), s.bootStep = 6 → inHost pa = true → ∃ s', exec (.hostSnoop pa) s = .next s'
    ∧ s'.phys = s.phys ∧ s'.l1 = s.l1 ∧ ∀ k l, (k, l) ∈ s'.l2 → lineOf pa ∉ l)
  ∧ (∀ (c : ConfigAccess) (s : State),
    let s1 := match c.mask with
      | none => s
      | some (v, on) => s.maskVector v on
    (s.bootStep < 6 → exec (.configRequest c) s = .next (s.answer 0 [2]))
    ∧ (6 ≤ s.bootStep → exec (.configRequest c) s =
        .next ((s1.tick.2).answer 0 (0 :: leBytes 4 (Config.freeWord (s1.tick.1 + c.off)).toNat))))
  ∧ (∀ (v : Nat) (s : State), v < 66 →
    (s.msixOpen.contains v = true → s.raise v = { s with msix := s.msix ++ [v] })
    ∧ (s.msixOpen.contains v = false → (s.raise v).msix = s.msix ∧ (s.raise v).msixPending.contains v = true)
    ∧ (s.maskVector v true).msixOpen.contains v = false
    ∧ (s.maskVector v false).msixOpen.contains v = true
    ∧ (s.msixPending.contains v = true → (s.maskVector v false).msix = s.msix ++ [v] ∧ (s.maskVector v false).msixPending.contains v = false)
    ∧ (s.msixPending.contains v = false → (s.maskVector v false).msix = s.msix)))

/-- Requests between devices (R342, R413, R432): a peer's request is answered once with its sequence number, an error word, a physical address, a poison mark and the data; one that the import bitmap shuts out is refused with CODE 0x0e; one already served is answered again; an answer ends the request it names; 1 ms of ETIME without an answer is CODE 0x0f. The answer's layout is log 25. Links (R431, R432): eight flits that fail CRC in replay, or a loss of training, start a retrain; a retrain that ends well leaves the link up with its count cleared, one that does not fences it, with a LEVEL 8 entry of the management log, and a fenced pod link leaves every route. Whether a CRC failure is of the last one's flit is free, and what a fenced link does to routes is the model's choice (log 41), as are events that do nothing (log 19). -/
def Obligations.RemoteAndLinkEvents : Prop :=
  (
  (∀ (src seq ctx : Nat) (va : Dword) (kind sub : Nat) (data : List Byte) (s : State), 5 ≤ s.bootStep →
    let go := exec (.remoteRequest src seq ctx va kind sub data) s
    let reply (s : State) (err aux : Nat) (psn : Bool) (d : List Byte) : State :=
      let bs := leBytes 8 seq ++ leBytes 8 err ++ leBytes 8 aux ++ [if psn then 1 else 0] ++ d
      { s with served := ((src, seq), bs) :: s.served }.answer (src + 1) bs
    let under : Prop := ∃ x ∈ s.outside, x.who = src + 1 ∧ x.seq = seq
    (∀ x, s.served.find? (fun (x : (Nat × Nat) × List Byte) => x.1 = (src, seq)) = some x → go = .next (s.answer (src + 1) x.2))
    ∧ (s.served.find? (fun (x : (Nat × Nat) × List Byte) => x.1 = (src, seq)) = none → under → go = .next s)
    ∧ (s.served.find? (fun (x : (Nat × Nat) × List Byte) => x.1 = (src, seq)) = none → ¬ under →
      (bit (s.imports.lookD ctx 0) src = false → go = .next (reply s ({ code := 0xe } : MemErr).word 0 false []))
      ∧ (bit (s.imports.lookD ctx 0) src = true →
        (∀ s1 d p pa, s.serveRequest ctx va.toNat kind sub data = .ok s1 d p pa → go = .next (reply s1 0 pa p d))
        ∧ (∀ s1 e, s.serveRequest ctx va.toNat kind sub data = .bad s1 e → go = .next (reply s1 e.word e.d1 false []))
        ∧ (∀ s1, s.serveRequest ctx va.toNat kind sub data = .wait s1 → go = .next s1)
        ∧ (∀ s1 x, s.serveRequest ctx va.toNat kind sub data = .divided s1 x →
            go = .next (s1.acceptOutside { x with who := src + 1, seq := seq, ctx := ctx, va := va.toNat })))))
  ∧ (∀ (req err : Nat) (aux : Dword) (psn : Bool) (data : List Byte) (r : RemReq) (s : State), s.remotes.find? (·.id = req) = some r → r.link < 12 →
    let s1 : State := { s with remotes := s.remotes.filter (fun x => x.id ≠ req), links := s.links.put r.link { s.links.lookD r.link {} with fails := 0 } }
    (err = 0 → s.fillRoomy r = true → exec (.remoteResponse req err aux psn data) s = .next ((s1.remoteDone r aux.toNat psn data).settleFailed r.op.pkt))
    ∧ (err = 0 → s.fillRoomy r = false → exec (.remoteResponse req err aux psn data) s = .next s)
    ∧ (err ≠ 0 → (remoteErr err aux.toNat).code ≠ 0xe → exec (.remoteResponse req err aux psn data) s = .next (s1.remoteFail r (remoteErr err aux.toNat)))
    ∧ (err ≠ 0 → (remoteErr err aux.toNat).code = 0xe →
        exec (.remoteResponse req err aux psn data) s = .next (s1.remoteFail r { remoteErr err aux.toNat with d1 := r.dev })))
  ∧ (∀ (req : Nat) (r : RemReq) (s : State), s.remotes.find? (·.id = req) = some r →
    (elapsed (s.etimeOf r.op.tid) r.since < 10 ^ 9 → exec (.remoteTimeout req) s = .next s)
    ∧ (10 ^ 9 ≤ elapsed (s.etimeOf r.op.tid) r.since →
      exec (.remoteTimeout req) s = .next ({ s with remotes := s.remotes.filter fun x => x.id ≠ req }.remoteFail r { code := 0xf, d1 := r.dev }))))
  ∧ (
  (∀ (l : Nat) (s : State), isLink l = true →
    let x := s.links.lookD l {}
    x.fenced = false → x.alien = false → x.retraining = false →
    let s1 := s.tick.2
    let n := if Config.flitAgain s.tick.1 then x.fails + 1 else 1
    (n < 8 → exec (.flitCrcFailure l) s = .next { s1 with links := s.links.put l { x with fails := n } })
    ∧ (8 ≤ n → exec (.flitCrcFailure l) s = .next { s1 with links := s.links.put l { x with retraining := true, fails := 0 } })
    ∧ exec (.linkTrainingLoss l) s = .next { s with links := s.links.put l { x with retraining := true, fails := 0 } })
  ∧ (∀ (l : Nat) (s : State), (s.links.lookD l {}).fenced = true ∨ (s.links.lookD l {}).alien = true →
    exec (.flitCrcFailure l) s = .next s ∧ exec (.linkTrainingLoss l) s = .next s)
  ∧ (∀ (l : Nat) (s : State),
    let x := s.links.lookD l {}
    x.retraining = true →
    exec (.linkRetrainEnd l true) s = .next { s with links := s.links.put l { x with retraining := false, fails := 0 } }
    ∧ exec (.linkRetrainEnd l false) s = .next (s.fenceLink l))
  ∧ (∀ (l : Nat) (s : State), l < 12 →
    (s.fenceLink l) =
      ((({ s with links := s.links.put l { fenced := true } } : State).manage (8 * 2 ^ 32 + 1) (l * 2 ^ 32)).unroute l).resend l)
  ∧ (∀ (l off : Nat) (s : State) (w : Dword), l < 12 → (off, w) ∈ (s.unroute l).regs → offRoute ≤ off → off < offRoute + 16384 →
    ∀ i, i < 4 → w.getLsbD (16 * i + l) = false))

/-- Tokens (R345): a device that draws less than CAP − 50 W lends surplus tokens to a neighbour with demand, CAP falling as the grant leaves; a grant at most 500 µs old raises the receiver's CAP, never above 1800 W; at the lease's end the receiver lowers CAP by what it had raised and returns the tokens; the granter raises its own once, at the return or after 11 ms. How many surplus tokens leave is the model's bound (log 32). Events that do nothing (log 19), what the outside is sent (log 25) and the clock of leases (log 58) are the model's choice. -/
def Obligations.TokenEvents : Prop :=
  (∀ (peer w : Nat) (s : State), exec (.demandAnnounce peer w) s = .next { s with demands := s.demands.put peer w })
  ∧ (∀ (draw peer tokens : Nat) (s : State),
    let b : Tokens := { s.tokens with draw := min draw 65535 }
    let s1 := s.setTokens b
    let s2 := s1.setTokens { b with cap := b.cap - tokens, lent := b.lent + tokens }
    (b.draw + 50 < b.cap → 0 < tokens → tokens ≤ b.cap - b.draw → 0 < s.demands.lookD peer 0 →
      exec (.tokenExchangeTick draw peer tokens) s = .next (({ s2 with
        leases := s.leases ++ [{ id := s.uid, peer := peer, tokens := tokens, lent := true, since := s2.clock }], uid := s.uid + 1, demands := s.demands.del peer } : State).answer
          (peer + 1) (leBytes 8 s.uid ++ leBytes 2 tokens)))
    ∧ (b.cap ≤ b.draw + 50 → exec (.tokenExchangeTick draw peer tokens) s = .next s1))
  ∧ (∀ (peer tokens age : Nat) (s : State),
    let b := s.tokens
    let cap := max b.cap (min 1800 (b.cap + tokens))
    let s1 := s.setTokens { b with cap := cap }
    (500 < age → exec (.tokenGrant peer tokens age) s = .next s)
    ∧ (age ≤ 500 → exec (.tokenGrant peer tokens age) s =
        .next { s1 with leases := s.leases ++ [{ id := s.uid, peer := peer, tokens := tokens, lent := false, gain := cap - b.cap, since := s1.clock }], uid := s.uid + 1 })
    ∧ (b.cap ≤ 1800 → cap ≤ 1800))
  ∧ (∀ (lease : Nat) (l : Lease) (s : State), s.leases.find? (fun x => x.id = lease && !x.lent) = some l →
    let s1 := s.setTokens { s.tokens with cap := s.tokens.cap - l.gain }
    (s.clock < l.since + 10 ^ 10 → exec (.leaseEnd lease) s = .next s)
    ∧ (l.since + 10 ^ 10 ≤ s.clock → exec (.leaseEnd lease) s = .next (({ s1 with leases := s.leases.filter fun x => x.id ≠ lease } : State).answer (l.peer + 1) (leBytes 8 lease ++ leBytes 2 l.tokens))))
  ∧ (∀ (g : Nat) (s : State),
    (∀ l, s.leases.find? (fun x => x.id = g && x.lent) = some l →
      let s1 := s.setTokens { s.tokens with cap := max s.tokens.cap (min 1800 (s.tokens.cap + l.tokens)), lent := s.tokens.lent - l.tokens }
      let s' : State := { s1 with leases := s.leases.filter fun x => x.id ≠ g }
      exec (.tokenReturn g) s = .next s' ∧ (l.since + 11 * 10 ^ 9 ≤ s.clock → exec (.grantReturnTimeout g) s = .next s')
      ∧ (s.clock < l.since + 11 * 10 ^ 9 → exec (.grantReturnTimeout g) s = .next s))
    ∧ (s.leases.find? (fun x => x.id = g && x.lent) = none → exec (.tokenReturn g) s = .next s ∧ exec (.grantReturnTimeout g) s = .next s))

/-- Power and heat (R43, R344, R375, R431, R435, R436): a rail alert and 100 °C hold every core of the die, a hold's end gives ETIME and HTIME its length and CYC nothing, a die above its cap has its cadence raised and then holds, 100 °C sets CAD to 16, three holds with the current still above 880 A, 120 °C, 110 °C for 1 ms and an internal error fence the die, a failed self-test fences the core, and a scrub poisons the granule it finds bad. By how much CAD rises and what the die's cap is are free (log 32). Events that do nothing (log 19), fenced dies and cores (log 41), the management log (log 53) and errors of storages (log 56) are the model's choice. -/
def Obligations.PowerAndHeatEvents : Prop :=
  (∀ (die w : Nat) (s : State), die < 4 →
    let s1 := s.setDie die { s.die die with alerts := 0 }
    let slow := (dieCores die).filter fun c => (s1.core c).cadence < 16
    (w ≤ Config.dieCap s1.tokens.cap die → exec (.powerAverage die w) s = .next s1)
    ∧ (Config.dieCap s1.tokens.cap die < w → slow = [] → exec (.powerAverage die w) s = .next (s1.holdDie die))
    ∧ (Config.dieCap s1.tokens.cap die < w → slow ≠ [] → exec (.powerAverage die w) s = .next (slow.foldl (fun s c => s.setCore c
        { s.core c with cadence := min 16 ((s.core c).cadence + 1 + Config.cadenceRise s1.free) }) s1.tick.2)))
  ∧ (∀ (core ps : Nat) (s : State),
    let c := s.core core
    (c.held = true → c.holdPs = ps → ∃ s', exec (.holdEnd core ps) s = .next s' ∧ (s'.core core).held = false ∧ (s'.core core).cyc = c.cyc
      ∧ (s'.core core).etime = c.etime + BitVec.ofNat 64 ps ∧ (s'.core core).htime = c.htime + BitVec.ofNat 64 ps
      ∧ s'.phys = s.phys ∧ s'.threads = s.threads)
    ∧ (c.held = false ∨ c.holdPs ≠ ps → exec (.holdEnd core ps) s = .next s))
  ∧ (∀ (die : Nat) (s : State), die < 4 →
    exec (.railCurrentAlert die) s = .next ((dieCores die).foldl (fun s c => s.setCore c ((s.core c).hold (2 * 10 ^ 5)))
      (s.setDie die { s.die die with alerts := (s.die die).alerts + 1 }))
    ∧ (3 ≤ (s.die die).alerts → exec (.railHoldFailure die) s = .next (s.fenceDie die 3))
    ∧ ((s.die die).alerts < 3 → exec (.railHoldFailure die) s = .next s)
    ∧ exec (.junction120c die) s = .next (s.fenceDie die 2) ∧ exec (.junction110cTimeout die) s = .next (s.fenceDie die 2)
    ∧ exec (.dieInternalError die) s = .next (s.fenceDie die 1)
    ∧ (let s1 := (dieCores die).foldl (fun s c => s.setCore c { s.core c with cadence := 16 }) s
       exec (.junction100c die) s = .next ((s1.holdDie die).manage 0x436 die)))
  ∧ (∀ (core : Nat) (s : State), (s.core core).held = false →
    let x := s.core core
    let y := (s.holdDie (core / 48)).core core
    (x.lastHold.all (fun e => e + 10 ^ 6 ≤ x.etime.toNat) = true → y.held = true ∧ y.holdPs = 10 ^ 6)
    ∧ (x.lastHold.any (fun e => x.etime.toNat < e + 10 ^ 6) = true → y.held = false))
  ∧ (∀ (core : Nat) (s : State), core < 192 →
    exec (.coreSelfTest core true) s = .next s ∧ exec (.coreSelfTest core false) s = .next (s.fenceCore core 1))
  ∧ (∀ (store pa : Nat) (s : State),
    exec (.backgroundScrub ⟨store, pa⟩ false) s = .next s
    ∧ (store = 4 ∨ store = 5 → (inHbm pa = true →
        exec (.backgroundScrub ⟨store, pa⟩ true) s = .next ((({ s with phys := s.phys.mark (pa / 8) true } : State).manage 0x375 pa).abortPoisoned))
      ∧ (inHbm pa = false → exec (.backgroundScrub ⟨store, pa⟩ true) s = .next s))
    ∧ (store ≠ 4 → store ≠ 5 → exec (.backgroundScrub ⟨store, pa⟩ true) s = .next (s.upset store pa)))
  ∧ (∀ (s : State), ∃ s', exec .hdieOvertemp s = .next s' ∧ s'.bootStep = 0 ∧ s'.picks = [] ∧ ∀ d, d < 4 → (s'.die d).fenced = true)

/-- Start-up, contexts and what a packet meets before it runs (R103, R112, R346 to R349, R369, R379, R387, R401, R437): power-on reset clears everything volatile and starts the steps, an image that fails stops them after step 1, a rejected update changes nothing, a loss of power keeps the blown fuses; a context is created with its fault log empty; a report is written at BUF + 64 and vector 65 raised; a word that fails a word check and a fetch that fails trap every thread of the packet. Verdicts, signatures and the boot configuration are opaque (log 20). Reset values and contents (logs 4 and 5), the import bitmap's free value (log 33) and power policy (log 32) are the model's choice. -/
def Obligations.StartUpEvents : Prop :=
  (∀ (image queue : FirmwareImage) (s : State),
    let v := verdict image
    let q := verdict queue
    exec (.powerOnReset ⟨image, queue⟩) s = .next (if v ≠ 0 then s.cleared.setBoot 0 1 v
      else ({ s.cleared.configure (Config.bootPlan image.body) with
        images := Shake.shake512 image.body :: (if q = 0 then [Shake.shake512 queue.body] else []) } : State).joinLinks.setBoot (if q = 0 then 0 else 1) 6 q)
    ∧ exec (.firmwareUpdate image) s = .next (if v ≠ 0 then s else { s with images := s.images ++ [Shake.shake512 image.body] })
    ∧ exec .powerLoss s = .next s.cleared)
  ∧ (∀ (i : FirmwareImage), verdict i = 0 ↔ i.key.length = Xmss.keyBytes ∧ i.sig.length = Xmss.sigBytes ∧ Config.malformed i.body = false
    ∧ Shake.shake512 i.key = Config.rootKeyDigest ∧ Xmss.verify i.key i.sig (Shake.shake512 i.body) = true)
  ∧ (∀ (l : Nat) (s : State), l < 12 → Config.peerGroup l ≠ s.boot.group → (s.joinLinks.links.lookD l {}).alien = true)
  ∧ (∀ (s : State), s.cleared.fuses = s.fuses ∧ s.cleared.threads = [] ∧ s.cleared.contexts = [] ∧ s.cleared.regs = [] ∧ s.cleared.locked = false
    ∧ ∀ a, inHost a = false → s.cleared.phys.byte a = 0)
  ∧ (∀ (ctx btab root fl logn : Nat) (thnd : Dword) (save : Nat) (sys : Bool) (s : State),
    ctx < 256 → btab % 8192 = 0 → root % 4096 = 0 → fl % 4096 = 0 → 6 ≤ logn → logn ≤ 16 →
    let s1 := s.purgeContext ctx
    s.boot.pool.contains ctx = true → (sys = true → s.boot.grants.contains ctx = true) →
    (s1.views.any fun (v : Nat × Nat) => v.2 = ctx) = false → (s1.pend.any fun o => o.ctx = ctx) = false → (s1.remotes.any fun r => r.op.ctx = ctx) = false →
    (s1.contributions.any fun r => r.ctx = ctx) = false → s1.unperformed s1.uid (fun c _ _ => c = ctx) = false →
    exec (.contextCreation ctx btab root fl logn thnd save sys) s =
      .next (({ s1.tick.2 with
        farPa := s1.farPa.filter fun (x : Nat × Nat) => x.1 / 2 ^ 80 % 256 ≠ ctx
        contexts := s1.contexts.put ctx { btab := btab, ptroot := root, flbase := fl, logn := logn, thnd := thnd, save := save, sys := sys }
        imports := s1.imports.put ctx (Config.importMask s1.free % 2 ^ 8192) } : State).homeWrite fl
          (clean (List.replicate 24 0 ++ [BitVec.ofNat 8 logn] ++ List.replicate 39 0))).noteTables)
  ∧ (∀ (b : Dword) (s s1 : State), s.attesting = some b →
    let buf := b.toNat
    (s.takeIndex = (s1, none) → exec .attestationDone s = .next (({ s1.setAttreq (s1.regVal offAttreq) 3 with attesting := none } : State).raise 65))
    ∧ (∀ i, s.takeIndex = (s1, some i) →
      let s2 := s1.homeWrite (hostPa buf + 64) (clean ((s1.attestReport ((s1.homeRaw (hostPa buf) 64).map (·.1)) i).take 16320))
      exec .attestationDone s = .next (({ s2.setAttreq (s2.regVal offAttreq) 2 with attesting := none } : State).raise 65)))
  ∧ (∀ (w : Word) (f : WordFault) (s : State), wordFault s.onQueue w = some f →
    exec (.illegalInstruction w) s = .next (({ s := s, causes := (s.cur.tids.filter s.canIssue).map fun t => (t, wordCause f) } : Acc).finish w.toNat 0))
  ∧ (∀ (t : Nat) (c : Cause) (s s1 : State), s.lead = some t → s.fetch t = (s1, .fail c) →
    exec .instructionFetchFault s = .next (({ s := s1, causes := (s1.cur.tids.filter s1.canIssue).map fun t => (t, c) } : Acc).finish 0 0))

/-- Constants (R64): the value of each constant code 112 to 127 by the kind of its position, and that a source position with such a code reads it. -/
def Obligations.ConstantCodes : Prop :=
  let row (k : Kind) : List Nat := (List.range 16).map fun j => constOf k (112 + j)
  row .i32 = [0, 1, 2, 4, 8, 16, 32, 64, 0xffffffff, 0xff, 0xffff, 0x80000000, 0x3f000000, 0x3f800000, 0x40000000, 0xbf800000]
  ∧ row .i64 = [0, 1, 2, 4, 8, 16, 32, 64, 0xffffffffffffffff, 0xff, 0xffff, 0x80000000, 0x3f000000, 0x3f800000, 0x40000000, 0xbf800000]
  ∧ row .f32 = [0, 0x3f800000, 0x40000000, 0x40800000, 0x41000000, 0x41800000, 0x42000000, 0x42800000, 0xbf800000, 0xff, 0xffff, 0x80000000,
      0x3f000000, 0x3f800000, 0x40000000, 0xbf800000]
  ∧ row .f64 = [0, 0x3ff0000000000000, 0x4000000000000000, 0x4010000000000000, 0x4020000000000000, 0x4030000000000000, 0x4040000000000000,
      0x4050000000000000, 0xbff0000000000000, 0xff, 0xffff, 0x80000000, 0x3fe0000000000000, 0x3ff0000000000000, 0x4000000000000000, 0xbff0000000000000]
  ∧ row .h16 = [0, 0x3c00, 0x4000, 0x4400, 0x4800, 0x4c00, 0x5000, 0x5400, 0xbc00, 0xff, 0xffff, 0, 0x3800, 0x3c00, 0x4000, 0xbc00]
  ∧ row .b16 = [0, 0x3f80, 0x4000, 0x4080, 0x4100, 0x4180, 0x4200, 0x4280, 0xbf80, 0xff, 0xffff, 0, 0x3f00, 0x3f80, 0x4000, 0xbf80]
  ∧ (row .pkf16 = (row .h16).map (· * 65537)) ∧ (row .pkbf16 = (row .b16).map (· * 65537))
  ∧ ∀ (s : State) (t : Nat) (p : Pos), 112 ≤ p.code → s.source t p none = ⟨constOf p.kind p.code, false⟩

/-- Special registers (R26, R63): what codes 96 to 111 read on a core thread and on a queue program, zero-extended in a 64-bit position and cut to 32 bits in a 32-bit one. Address registers (R59): a scratchpad operand reads a_k as the operands before it left it, is valid where a_k is a multiple of its size and a_k + size is within the allocation, and a post-increment then adds the size; an invalid one is the cause of the trap, and the thread's address registers stay as they were. -/
def Obligations.SpecialAndAddressRegisters : Prop :=
  (
  (∀ (s : State) (t : Nat) (w : Wave) (k : Crew) (g : Grid), isQueueTid t = false → s.waves.look (waveOf t) = some w → s.crewOf t = some k → s.gridOf t = some g →
    let gx := g.field 24 4 + 1
    let gy := g.field 28 2 + 1
    s.special t 96 = w.index * 128 + laneOf t ∧ s.special t 97 = laneOf t ∧ s.special t 98 = w.index ∧ s.special t 99 = k.index % 2 ^ 32
    ∧ s.special t 100 < gx ∧ s.special t 101 < gy ∧ s.special t 100 + gx * (s.special t 101 + gy * s.special t 102) = k.index
    ∧ s.special t 104 = (s.core (coreOf t)).cyc.toNat % 2 ^ 32 ∧ s.special t 105 = (s.core (coreOf t)).etime.toNat / 16 % 2 ^ 32
    ∧ s.special t 108 = (s.thread t).slb.toNat ∧ s.special t 110 = g.field 8 8
    ∧ (∀ i, i < 32 → ((s.special t 106).testBit i = (decide (i < k.ntags) && (k.tags.lookD i {}).done)))
    ∧ (∀ i, i < 32 → ((s.special t 107).testBit i = (decide (32 + i < k.ntags) && (k.tags.lookD (32 + i) {}).done))))
  ∧ (∀ (s : State) (t c : Nat), isQueueTid t = true →
    (c = 103 → s.special t c = 0x3f8 + queueOf t / 8) ∧ (c = 104 → s.special t c = (s.qcore (queueOf t / 8)).cyc.toNat % 2 ^ 32)
    ∧ (c ≠ 103 → c ≠ 104 → c ≠ 105 → s.special t c = 0))
  ∧ (∀ (s : State) (t : Nat) (p : Pos), 96 ≤ p.code → p.code < 112 →
    s.source t p none = ⟨if p.kind.wide then s.special t p.code else s.special t p.code % 2 ^ 32, false⟩))
  ∧ (
  (∀ (x : Thread) (alloc base : Nat) (p : Pos) (r : List Pos), p.isScratch = true →
    let k := (p.code - 64) % 8
    let a := (x.areg' k).val.toNat
    let y := if 72 ≤ p.code then x.setAreg k ⟨BitVec.ofNat 32 (a + p.size), (x.areg' k).psn⟩ else x
    (a % p.size ≠ 0 ∨ alloc < a + p.size → resolveScratch x alloc base (p :: r) = .error { group := 1, code := 9, d0 := a, d1 := p.code + p.size * 256 })
    ∧ (a % p.size = 0 → a + p.size ≤ alloc →
      (∀ c, resolveScratch y alloc base r = .error c → resolveScratch x alloc base (p :: r) = .error c)
      ∧ ∀ z l, resolveScratch y alloc base r = .ok (z, l) → resolveScratch x alloc base (p :: r) = .ok (z, some (base + a) :: l)))
  ∧ (∀ (i : Instr) (s : State) (t : Nat) (x' : Thread) (vs : List (Pos × OpVal)) (d : Dest) (k : Nat), Solo i s t x' vs d →
    (∀ p ∈ i.positions, p.isScratch = true → 72 ≤ p.code → (p.code - 64) % 8 ≠ k) → x'.areg' k = (s.thread t).areg' k)
  ∧ (∀ (i : Instr) (s : State) (t : Nat) (x' : Thread) (vs : List (Pos × OpVal)) (d : Dest), Solo i s t x' vs d →
    x' = { s.thread t with areg := x'.areg }))

/-- A result's frame (R68, R174, R176): the destination takes the result, MODE its flags and the PC moves on by 4; every other register of the thread, every other thread and every byte of memory is as before, but for the address registers that the operands move and the view entries that they pop. -/
def Obligations.ResultFrame : Prop :=
  ∀ (i : Instr) (s : State) (t : Nat) (x' : Thread) (vs : List (Pos × OpVal)) (d : Dest) (v : Nat) (f : Flags), Solo i s t x' vs d →
    let s' := s.settled i t x' d (v, f)
    let x := s.thread t
    let y := s'.thread t
    (∀ u, u ≠ t → s'.thread u = s.thread u)
    ∧ s'.phys = s.phys ∧ s'.l1 = s.l1 ∧ s'.tile = s.tile ∧ s'.banks = s.banks ∧ s'.cores = s.cores ∧ s'.crews = s.crews ∧ s'.contexts = s.contexts
    ∧ s'.queues = s.queues ∧ s'.regs = s.regs ∧ s'.pend = s.pend
    ∧ y.pc = pcAdd x.pc 4 ∧ y.mode = (x.mode ||| f.bits) ∧ y.wb = x.wb ∧ y.rb = x.rb ∧ y.run = x.run ∧ y.trap = x.trap ∧ y.phas = x.phas
    ∧ y.loads = x.loads ∧ y.stores = x.stores ∧ y.copies = x.copies ∧ y.tiles = x.tiles ∧ y.slb = x.slb ∧ y.areg = x'.areg
    ∧ (∀ p n, d = .reg p n →
        s'.scratch = s.scratch ∧ (∀ q, q < p ∨ p + n ≤ q → y.regs.lookD q {} = x.regs.lookD q {})
        ∧ ∀ j, j < n → y.regs.lookD (p + j) {} = ⟨BitVec.ofNat 32 (v / 2 ^ (32 * j)), false⟩)
    ∧ (∀ b n, d = .scratch b n →
        y.regs = x.regs ∧ (∀ a, a < b ∨ b + n ≤ a → s'.scratch.byte a = s.scratch.byte a)
        ∧ ∀ j, j < n → s'.scratch.byte (b + j) = BitVec.ofNat 8 (v / 256 ^ j))
    ∧ (d = .none → y.regs = x.regs ∧ s'.scratch = s.scratch)

/-- Poison (R367, R368) in instructions of every computing family: a poisoned source poisons the result, raises no flag, and is never stored. The bits of a poisoned result are free (log 9). Failed checks (R376 to R382) of instructions of every family: a word check traps every thread of the packet with one cause, an operand check the thread with its own, and the instruction does nothing. -/
def Obligations.PoisonAndFaults : Prop :=
  (
  ∀ (u : Bool) (d a b : BitVec 7) (r : BitVec 2) (s : BitVec 4) (i : BitVec 11) (n : BitVec 5) (g : BitVec 4) (m : BitVec 3),
    Poisons (.add u d a b) ∧ Poisons (.mulI64 u d a b) ∧ Poisons (.mad u d a b) ∧ Poisons (.sel u d a b) ∧ Poisons (.seteq u d a b) ∧ Poisons (.setltI64 u d a b)
    ∧ Poisons (.addi u d a i) ∧ Poisons (.shli u d a n) ∧ Poisons (.bfi u d a n n) ∧ Poisons (.lea u s d a b) ∧ Poisons (.fadd u d a b) ∧ Poisons (.fmaRm u r d a b)
    ∧ Poisons (.fsetlt u d a b) ∧ Poisons (.hfma2F16 u d a b) ∧ Poisons (.dfma u d a b) ∧ Poisons (.dsetun u d a b) ∧ Poisons (.sqrtF32 u d a) ∧ Poisons (.exp2 u d a)
    ∧ Poisons (.idivI32 u d a b) ∧ Poisons (.cvt u d a g g m) ∧ Poisons (.pkbxBx2 u d a) ∧ Poisons (.rngk u d a b))
  ∧ (
  ∀ (u : Bool) (d a b : BitVec 7) (i : BitVec 11) (j : Bool) (c : BitVec 4) (o : BitVec 14) (g : BitVec 6) (k : BitVec 3),
    Faults (.add u d a b) ∧ Faults (.mul u d a b) ∧ Faults (.addi u d a i) ∧ Faults (.mova k a i) ∧ Faults (.fma u d a b) ∧ Faults (.dadd u d a b)
    ∧ Faults (.dseteq u d a b) ∧ Faults (.sin u d a) ∧ Faults (.iremN32 u d a b) ∧ Faults (.upbxBx4 u d a) ∧ Faults (.bredF32 a b) ∧ Faults (.binfin d a)
    ∧ Faults (.waita d a b) ∧ Faults (.twall a) ∧ Faults (.phreg d a b) ∧ Faults (.wopen d a b) ∧ Faults (.tres g a j) ∧ Faults (.trace a g j)
    ∧ Faults (.launch g a) ∧ Faults (.br j c a o) ∧ Faults (.callx u a c) ∧ Faults (.mts a i))

/-- Positions of 64 bits (R58): a register code names the even pair it starts, low register first; an odd register code is CODE 0x0006 of the word and the instruction fails its checks; a scratchpad operand there takes 8 bytes; special registers and constants are extended as R63 and R64 say. -/
def Obligations.PairPositions : Prop :=
  (∀ (q : Bool) (f c sh : Nat) (r : Role) (k : Kind), k ∈ [Kind.i64, .f64] → c < 64 →
    let p : Pos := ⟨f, c, sh, k, r⟩
    (c % 2 = 1 → p.fault q = some ⟨6, 0x7f * 2 ^ sh, c⟩) ∧ (c % 2 = 0 → p.fault q = none)
    ∧ ∀ (s : State) (t : Nat), s.source t p none =
        ⟨((s.thread t).reg c).val.toNat + 2 ^ 32 * ((s.thread t).reg (c + 1)).val.toNat, ((s.thread t).reg c).psn || ((s.thread t).reg (c + 1)).psn⟩)
  ∧ (∀ (i : Instr) (q : Bool) (p : Pos), p ∈ i.positions → p.kind.wide = true → p.code < 64 → p.code % 2 = 1 → i.check q ≠ none)
  ∧ (∀ (s : State) (t b f c sh : Nat) (r : Role) (k : Kind), k.wide = true →
    (s.source t ⟨f, c, sh, k, r⟩ (some b)).val = leNat ((s.scratch.read 4 b 8).map (·.1))
    ∧ (s.thread t).dest ⟨f, c, sh, k, r⟩ (some b) = .scratch b 8)
  ∧ (∀ (s : State) (t b : Nat) (v : Nat), (s.writeDest t (.scratch b 8) v false).scratch.read 4 b 8 =
      (List.range 8).map fun j => (BitVec.ofNat 8 (v / 256 ^ j), (s.writeDest t (.scratch b 8) v false).scratch.poisoned ((b + j) / 4)))
  ∧ (∀ (s : State) (t f c sh : Nat) (r : Role) (k : Kind), k.wide = true →
    (96 ≤ c → c < 112 → s.source t ⟨f, c, sh, k, r⟩ none = ⟨s.special t c, false⟩)
    ∧ (112 ≤ c → c < 128 → k ≠ .f64 → s.source t ⟨f, c, sh, k, r⟩ none = ⟨if c = 120 then 2 ^ 64 - 1 else constOf .i32 c, false⟩))

/-- FMIN, FMAX, DMIN and DMAX (R187): an operand exactly, with −0 below +0; both NaN gives the first with its quiet bit set (R72), one NaN the other operand; a signalling NaN sets NV and nothing else is set. -/
def Obligations.FloatMinMax : Prop :=
  ∀ (u : Bool) (d a b : BitVec 7),
    let r (f : Fmt) (isMax : Bool) (x y : Nat) : Nat × Flags :=
      let fl : Flags := { nv := f.isSNaN x || f.isSNaN y }
      let atMost : Bool := (f.neg x && !f.neg y) || (!f.neg x && !f.neg y && f.mag x ≤ f.mag y) || (f.neg x && f.neg y && f.mag y ≤ f.mag x)
      if f.isNaN x && f.isNaN y then (f.quiet x, fl)
      else if f.isNaN x then (y, fl)
      else if f.isNaN y then (x, fl)
      else (if atMost != isMax then x else y, {})
    Computes (.fmin u d a b) (fun _ v => r f32 false (nv v 0) (nv v 1)) ∧ Computes (.fmax u d a b) (fun _ v => r f32 true (nv v 0) (nv v 1))
    ∧ Computes (.dmin u d a b) (fun _ v => r f64 false (nv v 0) (nv v 1)) ∧ Computes (.dmax u d a b) (fun _ v => r f64 true (nv v 0) (nv v 1))

/-- Global pointers (R111): adding an offset keeps bits 63:56 and wraps the VA modulo 2^56, in LEA, LEAI, a load's offset, a branch's target and the next instruction's address. The arithmetic of the PC is log 39, and SP 11 taking R211's modulus 2^64 where R154 keeps bits 63:56 is log 60: the model's choice. -/
def Obligations.PointerArithmetic : Prop :=
  (∀ (p : Nat) (off : Int), p < 2 ^ 64 → ptrAdd p off < 2 ^ 64 ∧ ptrAdd p off / 2 ^ 56 = p / 2 ^ 56
    ∧ ((ptrAdd p off % 2 ^ 56 : Nat) : Int) = ((p % 2 ^ 56 : Nat) + off) % 2 ^ 56)
  ∧ (∀ (u : Bool) (sh : BitVec 4) (d a b : BitVec 7) (i : BitVec 11),
    Computes (.lea u sh d a b) (fun _ v => (ptrAdd (dv v 0).toNat ((wv v 1).toInt * 2 ^ sh.toNat), {}))
    ∧ Computes (.leai u d a i) (fun _ v => (ptrAdd (dv v 0).toNat i.toInt, {})))
  ∧ (∀ (space p : Nat) (off : Int), laneAddr 0 p off = ptrAdd p off ∧ laneAddr 3 p off = trunc ((p : Int) + off) 64
    ∧ (space ≠ 0 → space ≠ 3 → laneAddr space p off = trunc ((p : Int) + off) 32))
  ∧ (∀ (s : State) (t : Nat) (off : Int), s.target t off = ptrAdd (s.thread t).pc.toNat (4 * off))
  ∧ (∀ (s : State) (t : Nat), ((s.advance t).thread t).pc.toNat = ptrAdd (s.thread t).pc.toNat 4)

/-- Every well-formed instruction comes back from its word, with every operand at every value the encoding admits, and an instruction without a word is decoded from none (R151 to R163). -/
def Obligations.DecodeEncodeAgree : Prop :=
  (∀ i : Instr, i.wellFormed = true → encode i ≠ 0 → decode (encode i) = some i)
  ∧ (∀ (i : Instr) (w : Word), encode i = 0 → decode w ≠ some i)

/-- Every word that decodes is the word of the instruction it decodes to, so no bit of a word is dropped (R151 to R163). -/
def Obligations.EncodeDecodeAgree : Prop :=
  ∀ (w : Word) (i : Instr), decode w = some i → encode i = w

/-- The manual's own words: what R168's program and the examples of chapter 7 encode to (R59, R153 to R162). -/
def Obligations.DecodeWords : Prop :=
  decode 0x0210_64c9 = some (.add false 65 73 73)
  ∧ decode 0xf100_0011 = some (.br true 8 0 17)
  ∧ decode 0x5820_1303 = some (.atom32 8 2 3 0 0 3)
  ∧ decode 0x1a24_1678 = some (.limm false 9 0x1678)
  ∧ decode 0x1c24_48d1 = some (.lhi false 9 0x48d1)
  ∧ decode 0x500b_7300 = some (.ld false 2 110 3 0 0)
  ∧ decode 0x1e40_8160 = some (.lea false 2 2 2 96)
  ∧ decode 0x3041_8372 = some (.fmul false 6 6 114)
  ∧ decode 0x5418_2200 = some (.st false 6 4 2 0 0)
  ∧ decode 0x76a0_0000 = some .exit
  ∧ decode 0x7800_0020 = some (.mfs false 0 32)
  ∧ decode 0 = none

/-- One step (R151, R376, R379, log 2): the first listed event happens; else the first chosen packet issues what its word decodes to, a word of no instruction is the row ILLEGAL_INSTRUCTION and a failed fetch the row INSTRUCTION_FETCH_FAULT; else the default order goes on. What an instruction that has issued in some thread costs its core is charged beside it (R29, R41, R43): its pipelines' stages from the next cycle on, its entry's age; no thread, no memory and no counter changes by it. The word is the four bytes at the PC in a local page of the device. Poisoned words run (log 27), lines of a pending mapping hold a fetch (log 57), and the agenda is log 2: the model's choice. -/
def Obligations.StepRunsDecoded : Prop :=
  (∀ (e : Instr) (r : List Instr) (s : State), s.agenda = e :: r → step s = exec e { s with agenda := r })
  ∧ (∀ (p : Packet) (r : List Packet) (s s1 : State) (t : Nat), s.agenda = [] → s.picks = p :: r → p.tids.head? = some t →
    let s0 : State := { s with picks := r, cur := p }
    let issues (i : Instr) : Prop := ∀ s2, exec i s1 = .next s2 →
      ((∃ u ∈ s1.cur.tids, s1.movedBy s2 u = true) → step s = .next (s2.charge s1.cur)) ∧ ((∀ u ∈ s1.cur.tids, s1.movedBy s2 u = false) → step s = .next s2)
    (∀ w i, s0.fetch t = (s1, .word w) → decode w = some i → issues i)
    ∧ (∀ w, s0.fetch t = (s1, .word w) → decode w = none → issues (.illegalInstruction w))
    ∧ (∀ c, s0.fetch t = (s1, .fail c) → step s = exec .instructionFetchFault s0)
    ∧ (s0.fetch t = (s1, .wait) → step s = .next s1))
  ∧ (∀ (p : Packet) (r : List Packet) (s : State), s.agenda = [] → s.picks = p :: r → p.tids = [] →
    step s = .next ({ s with picks := r, cur := p } : State).lateRecords)
  ∧ (∀ (p : Packet) (s : State),
    let s' := s.charge p
    s'.threads = s.threads ∧ s'.phys = s.phys ∧ s'.l1 = s.l1 ∧ s'.scratch = s.scratch ∧ s'.tile = s.tile ∧ s'.banks = s.banks ∧ s'.regs = s.regs
      ∧ s'.pend = s.pend ∧ s'.ops = s.ops ∧ s'.contexts = s.contexts
      ∧ ∀ k, (s'.core k).cyc = (s.core k).cyc ∧ (s'.core k).etime = (s.core k).etime ∧ (s'.core k).htime = (s.core k).htime ∧ (s'.core k).issT = (s.core k).issT
        ∧ (s'.core k).cycT = (s.core k).cycT ∧ (s'.core k).phasers = (s.core k).phasers ∧ (s'.core k).windows = (s.core k).windows)
  ∧ (∀ (p : Packet) (pc : Dword) (t : Nat) (s : State), p.pc = some pc → p.tids.head? = some t → isQueueTid t = false →
    ((s.charge p).core (coreOf t)).issuing = (s.core (coreOf t)).issuing ++ p.pipes.map fun k => (k, p.cls, p.prio))
  ∧ (∀ (s : State), s.agenda = [] → s.picks = [] → step s = s.idle)
  ∧ (∀ (s s1 : State) (t : Nat) (tr : Tr), (s.thread t).pc.toNat % 4 = 0 → s.translateEngine (whoOf t) (s.ctxOf t) (s.thread t).pc.toNat 4 .fetch = (s1, .ok tr) →
    tr.remote = none → inRegs tr.pa = false → s1.fencedErr tr.pa = none → tr.cls ≠ 1 → (tr.cls = 2 → tr.owner = false) →
    s1.mapPending (lineOf tr.pa) = false →
    let bs := s1.homeRead tr.pa 4
    s.fetch t = (s1.fetchHome t (s.thread t).pc.toNat tr.pa bs, .word (BitVec.ofNat 32 (leNat (bs.map (·.1))))))

/-- Every step of every state answers a next state (R28, R377, R379, R401, R415): no instruction and no event stops the machine, whatever the data (the model's own completeness; traps, refusals of engines and waits are states the manual describes). -/
def Obligations.EveryStepAnswersNext : Prop :=
  (∀ s : State, ∃ s', step s = .next s') ∧ ∀ (i : Instr) (s : State), ∃ s', exec i s = .next s'

/-- Every step and every instruction keeps the machine's invariant: from a state whose storages are in canonical form, with what crews have saved, and whose maps list each key once, any next state is such a state (the model's own form of its data; that reset has it is in ResetState). -/
def Obligations.EveryStepKeepsInvariant : Prop :=
  ∀ s : State, s.Inv → (∀ s', step s = .next s' → s'.Inv) ∧ ∀ (i : Instr) (s' : State), exec i s = .next s' → s'.Inv

/-- What reset leaves (R44, R67, R230, R258, R284, R309, R338, R345, R346): storage that reads 0 and is clean, nothing resident, every counter and phaser 0, CAD 1, no queue program, no valid slot, start-up before step 1 and nothing locked. Registers without a reset value in the manual hold 0, and HBM reads 0 (logs 4 and 5). -/
def Obligations.ResetState : Prop :=
  let s := State.reset
  (∀ a, s.phys.byte a = 0 ∧ s.phys.poisoned a = false ∧ s.scratch.byte a = 0 ∧ s.tile.byte a = 0 ∧ s.banks.byte a = 0)
  ∧ (∀ t, (s.thread t).run = .exited ∧ (s.thread t).mode = 0 ∧ (s.thread t).wb = 0 ∧ (s.thread t).regs = [] ∧ (s.thread t).trap = {} ∧ (s.thread t).phas = [])
  ∧ (∀ k, (s.core k).cyc = 0 ∧ (s.core k).etime = 0 ∧ (s.core k).htime = 0 ∧ (s.core k).cadence = 1 ∧ (s.core k).busum = 0 ∧ (s.core k).bankCrew = none
      ∧ (s.core k).bank = 0 ∧ (s.core k).mxc = [] ∧ (s.core k).entries = [] ∧ (s.core k).phasers = [] ∧ (s.core k).windows = [])
  ∧ (∀ q, (s.queue q).run = false ∧ (s.queue q).flt = false ∧ (s.queue q).rej = false ∧ (s.queue q).sigCount = 0 ∧ (s.slot q).valid = false)
  ∧ s.tokens = ⟨0, 0, 0, 0⟩ ∧ s.bootStep = 0 ∧ s.locked = false ∧ s.contexts = [] ∧ s.crews = [] ∧ s.grids = [] ∧ s.pend = [] ∧ s.ops = []
  ∧ s.Inv

/-- What memory instructions leave as it was (R135, R137, R212): at issue a load and a store change no byte of any storage, no other thread and no register of their own; a store performed into the L1 view, where its line has or finds a frame there, writes its bytes there and no other byte of any view, home or scratchpad (a full L1 first writes a line back, R101); a write at its home writes its bytes and no other; data that returns to registers writes those registers of that thread and nothing else. -/
def Obligations.MemoryFrames : Prop :=
  (∀ (s : State) (t : Nat) (o : PendOp), ∀ s' ∈ [s.issuedLoad t o, s.issuedStore t o],
    s'.phys = s.phys ∧ s'.l1 = s.l1 ∧ s'.scratch = s.scratch ∧ s'.tile = s.tile ∧ s'.banks = s.banks ∧ s'.cores = s.cores ∧ s'.crews = s.crews
    ∧ (∀ u, u ≠ t → s'.thread u = s.thread u) ∧ (s'.thread t).regs = (s.thread t).regs ∧ (s'.thread t).areg = (s.thread t).areg
    ∧ (s'.thread t).mode = (s.thread t).mode ∧ (s'.thread t).wb = (s.thread t).wb ∧ (s'.thread t).trap = (s.thread t).trap
    ∧ (s'.thread t).phas = (s.thread t).phas ∧ (s'.thread t).slb = (s.thread t).slb)
  ∧ (∀ (s : State) (o : PendOp), o.place = 0 → s.direct o = false →
    let s' := s.performStore o
    let key := l1Key o.core o.ctx o.pa
    s'.tile = s.tile ∧ s'.banks = s.banks
    ∧ (s.l1HasLine o.core o.ctx o.pa = true ∨ s.l1Full o.core = false →
      s'.phys = s.phys ∧ s'.scratch = s.scratch ∧ ∀ k, k < key ∨ key + o.data.length ≤ k → s'.l1.look k = s.l1.look k)
    ∧ (∀ j, j < o.data.length → s'.l1.look (key + j) = some ⟨o.data.getD j 0, true, false⟩)
    ∧ (∀ u, u ≠ o.tid → (∀ x ∈ o.bcast, x.1 ≠ u) → s'.thread u = s.thread u)
    ∧ (s'.thread o.tid).regs = (s.thread o.tid).regs ∧ (s'.thread o.tid).mode = (s.thread o.tid).mode
    ∧ ((∀ l n c m, (s.thread o.tid).run ≠ .parked (.counters l n c m)) → (s'.thread o.tid).pc = (s.thread o.tid).pc))
  ∧ (∀ (s : State) (pa : Nat) (bs : List MByte), (∀ x ∈ s.cores, x.2.maps = []) → s.frames = [] →
    let s' := s.homeWrite pa bs
    s'.l1 = s.l1 ∧ s'.scratch = s.scratch ∧ s'.threads = s.threads
    ∧ (∀ a, a < pa ∨ pa + bs.length ≤ a → s'.phys.byte a = s.phys.byte a)
    ∧ (∀ j, j < bs.length → s'.phys.byte (pa + j) = (bs.getD j (0, false)).1))
  ∧ (∀ (s : State) (o : PendOp) (v p n : Nat), o.dst = .reg p n → o.bcast = [] →
    let s' := s.deliverOp o v false
    s'.phys = s.phys ∧ s'.l1 = s.l1 ∧ s'.scratch = s.scratch ∧ (∀ u, u ≠ o.tid → s'.thread u = s.thread u)
    ∧ (∀ q, q < p ∨ p + n ≤ q → (s'.thread o.tid).regs.lookD q {} = (s.thread o.tid).regs.lookD q {})
    ∧ (∀ j, j < n → (s'.thread o.tid).regs.lookD (p + j) {} = ⟨BitVec.ofNat 32 (v / 2 ^ (32 * j)), false⟩)
    ∧ (s'.thread o.tid).mode = (s.thread o.tid).mode ∧ (s'.thread o.tid).pc = (s.thread o.tid).pc)
end

