-- ==== Sys2Proof/Laws/Dispatch.lean ====
section
/-! SUPPORT. What `exec` calls for each instruction, one equation an arm, so that no proof unfolds the dispatch. -/

namespace Sys2Proof.Machine

theorem exec_add (u : Bool) (d a b : BitVec 7) (s : State) : exec (.add u d a b) s = execAdd u d a b s := rfl
theorem exec_sub (u : Bool) (d a b : BitVec 7) (s : State) : exec (.sub u d a b) s = execSub u d a b s := rfl
theorem exec_minI32 (u : Bool) (d a b : BitVec 7) (s : State) : exec (.minI32 u d a b) s = execMinI32 u d a b s := rfl
theorem exec_minN32 (u : Bool) (d a b : BitVec 7) (s : State) : exec (.minN32 u d a b) s = execMinN32 u d a b s := rfl
theorem exec_maxI32 (u : Bool) (d a b : BitVec 7) (s : State) : exec (.maxI32 u d a b) s = execMaxI32 u d a b s := rfl
theorem exec_maxN32 (u : Bool) (d a b : BitVec 7) (s : State) : exec (.maxN32 u d a b) s = execMaxN32 u d a b s := rfl
theorem exec_abs (u : Bool) (d a : BitVec 7) (s : State) : exec (.abs u d a) s = execAbs u d a s := rfl
theorem exec_neg (u : Bool) (d a : BitVec 7) (s : State) : exec (.neg u d a) s = execNeg u d a s := rfl
theorem exec_and (u : Bool) (d a b : BitVec 7) (s : State) : exec (.and u d a b) s = execAnd u d a b s := rfl
theorem exec_or (u : Bool) (d a b : BitVec 7) (s : State) : exec (.or u d a b) s = execOr u d a b s := rfl
theorem exec_xor (u : Bool) (d a b : BitVec 7) (s : State) : exec (.xor u d a b) s = execXor u d a b s := rfl
theorem exec_andn (u : Bool) (d a b : BitVec 7) (s : State) : exec (.andn u d a b) s = execAndn u d a b s := rfl
theorem exec_shl (u : Bool) (d a b : BitVec 7) (s : State) : exec (.shl u d a b) s = execShl u d a b s := rfl
theorem exec_shr (u : Bool) (d a b : BitVec 7) (s : State) : exec (.shr u d a b) s = execShr u d a b s := rfl
theorem exec_sar (u : Bool) (d a b : BitVec 7) (s : State) : exec (.sar u d a b) s = execSar u d a b s := rfl
theorem exec_addI64 (u : Bool) (d a b : BitVec 7) (s : State) : exec (.addI64 u d a b) s = execAddI64 u d a b s := rfl
theorem exec_subI64 (u : Bool) (d a b : BitVec 7) (s : State) : exec (.subI64 u d a b) s = execSubI64 u d a b s := rfl
theorem exec_minI64 (u : Bool) (d a b : BitVec 7) (s : State) : exec (.minI64 u d a b) s = execMinI64 u d a b s := rfl
theorem exec_minN64 (u : Bool) (d a b : BitVec 7) (s : State) : exec (.minN64 u d a b) s = execMinN64 u d a b s := rfl
theorem exec_maxI64 (u : Bool) (d a b : BitVec 7) (s : State) : exec (.maxI64 u d a b) s = execMaxI64 u d a b s := rfl
theorem exec_maxN64 (u : Bool) (d a b : BitVec 7) (s : State) : exec (.maxN64 u d a b) s = execMaxN64 u d a b s := rfl
theorem exec_absI64 (u : Bool) (d a : BitVec 7) (s : State) : exec (.absI64 u d a) s = execAbsI64 u d a s := rfl
theorem exec_negI64 (u : Bool) (d a : BitVec 7) (s : State) : exec (.negI64 u d a) s = execNegI64 u d a s := rfl
theorem exec_andI64 (u : Bool) (d a b : BitVec 7) (s : State) : exec (.andI64 u d a b) s = execAndI64 u d a b s := rfl
theorem exec_orI64 (u : Bool) (d a b : BitVec 7) (s : State) : exec (.orI64 u d a b) s = execOrI64 u d a b s := rfl
theorem exec_xorI64 (u : Bool) (d a b : BitVec 7) (s : State) : exec (.xorI64 u d a b) s = execXorI64 u d a b s := rfl
theorem exec_andnI64 (u : Bool) (d a b : BitVec 7) (s : State) : exec (.andnI64 u d a b) s = execAndnI64 u d a b s := rfl
theorem exec_shlI64 (u : Bool) (d a b : BitVec 7) (s : State) : exec (.shlI64 u d a b) s = execShlI64 u d a b s := rfl
theorem exec_shrI64 (u : Bool) (d a b : BitVec 7) (s : State) : exec (.shrI64 u d a b) s = execShrI64 u d a b s := rfl
theorem exec_sarI64 (u : Bool) (d a b : BitVec 7) (s : State) : exec (.sarI64 u d a b) s = execSarI64 u d a b s := rfl
theorem exec_mulI64 (u : Bool) (d a b : BitVec 7) (s : State) : exec (.mulI64 u d a b) s = execMulI64 u d a b s := rfl
theorem exec_fshl (u : Bool) (d a b : BitVec 7) (s : State) : exec (.fshl u d a b) s = execFshl u d a b s := rfl
theorem exec_fshr (u : Bool) (d a b : BitVec 7) (s : State) : exec (.fshr u d a b) s = execFshr u d a b s := rfl
theorem exec_popc (u : Bool) (d a : BitVec 7) (s : State) : exec (.popc u d a) s = execPopc u d a s := rfl
theorem exec_clz (u : Bool) (d a : BitVec 7) (s : State) : exec (.clz u d a) s = execClz u d a s := rfl
theorem exec_ctz (u : Bool) (d a : BitVec 7) (s : State) : exec (.ctz u d a) s = execCtz u d a s := rfl
theorem exec_brev (u : Bool) (d a : BitVec 7) (s : State) : exec (.brev u d a) s = execBrev u d a s := rfl
theorem exec_prmb (u : Bool) (d a b : BitVec 7) (s : State) : exec (.prmb u d a b) s = execPrmb u d a b s := rfl
theorem exec_mul (u : Bool) (d a b : BitVec 7) (s : State) : exec (.mul u d a b) s = execMul u d a b s := rfl
theorem exec_mulhI32 (u : Bool) (d a b : BitVec 7) (s : State) : exec (.mulhI32 u d a b) s = execMulhI32 u d a b s := rfl
theorem exec_mulhN32 (u : Bool) (d a b : BitVec 7) (s : State) : exec (.mulhN32 u d a b) s = execMulhN32 u d a b s := rfl
theorem exec_mad (u : Bool) (d a b : BitVec 7) (s : State) : exec (.mad u d a b) s = execMad u d a b s := rfl
theorem exec_sel (u : Bool) (d a b : BitVec 7) (s : State) : exec (.sel u d a b) s = execSel u d a b s := rfl
theorem exec_seteq (u : Bool) (d a b : BitVec 7) (s : State) : exec (.seteq u d a b) s = execSeteq u d a b s := rfl
theorem exec_setne (u : Bool) (d a b : BitVec 7) (s : State) : exec (.setne u d a b) s = execSetne u d a b s := rfl
theorem exec_setltI (u : Bool) (d a b : BitVec 7) (s : State) : exec (.setltI u d a b) s = execSetltI u d a b s := rfl
theorem exec_setleI (u : Bool) (d a b : BitVec 7) (s : State) : exec (.setleI u d a b) s = execSetleI u d a b s := rfl
theorem exec_setgtI (u : Bool) (d a b : BitVec 7) (s : State) : exec (.setgtI u d a b) s = execSetgtI u d a b s := rfl
theorem exec_setgeI (u : Bool) (d a b : BitVec 7) (s : State) : exec (.setgeI u d a b) s = execSetgeI u d a b s := rfl
theorem exec_setltN (u : Bool) (d a b : BitVec 7) (s : State) : exec (.setltN u d a b) s = execSetltN u d a b s := rfl
theorem exec_setleN (u : Bool) (d a b : BitVec 7) (s : State) : exec (.setleN u d a b) s = execSetleN u d a b s := rfl
theorem exec_setgtN (u : Bool) (d a b : BitVec 7) (s : State) : exec (.setgtN u d a b) s = execSetgtN u d a b s := rfl
theorem exec_setgeN (u : Bool) (d a b : BitVec 7) (s : State) : exec (.setgeN u d a b) s = execSetgeN u d a b s := rfl
theorem exec_seteq64 (u : Bool) (d a b : BitVec 7) (s : State) : exec (.seteq64 u d a b) s = execSeteq64 u d a b s := rfl
theorem exec_setne64 (u : Bool) (d a b : BitVec 7) (s : State) : exec (.setne64 u d a b) s = execSetne64 u d a b s := rfl
theorem exec_setltI64 (u : Bool) (d a b : BitVec 7) (s : State) : exec (.setltI64 u d a b) s = execSetltI64 u d a b s := rfl
theorem exec_setleI64 (u : Bool) (d a b : BitVec 7) (s : State) : exec (.setleI64 u d a b) s = execSetleI64 u d a b s := rfl
theorem exec_setgtI64 (u : Bool) (d a b : BitVec 7) (s : State) : exec (.setgtI64 u d a b) s = execSetgtI64 u d a b s := rfl
theorem exec_setgeI64 (u : Bool) (d a b : BitVec 7) (s : State) : exec (.setgeI64 u d a b) s = execSetgeI64 u d a b s := rfl
theorem exec_setltN64 (u : Bool) (d a b : BitVec 7) (s : State) : exec (.setltN64 u d a b) s = execSetltN64 u d a b s := rfl
theorem exec_setleN64 (u : Bool) (d a b : BitVec 7) (s : State) : exec (.setleN64 u d a b) s = execSetleN64 u d a b s := rfl
theorem exec_setgtN64 (u : Bool) (d a b : BitVec 7) (s : State) : exec (.setgtN64 u d a b) s = execSetgtN64 u d a b s := rfl
theorem exec_setgeN64 (u : Bool) (d a b : BitVec 7) (s : State) : exec (.setgeN64 u d a b) s = execSetgeN64 u d a b s := rfl
theorem exec_addi (u : Bool) (d a : BitVec 7) (i : BitVec 11) (s : State) : exec (.addi u d a i) s = execAddi u d a i s := rfl
theorem exec_andi (u : Bool) (d a : BitVec 7) (i : BitVec 11) (s : State) : exec (.andi u d a i) s = execAndi u d a i s := rfl
theorem exec_ori (u : Bool) (d a : BitVec 7) (i : BitVec 11) (s : State) : exec (.ori u d a i) s = execOri u d a i s := rfl
theorem exec_xori (u : Bool) (d a : BitVec 7) (i : BitVec 11) (s : State) : exec (.xori u d a i) s = execXori u d a i s := rfl
theorem exec_shli (u : Bool) (d a : BitVec 7) (n : BitVec 5) (s : State) : exec (.shli u d a n) s = execShli u d a n s := rfl
theorem exec_shri (u : Bool) (d a : BitVec 7) (n : BitVec 5) (s : State) : exec (.shri u d a n) s = execShri u d a n s := rfl
theorem exec_sari (u : Bool) (d a : BitVec 7) (n : BitVec 5) (s : State) : exec (.sari u d a n) s = execSari u d a n s := rfl
theorem exec_bfx (u : Bool) (d a : BitVec 7) (s : BitVec 1) (w p : BitVec 5) (σ : State) : exec (.bfx u d a s w p) σ = execBfx u d a s w p σ := rfl
theorem exec_bfi (u : Bool) (d a : BitVec 7) (w p : BitVec 5) (s : State) : exec (.bfi u d a w p) s = execBfi u d a w p s := rfl
theorem exec_limm (u : Bool) (d : BitVec 7) (i : BitVec 18) (s : State) : exec (.limm u d i) s = execLimm u d i s := rfl
theorem exec_lhi (u : Bool) (d : BitVec 7) (i : BitVec 18) (s : State) : exec (.lhi u d i) s = execLhi u d i s := rfl
theorem exec_lea (u : Bool) (s : BitVec 4) (d a b : BitVec 7) (σ : State) : exec (.lea u s d a b) σ = execLea u s d a b σ := rfl
theorem exec_leai (u : Bool) (d a : BitVec 7) (i : BitVec 11) (s : State) : exec (.leai u d a i) s = execLeai u d a i s := rfl
theorem exec_mova (k : BitVec 3) (a : BitVec 7) (i : BitVec 11) (s : State) : exec (.mova k a i) s = execMova k a i s := rfl
theorem exec_fadd (u : Bool) (d a b : BitVec 7) (s : State) : exec (.fadd u d a b) s = execFadd u d a b s := rfl
theorem exec_fsub (u : Bool) (d a b : BitVec 7) (s : State) : exec (.fsub u d a b) s = execFsub u d a b s := rfl
theorem exec_fmul (u : Bool) (d a b : BitVec 7) (s : State) : exec (.fmul u d a b) s = execFmul u d a b s := rfl
theorem exec_fma (u : Bool) (d a b : BitVec 7) (s : State) : exec (.fma u d a b) s = execFma u d a b s := rfl
theorem exec_fmin (u : Bool) (d a b : BitVec 7) (s : State) : exec (.fmin u d a b) s = execFmin u d a b s := rfl
theorem exec_fmax (u : Bool) (d a b : BitVec 7) (s : State) : exec (.fmax u d a b) s = execFmax u d a b s := rfl
theorem exec_faddRm (u : Bool) (m : BitVec 2) (d a b : BitVec 7) (s : State) : exec (.faddRm u m d a b) s = execFaddRm u m d a b s := rfl
theorem exec_fsubRm (u : Bool) (m : BitVec 2) (d a b : BitVec 7) (s : State) : exec (.fsubRm u m d a b) s = execFsubRm u m d a b s := rfl
theorem exec_fmulRm (u : Bool) (m : BitVec 2) (d a b : BitVec 7) (s : State) : exec (.fmulRm u m d a b) s = execFmulRm u m d a b s := rfl
theorem exec_fmaRm (u : Bool) (m : BitVec 2) (d a b : BitVec 7) (s : State) : exec (.fmaRm u m d a b) s = execFmaRm u m d a b s := rfl
theorem exec_fseteq (u : Bool) (d a b : BitVec 7) (s : State) : exec (.fseteq u d a b) s = execFseteq u d a b s := rfl
theorem exec_fsetne (u : Bool) (d a b : BitVec 7) (s : State) : exec (.fsetne u d a b) s = execFsetne u d a b s := rfl
theorem exec_fsetlt (u : Bool) (d a b : BitVec 7) (s : State) : exec (.fsetlt u d a b) s = execFsetlt u d a b s := rfl
theorem exec_fsetle (u : Bool) (d a b : BitVec 7) (s : State) : exec (.fsetle u d a b) s = execFsetle u d a b s := rfl
theorem exec_fsetgt (u : Bool) (d a b : BitVec 7) (s : State) : exec (.fsetgt u d a b) s = execFsetgt u d a b s := rfl
theorem exec_fsetge (u : Bool) (d a b : BitVec 7) (s : State) : exec (.fsetge u d a b) s = execFsetge u d a b s := rfl
theorem exec_fsetun (u : Bool) (d a b : BitVec 7) (s : State) : exec (.fsetun u d a b) s = execFsetun u d a b s := rfl
theorem exec_fsetor (u : Bool) (d a b : BitVec 7) (s : State) : exec (.fsetor u d a b) s = execFsetor u d a b s := rfl
theorem exec_hadd2F16 (u : Bool) (d a b : BitVec 7) (s : State) : exec (.hadd2F16 u d a b) s = execHadd2F16 u d a b s := rfl
theorem exec_hmul2F16 (u : Bool) (d a b : BitVec 7) (s : State) : exec (.hmul2F16 u d a b) s = execHmul2F16 u d a b s := rfl
theorem exec_hfma2F16 (u : Bool) (d a b : BitVec 7) (s : State) : exec (.hfma2F16 u d a b) s = execHfma2F16 u d a b s := rfl
theorem exec_hadd2Bf16 (u : Bool) (d a b : BitVec 7) (s : State) : exec (.hadd2Bf16 u d a b) s = execHadd2Bf16 u d a b s := rfl
theorem exec_hmul2Bf16 (u : Bool) (d a b : BitVec 7) (s : State) : exec (.hmul2Bf16 u d a b) s = execHmul2Bf16 u d a b s := rfl
theorem exec_hfma2Bf16 (u : Bool) (d a b : BitVec 7) (s : State) : exec (.hfma2Bf16 u d a b) s = execHfma2Bf16 u d a b s := rfl
theorem exec_dadd (u : Bool) (d a b : BitVec 7) (s : State) : exec (.dadd u d a b) s = execDadd u d a b s := rfl
theorem exec_dsub (u : Bool) (d a b : BitVec 7) (s : State) : exec (.dsub u d a b) s = execDsub u d a b s := rfl
theorem exec_dmul (u : Bool) (d a b : BitVec 7) (s : State) : exec (.dmul u d a b) s = execDmul u d a b s := rfl
theorem exec_dfma (u : Bool) (d a b : BitVec 7) (s : State) : exec (.dfma u d a b) s = execDfma u d a b s := rfl
theorem exec_dmin (u : Bool) (d a b : BitVec 7) (s : State) : exec (.dmin u d a b) s = execDmin u d a b s := rfl
theorem exec_dmax (u : Bool) (d a b : BitVec 7) (s : State) : exec (.dmax u d a b) s = execDmax u d a b s := rfl
theorem exec_daddRm (u : Bool) (m : BitVec 2) (d a b : BitVec 7) (s : State) : exec (.daddRm u m d a b) s = execDaddRm u m d a b s := rfl
theorem exec_dsubRm (u : Bool) (m : BitVec 2) (d a b : BitVec 7) (s : State) : exec (.dsubRm u m d a b) s = execDsubRm u m d a b s := rfl
theorem exec_dmulRm (u : Bool) (m : BitVec 2) (d a b : BitVec 7) (s : State) : exec (.dmulRm u m d a b) s = execDmulRm u m d a b s := rfl
theorem exec_dfmaRm (u : Bool) (m : BitVec 2) (d a b : BitVec 7) (s : State) : exec (.dfmaRm u m d a b) s = execDfmaRm u m d a b s := rfl
theorem exec_dseteq (u : Bool) (d a b : BitVec 7) (s : State) : exec (.dseteq u d a b) s = execDseteq u d a b s := rfl
theorem exec_dsetne (u : Bool) (d a b : BitVec 7) (s : State) : exec (.dsetne u d a b) s = execDsetne u d a b s := rfl
theorem exec_dsetlt (u : Bool) (d a b : BitVec 7) (s : State) : exec (.dsetlt u d a b) s = execDsetlt u d a b s := rfl
theorem exec_dsetle (u : Bool) (d a b : BitVec 7) (s : State) : exec (.dsetle u d a b) s = execDsetle u d a b s := rfl
theorem exec_dsetgt (u : Bool) (d a b : BitVec 7) (s : State) : exec (.dsetgt u d a b) s = execDsetgt u d a b s := rfl
theorem exec_dsetge (u : Bool) (d a b : BitVec 7) (s : State) : exec (.dsetge u d a b) s = execDsetge u d a b s := rfl
theorem exec_dsetun (u : Bool) (d a b : BitVec 7) (s : State) : exec (.dsetun u d a b) s = execDsetun u d a b s := rfl
theorem exec_dsetor (u : Bool) (d a b : BitVec 7) (s : State) : exec (.dsetor u d a b) s = execDsetor u d a b s := rfl
theorem exec_rcpF32 (u : Bool) (d a : BitVec 7) (s : State) : exec (.rcpF32 u d a) s = execRcpF32 u d a s := rfl
theorem exec_rsqF32 (u : Bool) (d a : BitVec 7) (s : State) : exec (.rsqF32 u d a) s = execRsqF32 u d a s := rfl
theorem exec_sqrtF32 (u : Bool) (d a : BitVec 7) (s : State) : exec (.sqrtF32 u d a) s = execSqrtF32 u d a s := rfl
theorem exec_exp2 (u : Bool) (d a : BitVec 7) (s : State) : exec (.exp2 u d a) s = execExp2 u d a s := rfl
theorem exec_log2 (u : Bool) (d a : BitVec 7) (s : State) : exec (.log2 u d a) s = execLog2 u d a s := rfl
theorem exec_sin (u : Bool) (d a : BitVec 7) (s : State) : exec (.sin u d a) s = execSin u d a s := rfl
theorem exec_cos (u : Bool) (d a : BitVec 7) (s : State) : exec (.cos u d a) s = execCos u d a s := rfl
theorem exec_rcpF64 (u : Bool) (d a : BitVec 7) (s : State) : exec (.rcpF64 u d a) s = execRcpF64 u d a s := rfl
theorem exec_rsqF64 (u : Bool) (d a : BitVec 7) (s : State) : exec (.rsqF64 u d a) s = execRsqF64 u d a s := rfl
theorem exec_sqrtF64 (u : Bool) (d a : BitVec 7) (s : State) : exec (.sqrtF64 u d a) s = execSqrtF64 u d a s := rfl
theorem exec_idivI32 (u : Bool) (d a b : BitVec 7) (s : State) : exec (.idivI32 u d a b) s = execIdivI32 u d a b s := rfl
theorem exec_idivN32 (u : Bool) (d a b : BitVec 7) (s : State) : exec (.idivN32 u d a b) s = execIdivN32 u d a b s := rfl
theorem exec_iremI32 (u : Bool) (d a b : BitVec 7) (s : State) : exec (.iremI32 u d a b) s = execIremI32 u d a b s := rfl
theorem exec_iremN32 (u : Bool) (d a b : BitVec 7) (s : State) : exec (.iremN32 u d a b) s = execIremN32 u d a b s := rfl
theorem exec_cvt (u : Bool) (d a : BitVec 7) (t s : BitVec 4) (r : BitVec 3) (σ : State) : exec (.cvt u d a t s r) σ = execCvt u d a t s r σ := rfl
theorem exec_cvtd (u : Bool) (d a : BitVec 7) (t s : BitVec 4) (r : BitVec 3) (σ : State) : exec (.cvtd u d a t s r) σ = execCvtd u d a t s r σ := rfl
theorem exec_pkbxBx2 (u : Bool) (d a : BitVec 7) (s : State) : exec (.pkbxBx2 u d a) s = execPkbxBx2 u d a s := rfl
theorem exec_pkbxBx4 (u : Bool) (d a : BitVec 7) (s : State) : exec (.pkbxBx4 u d a) s = execPkbxBx4 u d a s := rfl
theorem exec_pkbxBx7 (u : Bool) (d a : BitVec 7) (s : State) : exec (.pkbxBx7 u d a) s = execPkbxBx7 u d a s := rfl
theorem exec_upbxBx2 (u : Bool) (d a : BitVec 7) (s : State) : exec (.upbxBx2 u d a) s = execUpbxBx2 u d a s := rfl
theorem exec_upbxBx4 (u : Bool) (d a : BitVec 7) (s : State) : exec (.upbxBx4 u d a) s = execUpbxBx4 u d a s := rfl
theorem exec_upbxBx7 (u : Bool) (d a : BitVec 7) (s : State) : exec (.upbxBx7 u d a) s = execUpbxBx7 u d a s := rfl
theorem exec_pkmxMxi8 (u : Bool) (d a : BitVec 7) (s : State) : exec (.pkmxMxi8 u d a) s = execPkmxMxi8 u d a s := rfl
theorem exec_pkmxMxf8e4 (u : Bool) (d a : BitVec 7) (s : State) : exec (.pkmxMxf8e4 u d a) s = execPkmxMxf8e4 u d a s := rfl
theorem exec_pkmxMxf8e5 (u : Bool) (d a : BitVec 7) (s : State) : exec (.pkmxMxf8e5 u d a) s = execPkmxMxf8e5 u d a s := rfl
theorem exec_upmxMxi8 (u : Bool) (d a : BitVec 7) (s : State) : exec (.upmxMxi8 u d a) s = execUpmxMxi8 u d a s := rfl
theorem exec_upmxMxf8e4 (u : Bool) (d a : BitVec 7) (s : State) : exec (.upmxMxf8e4 u d a) s = execUpmxMxf8e4 u d a s := rfl
theorem exec_upmxMxf8e5 (u : Bool) (d a : BitVec 7) (s : State) : exec (.upmxMxf8e5 u d a) s = execUpmxMxf8e5 u d a s := rfl
theorem exec_rngk (u : Bool) (d a b : BitVec 7) (s : State) : exec (.rngk u d a b) s = execRngk u d a b s := rfl
theorem exec_shflIdx (u : Bool) (d a b : BitVec 7) (s : State) : exec (.shflIdx u d a b) s = execShflIdx u d a b s := rfl
theorem exec_shflUp (u : Bool) (d a b : BitVec 7) (s : State) : exec (.shflUp u d a b) s = execShflUp u d a b s := rfl
theorem exec_shflDown (u : Bool) (d a b : BitVec 7) (s : State) : exec (.shflDown u d a b) s = execShflDown u d a b s := rfl
theorem exec_shflXor (u : Bool) (d a b : BitVec 7) (s : State) : exec (.shflXor u d a b) s = execShflXor u d a b s := rfl
theorem exec_voteAll (u : Bool) (d a b : BitVec 7) (s : State) : exec (.voteAll u d a b) s = execVoteAll u d a b s := rfl
theorem exec_voteAny (u : Bool) (d a b : BitVec 7) (s : State) : exec (.voteAny u d a b) s = execVoteAny u d a b s := rfl
theorem exec_voteEq (u : Bool) (d a b : BitVec 7) (s : State) : exec (.voteEq u d a b) s = execVoteEq u d a b s := rfl
theorem exec_ballot (u : Bool) (d a b : BitVec 7) (s : State) : exec (.ballot u d a b) s = execBallot u d a b s := rfl
theorem exec_wredAddI32 (u : Bool) (d a b : BitVec 7) (s : State) : exec (.wredAddI32 u d a b) s = execWredAddI32 u d a b s := rfl
theorem exec_wredMinI32 (u : Bool) (d a b : BitVec 7) (s : State) : exec (.wredMinI32 u d a b) s = execWredMinI32 u d a b s := rfl
theorem exec_wredMaxI32 (u : Bool) (d a b : BitVec 7) (s : State) : exec (.wredMaxI32 u d a b) s = execWredMaxI32 u d a b s := rfl
theorem exec_wredAddF32 (u : Bool) (d a b : BitVec 7) (s : State) : exec (.wredAddF32 u d a b) s = execWredAddF32 u d a b s := rfl
theorem exec_wredAnd (u : Bool) (d a b : BitVec 7) (s : State) : exec (.wredAnd u d a b) s = execWredAnd u d a b s := rfl
theorem exec_wredOr (u : Bool) (d a b : BitVec 7) (s : State) : exec (.wredOr u d a b) s = execWredOr u d a b s := rfl
theorem exec_wredXor (u : Bool) (d a b : BitVec 7) (s : State) : exec (.wredXor u d a b) s = execWredXor u d a b s := rfl
theorem exec_ld (u : Bool) (d a : BitVec 7) (w : BitVec 3) (p : BitVec 2) (o : BitVec 6) (s : State) : exec (.ld u d a w p o) s = execLd u d a w p o s := rfl
theorem exec_lds (u : Bool) (d a : BitVec 7) (w : BitVec 1) (p : BitVec 2) (o : BitVec 6) (s : State) : exec (.lds u d a w p o) s = execLds u d a w p o s := rfl
theorem exec_st (u : Bool) (d a : BitVec 7) (w : BitVec 3) (p : BitVec 2) (o : BitVec 6) (s : State) : exec (.st u d a w p o) s = execSt u d a w p o s := rfl
theorem exec_pref (a : BitVec 7) (s : State) : exec (.pref a) s = execPref a s := rfl
theorem exec_cinvCore (a : BitVec 7) (s : State) : exec (.cinvCore a) s = execCinvCore a s := rfl
theorem exec_cinvClu (a : BitVec 7) (s : State) : exec (.cinvClu a) s = execCinvClu a s := rfl
theorem exec_cinvDie (a : BitVec 7) (s : State) : exec (.cinvDie a) s = execCinvDie a s := rfl
theorem exec_cinvDev (a : BitVec 7) (s : State) : exec (.cinvDev a) s = execCinvDev a s := rfl
theorem exec_cinvSys (a : BitVec 7) (s : State) : exec (.cinvSys a) s = execCinvSys a s := rfl
theorem exec_atom32 (d a : BitVec 7) (s : BitVec 3) (p : BitVec 2) (o : BitVec 4) (r : BitVec 2) (σ : State) : exec (.atom32 d a s p o r) σ = execAtom32 d a s p o r σ := rfl
theorem exec_atom64 (d a : BitVec 7) (s : BitVec 3) (p : BitVec 2) (o : BitVec 4) (r : BitVec 2) (σ : State) : exec (.atom64 d a s p o r) σ = execAtom64 d a s p o r σ := rfl
theorem exec_red32 (d a : BitVec 7) (s : BitVec 3) (p : BitVec 2) (o : BitVec 4) (r : BitVec 2) (σ : State) : exec (.red32 d a s p o r) σ = execRed32 d a s p o r σ := rfl
theorem exec_red64 (d a : BitVec 7) (s : BitVec 3) (p : BitVec 2) (o : BitVec 4) (r : BitVec 2) (σ : State) : exec (.red64 d a s p o r) σ = execRed64 d a s p o r σ := rfl
theorem exec_bredF32 (a b : BitVec 7) (s : State) : exec (.bredF32 a b) s = execBredF32 a b s := rfl
theorem exec_bredF64 (a b : BitVec 7) (s : State) : exec (.bredF64 a b) s = execBredF64 a b s := rfl
theorem exec_binfin (d a : BitVec 7) (s : State) : exec (.binfin d a) s = execBinfin d a s := rfl
theorem exec_appendB32 (d a b : BitVec 7) (s : State) : exec (.appendB32 d a b) s = execAppendB32 d a b s := rfl
theorem exec_appendB64 (d a b : BitVec 7) (s : State) : exec (.appendB64 d a b) s = execAppendB64 d a b s := rfl
theorem exec_appendB128 (d a b : BitVec 7) (s : State) : exec (.appendB128 d a b) s = execAppendB128 d a b s := rfl
theorem exec_appendB256 (d a b : BitVec 7) (s : State) : exec (.appendB256 d a b) s = execAppendB256 d a b s := rfl
theorem exec_sealPage (a : BitVec 7) (s : State) : exec (.sealPage a) s = execSealPage a s := rfl
theorem exec_waita (d a b : BitVec 7) (s : State) : exec (.waita d a b) s = execWaita d a b s := rfl
theorem exec_wake (d a b : BitVec 7) (s : State) : exec (.wake d a b) s = execWake d a b s := rfl
theorem exec_twany (d a : BitVec 7) (s : State) : exec (.twany d a) s = execTwany d a s := rfl
theorem exec_twall (a : BitVec 7) (s : State) : exec (.twall a) s = execTwall a s := rfl
theorem exec_tffr (d a : BitVec 7) (s : State) : exec (.tffr d a) s = execTffr d a s := rfl
theorem exec_fenceAcq (s : BitVec 7) (σ : State) : exec (.fenceAcq s) σ = execFenceAcq s σ := rfl
theorem exec_fenceRel (s : BitVec 7) (σ : State) : exec (.fenceRel s) σ = execFenceRel s σ := rfl
theorem exec_fenceAr (s : BitVec 7) (σ : State) : exec (.fenceAr s) σ = execFenceAr s σ := rfl
theorem exec_phreg (d a b : BitVec 7) (s : State) : exec (.phreg d a b) s = execPhreg d a b s := rfl
theorem exec_phdrop (a : BitVec 7) (s : State) : exec (.phdrop a) s = execPhdrop a s := rfl
theorem exec_phsig (a : BitVec 7) (s : State) : exec (.phsig a) s = execPhsig a s := rfl
theorem exec_phwt (d a : BitVec 7) (s : State) : exec (.phwt d a) s = execPhwt d a s := rfl
theorem exec_pharv (d a : BitVec 7) (s : State) : exec (.pharv d a) s = execPharv d a s := rfl
theorem exec_phregDev (d a b : BitVec 7) (s : State) : exec (.phregDev d a b) s = execPhregDev d a b s := rfl
theorem exec_phdropDev (a : BitVec 7) (s : State) : exec (.phdropDev a) s = execPhdropDev a s := rfl
theorem exec_phsigDev (a : BitVec 7) (s : State) : exec (.phsigDev a) s = execPhsigDev a s := rfl
theorem exec_phwtDev (d a : BitVec 7) (s : State) : exec (.phwtDev d a) s = execPhwtDev d a s := rfl
theorem exec_pharvDev (d a : BitVec 7) (s : State) : exec (.pharvDev d a) s = execPharvDev d a s := rfl
theorem exec_waitc (l s : BitVec 5) (c t : BitVec 4) (σ : State) : exec (.waitc l s c t) σ = execWaitc l s c t σ := rfl
theorem exec_wopen (d a b : BitVec 7) (s : State) : exec (.wopen d a b) s = execWopen d a b s := rfl
theorem exec_wshut (a : BitVec 7) (s : State) : exec (.wshut a) s = execWshut a s := rfl
theorem exec_spmap (d a b : BitVec 7) (s : State) : exec (.spmap d a b) s = execSpmap d a b s := rfl
theorem exec_spunmap (a : BitVec 7) (s : State) : exec (.spunmap a) s = execSpunmap a s := rfl
theorem exec_tres (d : BitVec 6) (a : BitVec 7) (f : Bool) (s : State) : exec (.tres d a f) s = execTres d a f s := rfl
theorem exec_trel (a : BitVec 7) (s : State) : exec (.trel a) s = execTrel a s := rfl
theorem exec_mxop (a : BitVec 7) (t : BitVec 6) (f : Bool) (s : State) : exec (.mxop a t f) s = execMxop a t f s := rfl
theorem exec_mxswap  (s : State) : exec (.mxswap) s = execMxswap s := rfl
theorem exec_bload (d a : BitVec 7) (t : BitVec 6) (s : State) : exec (.bload d a t) s = execBload d a t s := rfl
theorem exec_copy (d a : BitVec 7) (t : BitVec 6) (s : State) : exec (.copy d a t) s = execCopy d a t s := rfl
theorem exec_gath (d a : BitVec 7) (t : BitVec 6) (s : State) : exec (.gath d a t) s = execGath d a t s := rfl
theorem exec_scat (d a : BitVec 7) (t : BitVec 6) (s : State) : exec (.scat d a t) s = execScat d a t s := rfl
theorem exec_trace (a : BitVec 7) (t : BitVec 6) (f : Bool) (s : State) : exec (.trace a t f) s = execTrace a t f s := rfl
theorem exec_tdecCont (a : BitVec 7) (s : State) : exec (.tdecCont a) s = execTdecCont a s := rfl
theorem exec_tdecAcc (a : BitVec 7) (s : State) : exec (.tdecAcc a) s = execTdecAcc a s := rfl
theorem exec_tdecTerm (a : BitVec 7) (s : State) : exec (.tdecTerm a) s = execTdecTerm a s := rfl
theorem exec_march (a : BitVec 7) (t : BitVec 6) (s : State) : exec (.march a t) s = execMarch a t s := rfl
theorem exec_emit (a : BitVec 7) (f : Bool) (s : State) : exec (.emit a f) s = execEmit a f s := rfl
theorem exec_launch (d : BitVec 6) (a : BitVec 7) (s : State) : exec (.launch d a) s = execLaunch d a s := rfl
theorem exec_gwait (a : BitVec 7) (s : State) : exec (.gwait a) s = execGwait a s := rfl
theorem exec_qsig (a : BitVec 7) (s : State) : exec (.qsig a) s = execQsig a s := rfl
theorem exec_br (j : Bool) (c : BitVec 4) (a : BitVec 7) (o : BitVec 14) (s : State) : exec (.br j c a o) s = execBr j c a o s := rfl
theorem exec_jmp (o : BitVec 21) (s : State) : exec (.jmp o) s = execJmp o s := rfl
theorem exec_call (h : BitVec 4) (o : BitVec 21) (s : State) : exec (.call h o) s = execCall h o s := rfl
theorem exec_brx (u : Bool) (a : BitVec 7) (s : State) : exec (.brx u a) s = execBrx u a s := rfl
theorem exec_callx (u : Bool) (a : BitVec 7) (h : BitVec 4) (s : State) : exec (.callx u a h) s = execCallx u a h s := rfl
theorem exec_ret  (s : State) : exec (.ret) s = execRet s := rfl
theorem exec_wbase (n : BitVec 7) (s : State) : exec (.wbase n) s = execWbase n s := rfl
theorem exec_yield  (s : State) : exec (.yield) s = execYield s := rfl
theorem exec_exit  (s : State) : exec (.exit) s = execExit s := rfl
theorem exec_nop  (s : State) : exec (.nop) s = execNop s := rfl
theorem exec_trap (c : BitVec 7) (s : State) : exec (.trap c) s = execTrap c s := rfl
theorem exec_eret  (s : State) : exec (.eret) s = execEret s := rfl
theorem exec_mfs (u : Bool) (d : BitVec 7) (s : BitVec 11) (σ : State) : exec (.mfs u d s) σ = execMfs u d s σ := rfl
theorem exec_mts (a : BitVec 7) (s : BitVec 11) (σ : State) : exec (.mts a s) σ = execMts a s σ := rfl
theorem exec_loadDataReturn (op : Nat) (err : Bool) (s : State) : exec (.loadDataReturn op err) s = execLoadDataReturn op err s := rfl
theorem exec_storePerformed (op : Nat) (s : State) : exec (.storePerformed op) s = execStorePerformed op s := rfl
theorem exec_l1WriteBack (core ctx addr : Nat) (s : State) : exec (.l1WriteBack core ctx addr) s = execL1WriteBack core ctx addr s := rfl
theorem exec_l1Drop (core ctx addr : Nat) (s : State) : exec (.l1Drop core ctx addr) s = execL1Drop core ctx addr s := rfl
theorem exec_issueCycle (core : Nat) (s : State) : exec (.issueCycle core) s = execIssueCycle core s := rfl
theorem exec_joinHoldTimeout (core slot : Nat) (pc : Dword) (s : State) : exec (.joinHoldTimeout core slot pc) s = execJoinHoldTimeout core slot pc s := rfl
theorem exec_ageSaturation (core slot : Nat) (pc : Dword) (s : State) : exec (.ageSaturation core slot pc) s = execAgeSaturation core slot pc s := rfl
theorem exec_clockGate (core ps : Nat) (s : State) : exec (.clockGate core ps) s = execClockGate core ps s := rfl
theorem exec_launchDispatch (qcore : Nat) (s : State) : exec (.launchDispatch qcore) s = execLaunchDispatch qcore s := rfl
theorem exec_crewPlace (cluster : Nat) (s : State) : exec (.crewPlace cluster) s = execCrewPlace cluster s := rfl
theorem exec_crewSteal (cluster : Nat) (s : State) : exec (.crewSteal cluster) s = execCrewSteal cluster s := rfl
theorem exec_crewEnd (crew : Nat) (s : State) : exec (.crewEnd crew) s = execCrewEnd crew s := rfl
theorem exec_preemptDispatcher (cluster : Nat) (s : State) : exec (.preemptDispatcher cluster) s = execPreemptDispatcher cluster s := rfl
theorem exec_preemptLacewing (crew : Nat) (s : State) : exec (.preemptLacewing crew) s = execPreemptLacewing crew s := rfl
theorem exec_preemptSave (crew : Nat) (s : State) : exec (.preemptSave crew) s = execPreemptSave crew s := rfl
theorem exec_crewResume (crew : Nat) (s : State) : exec (.crewResume crew) s = execCrewResume crew s := rfl
theorem exec_preemptSaveTimeout (crew : Nat) (s : State) : exec (.preemptSaveTimeout crew) s = execPreemptSaveTimeout crew s := rfl
theorem exec_tresRetry (core : Nat) (s : State) : exec (.tresRetry core) s = execTresRetry core s := rfl
theorem exec_trelRelease (tid : Nat) (s : State) : exec (.trelRelease tid) s = execTrelRelease tid s := rfl
theorem exec_spmapComplete (core num : Nat) (s : State) : exec (.spmapComplete core num) s = execSpmapComplete core num s := rfl
theorem exec_spunmapComplete (core num : Nat) (s : State) : exec (.spunmapComplete core num) s = execSpunmapComplete core num s := rfl
theorem exec_matrixStart (core : Nat) (s : State) : exec (.matrixStart core) s = execMatrixStart core s := rfl
theorem exec_mxswapEffect (core : Nat) (s : State) : exec (.mxswapEffect core) s = execMxswapEffect core s := rfl
theorem exec_mxopComplete (op : Nat) (s : State) : exec (.mxopComplete op) s = execMxopComplete op s := rfl
theorem exec_bankSave (core : Nat) (s : State) : exec (.bankSave core) s = execBankSave core s := rfl
theorem exec_copyComplete (op : Nat) (s : State) : exec (.copyComplete op) s = execCopyComplete op s := rfl
theorem exec_rayCandidate (op : Nat) (s : State) : exec (.rayCandidate op) s = execRayCandidate op s := rfl
theorem exec_rayComplete (op : Nat) (s : State) : exec (.rayComplete op) s = execRayComplete op s := rfl
theorem exec_marchBatch (op : Nat) (s : State) : exec (.marchBatch op) s = execMarchBatch op s := rfl
theorem exec_streamClose (tid : Nat) (s : State) : exec (.streamClose tid) s = execStreamClose tid s := rfl
theorem exec_popEntryPush (held : Nat) (s : State) : exec (.popEntryPush held) s = execPopEntryPush held s := rfl
theorem exec_reductionDrain (grid : Nat) (s : State) : exec (.reductionDrain grid) s = execReductionDrain grid s := rfl
theorem exec_slewGroupRelease  (s : State) : exec (.slewGroupRelease) s = execSlewGroupRelease s := rfl
theorem exec_atomicQuietExpiry (line : Nat) (s : State) : exec (.atomicQuietExpiry line) s = execAtomicQuietExpiry line s := rfl
theorem exec_comparatorMatch (prim shad : Nat) (s : State) : exec (.comparatorMatch prim shad) s = execComparatorMatch prim shad s := rfl
theorem exec_dualUnmatchedTimeout (op : Nat) (s : State) : exec (.dualUnmatchedTimeout op) s = execDualUnmatchedTimeout op s := rfl
theorem exec_sampledDigestCompare (crew : Nat) (s : State) : exec (.sampledDigestCompare crew) s = execSampledDigestCompare crew s := rfl
theorem exec_convWatchdog (core slot : Nat) (pc : Dword) (s : State) : exec (.convWatchdog core slot pc) s = execConvWatchdog core slot pc s := rfl
theorem exec_crewWatchdog (crew : Nat) (s : State) : exec (.crewWatchdog crew) s = execCrewWatchdog crew s := rfl
theorem exec_migrationTimeout (seq : Nat) (s : State) : exec (.migrationTimeout seq) s = execMigrationTimeout seq s := rfl
theorem exec_registerWrite (agent addr : Nat) (value : Dword) (s : State) : exec (.registerWrite agent addr value) s = execRegisterWrite agent addr value s := rfl
theorem exec_queueGo (q : Nat) (value : Dword) (s : State) : exec (.queueGo q value) s = execQueueGo q value s := rfl
theorem exec_invalidatePage (ctx : Nat) (rcl bnd : Bool) (s : State) : exec (.invalidatePage ctx rcl bnd) s = execInvalidatePage ctx rcl bnd s := rfl
theorem exec_invalidateContext (ctx : Nat) (rcl bnd : Bool) (s : State) : exec (.invalidateContext ctx rcl bnd) s = execInvalidateContext ctx rcl bnd s := rfl
theorem exec_invalidateAll (ctx : Nat) (rcl bnd : Bool) (s : State) : exec (.invalidateAll ctx rcl bnd) s = execInvalidateAll ctx rcl bnd s := rfl
theorem exec_reclaim (scope ctx : Nat) (s : State) : exec (.reclaim scope ctx) s = execReclaim scope ctx s := rfl
theorem exec_dropBounds (scope ctx : Nat) (s : State) : exec (.dropBounds scope ctx) s = execDropBounds scope ctx s := rfl
theorem exec_invalidationComplete  (s : State) : exec (.invalidationComplete) s = execInvalidationComplete s := rfl
theorem exec_hsAcknowledge (seq : Nat) (refuse : Bool) (s : State) : exec (.hsAcknowledge seq refuse) s = execHsAcknowledge seq refuse s := rfl
theorem exec_hsRequestPage (vapg ctx : Nat) (s : State) : exec (.hsRequestPage vapg ctx) s = execHsRequestPage vapg ctx s := rfl
theorem exec_attestationGo (value : Dword) (s : State) : exec (.attestationGo value) s = execAttestationGo value s := rfl
theorem exec_attestationDone  (s : State) : exec (.attestationDone) s = execAttestationDone s := rfl
theorem exec_scLockWrite (value : Dword) (s : State) : exec (.scLockWrite value) s = execScLockWrite value s := rfl
theorem exec_mxCadenceWrite (core : Nat) (value : Dword) (s : State) : exec (.mxCadenceWrite core value) s = execMxCadenceWrite core value s := rfl
theorem exec_hostWrite (pa : Nat) (data : List Byte) (psn : Bool) (s : State) : exec (.hostWrite pa data psn) s = execHostWrite pa data psn s := rfl
theorem exec_hostRead (pa size : Nat) (s : State) : exec (.hostRead pa size) s = execHostRead pa size s := rfl
theorem exec_hostSnoop (pa : Nat) (s : State) : exec (.hostSnoop pa) s = execHostSnoop pa s := rfl
theorem exec_configRequest (access : ConfigAccess) (s : State) : exec (.configRequest access) s = execConfigRequest access s := rfl
theorem exec_remoteRequest (src seq ctx : Nat) (va : Dword) (kind sub : Nat) (data : List Byte) (s : State) : exec (.remoteRequest src seq ctx va kind sub data) s = execRemoteRequest src seq ctx va kind sub data s := rfl
theorem exec_remoteResponse (req err : Nat) (aux : Dword) (psn : Bool) (data : List Byte) (s : State) : exec (.remoteResponse req err aux psn data) s = execRemoteResponse req err aux psn data s := rfl
theorem exec_remoteTimeout (req : Nat) (s : State) : exec (.remoteTimeout req) s = execRemoteTimeout req s := rfl
theorem exec_flitCrcFailure (link : Nat) (s : State) : exec (.flitCrcFailure link) s = execFlitCrcFailure link s := rfl
theorem exec_linkTrainingLoss (link : Nat) (s : State) : exec (.linkTrainingLoss link) s = execLinkTrainingLoss link s := rfl
theorem exec_linkRetrainEnd (link : Nat) (ok : Bool) (s : State) : exec (.linkRetrainEnd link ok) s = execLinkRetrainEnd link ok s := rfl
theorem exec_tokenExchangeTick (draw peer tokens : Nat) (s : State) : exec (.tokenExchangeTick draw peer tokens) s = execTokenExchangeTick draw peer tokens s := rfl
theorem exec_demandAnnounce (peer watts : Nat) (s : State) : exec (.demandAnnounce peer watts) s = execDemandAnnounce peer watts s := rfl
theorem exec_tokenGrant (peer tokens age : Nat) (s : State) : exec (.tokenGrant peer tokens age) s = execTokenGrant peer tokens age s := rfl
theorem exec_leaseEnd (lease : Nat) (s : State) : exec (.leaseEnd lease) s = execLeaseEnd lease s := rfl
theorem exec_tokenReturn (grant : Nat) (s : State) : exec (.tokenReturn grant) s = execTokenReturn grant s := rfl
theorem exec_grantReturnTimeout (grant : Nat) (s : State) : exec (.grantReturnTimeout grant) s = execGrantReturnTimeout grant s := rfl
theorem exec_powerAverage (die watts : Nat) (s : State) : exec (.powerAverage die watts) s = execPowerAverage die watts s := rfl
theorem exec_holdEnd (core ps : Nat) (s : State) : exec (.holdEnd core ps) s = execHoldEnd core ps s := rfl
theorem exec_railCurrentAlert (die : Nat) (s : State) : exec (.railCurrentAlert die) s = execRailCurrentAlert die s := rfl
theorem exec_railHoldFailure (die : Nat) (s : State) : exec (.railHoldFailure die) s = execRailHoldFailure die s := rfl
theorem exec_junction100c (die : Nat) (s : State) : exec (.junction100c die) s = execJunction100c die s := rfl
theorem exec_junction110cTimeout (die : Nat) (s : State) : exec (.junction110cTimeout die) s = execJunction110cTimeout die s := rfl
theorem exec_junction120c (die : Nat) (s : State) : exec (.junction120c die) s = execJunction120c die s := rfl
theorem exec_hdieOvertemp  (s : State) : exec (.hdieOvertemp) s = execHdieOvertemp s := rfl
theorem exec_dieInternalError (die : Nat) (s : State) : exec (.dieInternalError die) s = execDieInternalError die s := rfl
theorem exec_coreSelfTest (core : Nat) (pass : Bool) (s : State) : exec (.coreSelfTest core pass) s = execCoreSelfTest core pass s := rfl
theorem exec_backgroundScrub (place : StoragePlace) (bad : Bool) (s : State) : exec (.backgroundScrub place bad) s = execBackgroundScrub place bad s := rfl
theorem exec_powerOnReset (images : BootImages) (s : State) : exec (.powerOnReset images) s = execPowerOnReset images s := rfl
theorem exec_firmwareUpdate (image : FirmwareImage) (s : State) : exec (.firmwareUpdate image) s = execFirmwareUpdate image s := rfl
theorem exec_illegalInstruction (w : Word) (s : State) : exec (.illegalInstruction w) s = execIllegalInstruction w s := rfl
theorem exec_instructionFetchFault  (s : State) : exec (.instructionFetchFault) s = execInstructionFetchFault s := rfl
theorem exec_contextCreation (ctx btab ptroot flbase logn : Nat) (thnd : Dword) (save : Nat) (sys : Bool) (s : State) : exec (.contextCreation ctx btab ptroot flbase logn thnd save sys) s = execContextCreation ctx btab ptroot flbase logn thnd save sys s := rfl
theorem exec_queueCoreCycle (qcore : Nat) (s : State) : exec (.queueCoreCycle qcore) s = execQueueCoreCycle qcore s := rfl
theorem exec_powerLoss  (s : State) : exec (.powerLoss) s = execPowerLoss s := rfl

end Sys2Proof.Machine
end

