-- ==== Sys2Proof/Laws/Maps.lean ====
section
/-! SUPPORT. Laws of the finite maps and of storages: a read after a write, places left alone, and the canonical form that every memory operation keeps. -/

namespace Sys2Proof

namespace FMap

variable {α β : Type}

@[simp] theorem look_nil (x : Nat) : look ([] : FMap α) x = none := rfl
@[simp] theorem lookD_nil (x : Nat) (d : α) : lookD ([] : FMap α) x d = d := rfl

@[simp] theorem look_put_self (m : FMap α) (x : Nat) (w : α) : look (put m x w) x = some w := by
  induction m with
  | nil => simp [put, look]
  | cons a r ih =>
    obtain ⟨k, v⟩ := a
    simp only [put]
    split
    · simp [look]
    · split
      · simp [look]
      · have : ¬ k = x := by omega
        simp [look, this, ih]

theorem look_put_ne (m : FMap α) {x y : Nat} (w : α) (h : y ≠ x) : look (put m x w) y = look m y := by
  induction m with
  | nil => simp [put, look, Ne.symm h]
  | cons a r ih =>
    obtain ⟨k, v⟩ := a
    simp only [put]
    split
    · simp [look, Ne.symm h]
    · split
      · subst_vars; simp [look, Ne.symm h]
      · simp [look, ih]

theorem look_del (m : FMap α) (x y : Nat) : look (del m x) y = if y = x then none else look m y := by
  induction m with
  | nil => simp [del, look]
  | cons a r ih =>
    obtain ⟨k, v⟩ := a
    simp only [del]
    split
    · rename_i h; subst h
      rw [ih]
      by_cases hy : y = k
      · simp [hy]
      · simp [look, hy, Ne.symm hy]
    · rename_i h
      by_cases hk : k = y
      · subst hk; simp [look, h]
      · simp [look, hk, ih]

@[simp] theorem look_del_self (m : FMap α) (x : Nat) : look (del m x) x = none := by simp [look_del]
theorem look_del_ne (m : FMap α) {x y : Nat} (h : y ≠ x) : look (del m x) y = look m y := by simp [look_del, h]

@[simp] theorem lookD_put_self (m : FMap α) (x : Nat) (w d : α) : lookD (put m x w) x d = w := by simp [lookD]
theorem lookD_put_ne (m : FMap α) {x y : Nat} (w d : α) (h : y ≠ x) : lookD (put m x w) y d = lookD m y d := by
  simp [lookD, look_put_ne m w h]
theorem lookD_put (m : FMap α) (x y : Nat) (w d : α) : lookD (put m x w) y d = if y = x then w else lookD m y d := by
  by_cases h : y = x
  · subst h; simp
  · simp [lookD_put_ne m w d h, h]

/-! ### Rising keys -/

theorem risingFrom_mono {lo lo' : Nat} (m : FMap α) (h : lo' ≤ lo) (hm : risingFrom lo m = true) : risingFrom lo' m = true := by
  cases m with
  | nil => rfl
  | cons a r =>
    simp only [risingFrom, Bool.and_eq_true, decide_eq_true_eq] at hm ⊢
    exact ⟨by omega, hm.2⟩

theorem risingFrom_put (m : FMap α) (lo x : Nat) (w : α) (hx : lo ≤ x) (hm : risingFrom lo m = true) : risingFrom lo (put m x w) = true := by
  induction m generalizing lo with
  | nil => simp [put, risingFrom, hx]
  | cons a r ih =>
    obtain ⟨k, v⟩ := a
    simp only [risingFrom, Bool.and_eq_true, decide_eq_true_eq] at hm
    simp only [put]
    split
    · simp only [risingFrom, Bool.and_eq_true, decide_eq_true_eq]
      exact ⟨hx, by omega, hm.2⟩
    · split
      · subst_vars
        simp only [risingFrom, Bool.and_eq_true, decide_eq_true_eq]
        exact hm
      · simp only [risingFrom, Bool.and_eq_true, decide_eq_true_eq]
        exact ⟨hm.1, ih (k + 1) (by omega) hm.2⟩

theorem risingFrom_del (m : FMap α) (lo x : Nat) (hm : risingFrom lo m = true) : risingFrom lo (del m x) = true := by
  induction m generalizing lo with
  | nil => rfl
  | cons a r ih =>
    obtain ⟨k, v⟩ := a
    simp only [risingFrom, Bool.and_eq_true, decide_eq_true_eq] at hm
    simp only [del]
    split
    · exact ih lo (risingFrom_mono r (by omega) hm.2)
    · simp only [risingFrom, Bool.and_eq_true, decide_eq_true_eq]
      exact ⟨hm.1, ih (k + 1) hm.2⟩

theorem risingFrom_filter (m : FMap α) (p : Nat × α → Bool) (lo : Nat) (hm : risingFrom lo m = true) : risingFrom lo (m.filter p) = true := by
  induction m generalizing lo with
  | nil => rfl
  | cons a r ih =>
    simp only [risingFrom, Bool.and_eq_true, decide_eq_true_eq] at hm
    simp only [List.filter_cons]
    split
    · simp only [risingFrom, Bool.and_eq_true, decide_eq_true_eq]
      exact ⟨hm.1, ih (a.1 + 1) hm.2⟩
    · exact ih lo (risingFrom_mono r (by omega) hm.2)

theorem risingFrom_shift (m : FMap α) (lo d : Nat) (h : ∀ a ∈ m, d ≤ a.1) (hm : risingFrom lo m = true) :
    risingFrom (lo - d) (m.map fun a => (a.1 - d, a.2)) = true := by
  induction m generalizing lo with
  | nil => rfl
  | cons a r ih =>
    simp only [risingFrom, Bool.and_eq_true, decide_eq_true_eq] at hm
    have ha : d ≤ a.1 := h a (by simp)
    simp only [List.map_cons, risingFrom, Bool.and_eq_true, decide_eq_true_eq]
    refine ⟨by omega, ?_⟩
    have := ih (a.1 + 1) (fun b hb => h b (by simp [hb])) hm.2
    rwa [show a.1 + 1 - d = a.1 - d + 1 by omega] at this

theorem rising_put (m : FMap α) (x : Nat) (w : α) (hm : rising m = true) : rising (put m x w) = true := risingFrom_put m 0 x w (by omega) hm
theorem rising_del (m : FMap α) (x : Nat) (hm : rising m = true) : rising (del m x) = true := risingFrom_del m 0 x hm
theorem rising_filter (m : FMap α) (p : Nat × α → Bool) (hm : rising m = true) : rising (m.filter p) = true := risingFrom_filter m p 0 hm

/-! ### Values -/

theorem mem_put {m : FMap α} {x : Nat} {w : α} {a : Nat × α} (h : a ∈ put m x w) : a = (x, w) ∨ a ∈ m := by
  induction m with
  | nil => simpa [put] using h
  | cons b r ih =>
    obtain ⟨k, v⟩ := b
    simp only [put] at h
    split at h
    · simpa using h
    · split at h
      · simp only [List.mem_cons] at h ⊢
        rcases h with h | h
        · exact .inl h
        · exact .inr (.inr h)
      · simp only [List.mem_cons] at h ⊢
        rcases h with h | h
        · exact .inr (.inl h)
        · rcases ih h with h | h
          · exact .inl h
          · exact .inr (.inr h)

theorem mem_del {m : FMap α} {x : Nat} {a : Nat × α} (h : a ∈ del m x) : a ∈ m := by
  induction m with
  | nil => simp [del] at h
  | cons b r ih =>
    obtain ⟨k, v⟩ := b
    simp only [del] at h
    split at h
    · simp [ih h]
    · simp only [List.mem_cons] at h ⊢
      rcases h with h | h
      · exact .inl h
      · exact .inr (ih h)

end FMap

namespace Machine.PMem

/-! ### One byte, one granule -/

@[simp] theorem byte_mark (m : PMem) (g a : Nat) (p : Bool) : (m.mark g p).byte a = m.byte a := rfl
@[simp] theorem byte_markRange (gran a n g k : Nat) (p : Bool) (m : PMem) (x : Nat) : (m.markRange gran a n p g k).byte x = m.byte x := by
  induction k generalizing m g with
  | zero => rfl
  | succ k ih =>
    simp only [markRange]
    rw [ih]
    split
    · rfl
    · split <;> rfl

theorem byte_setByte (m : PMem) (a x : Nat) (b : Byte) : (m.setByte a b).byte x = if x = a then b else m.byte x := by
  simp only [byte, setByte]
  split
  · rename_i h
    subst h
    simp only [FMap.lookD, FMap.look_del]
    split <;> rfl
  · simp [FMap.lookD_put]

theorem byte_setBytes_lt (m : PMem) (a x : Nat) (bs : List Byte) (h : x < a) : (m.setBytes a bs).byte x = m.byte x := by
  induction bs generalizing m a with
  | nil => rfl
  | cons b r ih =>
    simp only [setBytes]
    rw [ih _ _ (by omega), byte_setByte, if_neg (by omega)]

/-- A read after a write of bytes. -/
theorem byte_setBytes (m : PMem) (a x : Nat) (bs : List Byte) :
    (m.setBytes a bs).byte x = if a ≤ x ∧ x < a + bs.length then bs.getD (x - a) 0 else m.byte x := by
  induction bs generalizing m a with
  | nil => simp only [setBytes, List.length_nil]; rw [if_neg (by omega)]
  | cons b r ih =>
    simp only [setBytes, List.length_cons]
    by_cases hx : x = a
    · subst hx
      rw [byte_setBytes_lt _ _ _ _ (by omega), byte_setByte, if_pos rfl, if_pos (by omega)]
      simp
    · rw [ih]
      by_cases h : a + 1 ≤ x ∧ x < a + 1 + r.length
      · rw [if_pos h, if_pos (by omega)]
        obtain ⟨n, rfl⟩ : ∃ n, x = a + 1 + n := ⟨x - (a + 1), by omega⟩
        rw [show a + 1 + n - a = n + 1 by omega, show a + 1 + n - (a + 1) = n by omega]
        simp
      · rw [if_neg h, if_neg (by omega), byte_setByte, if_neg hx]

/-- A write of bytes is read back, and leaves every other byte alone. -/
theorem byte_write (gran : Nat) (m : PMem) (a x : Nat) (bs : List Byte) (p : Bool) :
    (m.write gran a bs p).byte x = if a ≤ x ∧ x < a + bs.length then bs.getD (x - a) 0 else m.byte x := by
  simp only [write]
  split
  · rename_i h
    have : bs = [] := by simpa using h
    subst this
    simp only [List.length_nil]
    rw [if_neg (by omega)]
  · rw [byte_markRange, byte_setBytes]

@[simp] theorem byte_markBytes (gran a x : Nat) (m : PMem) (bs : List MByte) : (m.markBytes gran a bs).byte x = m.byte x := by
  induction bs generalizing m a with
  | nil => rfl
  | cons b r ih =>
    simp only [markBytes]
    rw [ih]
    split <;> rfl

theorem byte_writeM (gran : Nat) (m : PMem) (a x : Nat) (bs : List MByte) :
    (m.writeM gran a bs).byte x = if a ≤ x ∧ x < a + bs.length then (bs.map (·.1)).getD (x - a) 0 else m.byte x := by
  simp only [writeM, byte_markBytes, byte_write, List.length_map]

/-! ### The canonical form -/

theorem wf_iff (m : PMem) : m.wf = true ↔ FMap.rising m.cells = true ∧ (∀ c ∈ m.cells, c.2 ≠ 0) ∧ FMap.rising m.psn = true ∧ ∀ c ∈ m.psn, c.2 = true := by
  simp [wf, and_assoc]

theorem wf_mk {c : List Host.Cell} {p : FMap Bool} : ({ cells := c, psn := p } : PMem).wf = true ↔
    FMap.rising c = true ∧ (∀ x ∈ c, x.2 ≠ 0) ∧ FMap.rising p = true ∧ ∀ x ∈ p, x.2 = true := wf_iff _

theorem wf_setByte (m : PMem) (a : Nat) (b : Byte) (h : m.wf = true) : (m.setByte a b).wf = true := by
  rw [wf_iff] at h
  simp only [setByte]
  split
  · exact wf_mk.2 ⟨FMap.rising_del _ _ h.1, fun c hc => h.2.1 c (FMap.mem_del hc), h.2.2⟩
  · rename_i hb
    refine wf_mk.2 ⟨FMap.rising_put _ _ _ h.1, fun c hc => ?_, h.2.2⟩
    rcases FMap.mem_put hc with rfl | hc
    · exact hb
    · exact h.2.1 c hc

theorem wf_setBytes (m : PMem) (a : Nat) (bs : List Byte) (h : m.wf = true) : (m.setBytes a bs).wf = true := by
  induction bs generalizing m a with
  | nil => exact h
  | cons b r ih => exact ih _ _ (wf_setByte m a b h)

theorem wf_mark (m : PMem) (g : Nat) (p : Bool) (h : m.wf = true) : (m.mark g p).wf = true := by
  rw [wf_iff] at h
  simp only [mark]
  cases p
  · exact wf_mk.2 ⟨h.1, h.2.1, FMap.rising_del _ _ h.2.2.1, fun c hc => h.2.2.2 c (FMap.mem_del hc)⟩
  · refine wf_mk.2 ⟨h.1, h.2.1, FMap.rising_put _ _ _ h.2.2.1, fun c hc => ?_⟩
    rcases FMap.mem_put hc with rfl | hc
    · rfl
    · exact h.2.2.2 c hc

theorem wf_markRange (gran a n g k : Nat) (p : Bool) (m : PMem) (h : m.wf = true) : (m.markRange gran a n p g k).wf = true := by
  induction k generalizing m g with
  | zero => exact h
  | succ k ih =>
    simp only [markRange]
    apply ih
    split
    · exact wf_mark _ _ _ h
    · split
      · exact wf_mark _ _ _ h
      · exact h

theorem wf_write (gran : Nat) (m : PMem) (a : Nat) (bs : List Byte) (p : Bool) (h : m.wf = true) : (m.write gran a bs p).wf = true := by
  simp only [write]
  split
  · exact h
  · exact wf_markRange _ _ _ _ _ _ _ (wf_setBytes _ _ _ h)

theorem wf_markBytes (gran a : Nat) (m : PMem) (bs : List MByte) (h : m.wf = true) : (m.markBytes gran a bs).wf = true := by
  induction bs generalizing m a with
  | nil => exact h
  | cons b r ih =>
    simp only [markBytes]
    apply ih
    split
    · exact wf_mark _ _ _ h
    · exact h

theorem wf_writeM (gran : Nat) (m : PMem) (a : Nat) (bs : List MByte) (h : m.wf = true) : (m.writeM gran a bs).wf = true :=
  wf_markBytes _ _ _ _ (wf_write _ _ _ _ _ h)

theorem wf_erase (gran : Nat) (m : PMem) (lo n : Nat) (h : m.wf = true) : (m.erase gran lo n).wf = true := by
  rw [wf_iff] at h
  exact wf_mk.2 ⟨FMap.rising_filter _ _ h.1, fun c hc => h.2.1 c (List.mem_filter.1 hc).1, FMap.rising_filter _ _ h.2.2.1,
    fun c hc => h.2.2.2 c (List.mem_filter.1 hc).1⟩

theorem wf_slice (gran : Nat) (m : PMem) (lo n : Nat) (h : m.wf = true) : (m.slice gran lo n).wf = true := by
  rw [wf_iff] at h
  refine wf_mk.2 ⟨?_, fun c hc => ?_, ?_, fun c hc => ?_⟩
  · refine FMap.risingFrom_shift _ 0 lo (fun a ha => ?_) (FMap.rising_filter _ _ h.1) |> fun k => by simpa [FMap.rising] using k
    have := (List.mem_filter.1 ha).2
    simp only [Bool.and_eq_true, decide_eq_true_eq] at this
    exact this.1
  · obtain ⟨a, ha, rfl⟩ := List.mem_map.1 hc
    exact h.2.1 a (List.mem_filter.1 ha).1
  · refine FMap.risingFrom_shift _ 0 (lo / gran) (fun a ha => ?_) (FMap.rising_filter _ _ h.2.2.1) |> fun k => by simpa [FMap.rising] using k
    have := (List.mem_filter.1 ha).2
    simp only [Bool.and_eq_true, decide_eq_true_eq] at this
    exact Nat.div_le_of_le_mul (by rw [Nat.mul_comm]; exact this.1)
  · obtain ⟨a, ha, rfl⟩ := List.mem_map.1 hc
    exact h.2.2.2 a (List.mem_filter.1 ha).1

theorem wf_paste_cells (lo : Nat) (l m : FMap Byte) (hm : FMap.rising m = true) (h0 : ∀ c ∈ m, c.2 ≠ 0) (hl : ∀ c ∈ l, c.2 ≠ 0) :
    FMap.rising (l.foldl (fun c y => FMap.put c (lo + y.1) y.2) m) = true ∧ ∀ c ∈ l.foldl (fun c y => FMap.put c (lo + y.1) y.2) m, c.2 ≠ 0 := by
  induction l generalizing m with
  | nil => exact ⟨hm, h0⟩
  | cons a r ih =>
    refine ih _ (FMap.rising_put _ _ _ hm) (fun c hc => ?_) (fun c hc => hl c (by simp [hc]))
    rcases FMap.mem_put hc with rfl | hc
    · exact hl a (by simp)
    · exact h0 c hc

theorem wf_paste_psn (lo : Nat) (l m : FMap Bool) (hm : FMap.rising m = true) (h0 : ∀ c ∈ m, c.2 = true) (hl : ∀ c ∈ l, c.2 = true) :
    FMap.rising (l.foldl (fun c y => FMap.put c (lo + y.1) y.2) m) = true ∧ ∀ c ∈ l.foldl (fun c y => FMap.put c (lo + y.1) y.2) m, c.2 = true := by
  induction l generalizing m with
  | nil => exact ⟨hm, h0⟩
  | cons a r ih =>
    refine ih _ (FMap.rising_put _ _ _ hm) (fun c hc => ?_) (fun c hc => hl c (by simp [hc]))
    rcases FMap.mem_put hc with rfl | hc
    · exact hl a (by simp)
    · exact h0 c hc

theorem wf_paste (gran : Nat) (m : PMem) (lo n : Nat) (x : PMem) (h : m.wf = true) (hx : x.wf = true) : (m.paste gran lo n x).wf = true := by
  have he := (wf_iff _).1 (wf_erase gran m lo n h)
  rw [wf_iff] at hx
  have a := wf_paste_cells lo x.cells _ he.1 he.2.1 hx.2.1
  have b := wf_paste_psn (lo / gran) x.psn _ he.2.2.1 he.2.2.2 hx.2.2.2
  exact wf_mk.2 ⟨a.1, a.2, b.1, b.2⟩

theorem wf_writeCompressed (m : PMem) (base md line : Nat) (bs : List MByte) (h : m.wf = true) : (writeCompressed m base md line bs).wf = true := by
  simp only [writeCompressed]
  repeat' split
  all_goals first
    | exact wf_writeM _ _ _ _ (wf_setByte _ _ _ h)
    | exact wf_write _ _ _ _ _ (wf_markRange _ _ _ _ _ _ _ (wf_setByte _ _ _ h))

end Machine.PMem

end Sys2Proof
end

