-- ==== Sys2Proof/Laws/State.lean ====
section
/-! SUPPORT. What each named update of State leaves in each field, so that no proof unfolds a record update; and the reads of the tables after a write. -/

namespace Sys2Proof.Machine

/-! ### setThread -/

@[simp] theorem setThread_phys (s : State) (t : Nat) (x : Thread) : (s.setThread t x).phys = s.phys := rfl
@[simp] theorem setThread_l1 (s : State) (t : Nat) (x : Thread) : (s.setThread t x).l1 = s.l1 := rfl
@[simp] theorem setThread_l1psn (s : State) (t : Nat) (x : Thread) : (s.setThread t x).l1psn = s.l1psn := rfl
@[simp] theorem setThread_farPa (s : State) (t : Nat) (x : Thread) : (s.setThread t x).farPa = s.farPa := rfl
@[simp] theorem setThread_l2 (s : State) (t : Nat) (x : Thread) : (s.setThread t x).l2 = s.l2 := rfl
@[simp] theorem setThread_replicas (s : State) (t : Nat) (x : Thread) : (s.setThread t x).replicas = s.replicas := rfl
@[simp] theorem setThread_replicaLines (s : State) (t : Nat) (x : Thread) : (s.setThread t x).replicaLines = s.replicaLines := rfl
@[simp] theorem setThread_scratch (s : State) (t : Nat) (x : Thread) : (s.setThread t x).scratch = s.scratch := rfl
@[simp] theorem setThread_tile (s : State) (t : Nat) (x : Thread) : (s.setThread t x).tile = s.tile := rfl
@[simp] theorem setThread_banks (s : State) (t : Nat) (x : Thread) : (s.setThread t x).banks = s.banks := rfl
@[simp] theorem setThread_threads (s : State) (t : Nat) (x : Thread) : (s.setThread t x).threads = s.threads.put t x := rfl
@[simp] theorem setThread_waves (s : State) (t : Nat) (x : Thread) : (s.setThread t x).waves = s.waves := rfl
@[simp] theorem setThread_cores (s : State) (t : Nat) (x : Thread) : (s.setThread t x).cores = s.cores := rfl
@[simp] theorem setThread_crews (s : State) (t : Nat) (x : Thread) : (s.setThread t x).crews = s.crews := rfl
@[simp] theorem setThread_grids (s : State) (t : Nat) (x : Thread) : (s.setThread t x).grids = s.grids := rfl
@[simp] theorem setThread_queues (s : State) (t : Nat) (x : Thread) : (s.setThread t x).queues = s.queues := rfl
@[simp] theorem setThread_qcores (s : State) (t : Nat) (x : Thread) : (s.setThread t x).qcores = s.qcores := rfl
@[simp] theorem setThread_contexts (s : State) (t : Nat) (x : Thread) : (s.setThread t x).contexts = s.contexts := rfl
@[simp] theorem setThread_imports (s : State) (t : Nat) (x : Thread) : (s.setThread t x).imports = s.imports := rfl
@[simp] theorem setThread_frames (s : State) (t : Nat) (x : Thread) : (s.setThread t x).frames = s.frames := rfl
@[simp] theorem setThread_appended (s : State) (t : Nat) (x : Thread) : (s.setThread t x).appended = s.appended := rfl
@[simp] theorem setThread_walked (s : State) (t : Nat) (x : Thread) : (s.setThread t x).walked = s.walked := rfl
@[simp] theorem setThread_waiters (s : State) (t : Nat) (x : Thread) : (s.setThread t x).waiters = s.waiters := rfl
@[simp] theorem setThread_contention (s : State) (t : Nat) (x : Thread) : (s.setThread t x).contention = s.contention := rfl
@[simp] theorem setThread_slews (s : State) (t : Nat) (x : Thread) : (s.setThread t x).slews = s.slews := rfl
@[simp] theorem setThread_flushes (s : State) (t : Nat) (x : Thread) : (s.setThread t x).flushes = s.flushes := rfl
@[simp] theorem setThread_slewCount (s : State) (t : Nat) (x : Thread) : (s.setThread t x).slewCount = s.slewCount := rfl
@[simp] theorem setThread_pend (s : State) (t : Nat) (x : Thread) : (s.setThread t x).pend = s.pend := rfl
@[simp] theorem setThread_ops (s : State) (t : Nat) (x : Thread) : (s.setThread t x).ops = s.ops := rfl
@[simp] theorem setThread_heldPops (s : State) (t : Nat) (x : Thread) : (s.setThread t x).heldPops = s.heldPops := rfl
@[simp] theorem setThread_streams (s : State) (t : Nat) (x : Thread) : (s.setThread t x).streams = s.streams := rfl
@[simp] theorem setThread_samplers (s : State) (t : Nat) (x : Thread) : (s.setThread t x).samplers = s.samplers := rfl
@[simp] theorem setThread_rasters (s : State) (t : Nat) (x : Thread) : (s.setThread t x).rasters = s.rasters := rfl
@[simp] theorem setThread_duals (s : State) (t : Nat) (x : Thread) : (s.setThread t x).duals = s.duals := rfl
@[simp] theorem setThread_digests (s : State) (t : Nat) (x : Thread) : (s.setThread t x).digests = s.digests := rfl
@[simp] theorem setThread_samples (s : State) (t : Nat) (x : Thread) : (s.setThread t x).samples = s.samples := rfl
@[simp] theorem setThread_mismatches (s : State) (t : Nat) (x : Thread) : (s.setThread t x).mismatches = s.mismatches := rfl
@[simp] theorem setThread_slots (s : State) (t : Nat) (x : Thread) : (s.setThread t x).slots = s.slots := rfl
@[simp] theorem setThread_regs (s : State) (t : Nat) (x : Thread) : (s.setThread t x).regs = s.regs := rfl
@[simp] theorem setThread_invBusy (s : State) (t : Nat) (x : Thread) : (s.setThread t x).invBusy = s.invBusy := rfl
@[simp] theorem setThread_hsRing (s : State) (t : Nat) (x : Thread) : (s.setThread t x).hsRing = s.hsRing := rfl
@[simp] theorem setThread_hsSeq (s : State) (t : Nat) (x : Thread) : (s.setThread t x).hsSeq = s.hsSeq := rfl
@[simp] theorem setThread_toHost (s : State) (t : Nat) (x : Thread) : (s.setThread t x).toHost = s.toHost := rfl
@[simp] theorem setThread_remotes (s : State) (t : Nat) (x : Thread) : (s.setThread t x).remotes = s.remotes := rfl
@[simp] theorem setThread_served (s : State) (t : Nat) (x : Thread) : (s.setThread t x).served = s.served := rfl
@[simp] theorem setThread_links (s : State) (t : Nat) (x : Thread) : (s.setThread t x).links = s.links := rfl
@[simp] theorem setThread_dies (s : State) (t : Nat) (x : Thread) : (s.setThread t x).dies = s.dies := rfl
@[simp] theorem setThread_leases (s : State) (t : Nat) (x : Thread) : (s.setThread t x).leases = s.leases := rfl
@[simp] theorem setThread_demands (s : State) (t : Nat) (x : Thread) : (s.setThread t x).demands = s.demands := rfl
@[simp] theorem setThread_bootStep (s : State) (t : Nat) (x : Thread) : (s.setThread t x).bootStep = s.bootStep := rfl
@[simp] theorem setThread_locked (s : State) (t : Nat) (x : Thread) : (s.setThread t x).locked = s.locked := rfl
@[simp] theorem setThread_fuses (s : State) (t : Nat) (x : Thread) : (s.setThread t x).fuses = s.fuses := rfl
@[simp] theorem setThread_attesting (s : State) (t : Nat) (x : Thread) : (s.setThread t x).attesting = s.attesting := rfl
@[simp] theorem setThread_signIndex (s : State) (t : Nat) (x : Thread) : (s.setThread t x).signIndex = s.signIndex := rfl
@[simp] theorem setThread_images (s : State) (t : Nat) (x : Thread) : (s.setThread t x).images = s.images := rfl
@[simp] theorem setThread_boot (s : State) (t : Nat) (x : Thread) : (s.setThread t x).boot = s.boot := rfl
@[simp] theorem setThread_msix (s : State) (t : Nat) (x : Thread) : (s.setThread t x).msix = s.msix := rfl
@[simp] theorem setThread_msixOpen (s : State) (t : Nat) (x : Thread) : (s.setThread t x).msixOpen = s.msixOpen := rfl
@[simp] theorem setThread_msixPending (s : State) (t : Nat) (x : Thread) : (s.setThread t x).msixPending = s.msixPending := rfl
@[simp] theorem setThread_mgmt (s : State) (t : Nat) (x : Thread) : (s.setThread t x).mgmt = s.mgmt := rfl
@[simp] theorem setThread_outside (s : State) (t : Nat) (x : Thread) : (s.setThread t x).outside = s.outside := rfl
@[simp] theorem setThread_outbox (s : State) (t : Nat) (x : Thread) : (s.setThread t x).outbox = s.outbox := rfl
@[simp] theorem setThread_noted (s : State) (t : Nat) (x : Thread) : (s.setThread t x).noted = s.noted := rfl
@[simp] theorem setThread_picks (s : State) (t : Nat) (x : Thread) : (s.setThread t x).picks = s.picks := rfl
@[simp] theorem setThread_cur (s : State) (t : Nat) (x : Thread) : (s.setThread t x).cur = s.cur := rfl
@[simp] theorem setThread_agenda (s : State) (t : Nat) (x : Thread) : (s.setThread t x).agenda = s.agenda := rfl
@[simp] theorem setThread_turn (s : State) (t : Nat) (x : Thread) : (s.setThread t x).turn = s.turn := rfl
@[simp] theorem setThread_uid (s : State) (t : Nat) (x : Thread) : (s.setThread t x).uid = s.uid := rfl
@[simp] theorem setThread_free (s : State) (t : Nat) (x : Thread) : (s.setThread t x).free = s.free := rfl

/-! ### setCore -/

@[simp] theorem setCore_phys (s : State) (c : Nat) (x : Core) : (s.setCore c x).phys = s.phys := rfl
@[simp] theorem setCore_l1 (s : State) (c : Nat) (x : Core) : (s.setCore c x).l1 = s.l1 := rfl
@[simp] theorem setCore_l1psn (s : State) (c : Nat) (x : Core) : (s.setCore c x).l1psn = s.l1psn := rfl
@[simp] theorem setCore_farPa (s : State) (c : Nat) (x : Core) : (s.setCore c x).farPa = s.farPa := rfl
@[simp] theorem setCore_l2 (s : State) (c : Nat) (x : Core) : (s.setCore c x).l2 = s.l2 := rfl
@[simp] theorem setCore_replicas (s : State) (c : Nat) (x : Core) : (s.setCore c x).replicas = s.replicas := rfl
@[simp] theorem setCore_replicaLines (s : State) (c : Nat) (x : Core) : (s.setCore c x).replicaLines = s.replicaLines := rfl
@[simp] theorem setCore_scratch (s : State) (c : Nat) (x : Core) : (s.setCore c x).scratch = s.scratch := rfl
@[simp] theorem setCore_tile (s : State) (c : Nat) (x : Core) : (s.setCore c x).tile = s.tile := rfl
@[simp] theorem setCore_banks (s : State) (c : Nat) (x : Core) : (s.setCore c x).banks = s.banks := rfl
@[simp] theorem setCore_threads (s : State) (c : Nat) (x : Core) : (s.setCore c x).threads = s.threads := rfl
@[simp] theorem setCore_waves (s : State) (c : Nat) (x : Core) : (s.setCore c x).waves = s.waves := rfl
@[simp] theorem setCore_cores (s : State) (c : Nat) (x : Core) : (s.setCore c x).cores = s.cores.put c x := rfl
@[simp] theorem setCore_crews (s : State) (c : Nat) (x : Core) : (s.setCore c x).crews = s.crews := rfl
@[simp] theorem setCore_grids (s : State) (c : Nat) (x : Core) : (s.setCore c x).grids = s.grids := rfl
@[simp] theorem setCore_queues (s : State) (c : Nat) (x : Core) : (s.setCore c x).queues = s.queues := rfl
@[simp] theorem setCore_qcores (s : State) (c : Nat) (x : Core) : (s.setCore c x).qcores = s.qcores := rfl
@[simp] theorem setCore_contexts (s : State) (c : Nat) (x : Core) : (s.setCore c x).contexts = s.contexts := rfl
@[simp] theorem setCore_imports (s : State) (c : Nat) (x : Core) : (s.setCore c x).imports = s.imports := rfl
@[simp] theorem setCore_frames (s : State) (c : Nat) (x : Core) : (s.setCore c x).frames = s.frames := rfl
@[simp] theorem setCore_appended (s : State) (c : Nat) (x : Core) : (s.setCore c x).appended = s.appended := rfl
@[simp] theorem setCore_walked (s : State) (c : Nat) (x : Core) : (s.setCore c x).walked = s.walked := rfl
@[simp] theorem setCore_waiters (s : State) (c : Nat) (x : Core) : (s.setCore c x).waiters = s.waiters := rfl
@[simp] theorem setCore_contention (s : State) (c : Nat) (x : Core) : (s.setCore c x).contention = s.contention := rfl
@[simp] theorem setCore_slews (s : State) (c : Nat) (x : Core) : (s.setCore c x).slews = s.slews := rfl
@[simp] theorem setCore_flushes (s : State) (c : Nat) (x : Core) : (s.setCore c x).flushes = s.flushes := rfl
@[simp] theorem setCore_slewCount (s : State) (c : Nat) (x : Core) : (s.setCore c x).slewCount = s.slewCount := rfl
@[simp] theorem setCore_pend (s : State) (c : Nat) (x : Core) : (s.setCore c x).pend = s.pend := rfl
@[simp] theorem setCore_ops (s : State) (c : Nat) (x : Core) : (s.setCore c x).ops = s.ops := rfl
@[simp] theorem setCore_heldPops (s : State) (c : Nat) (x : Core) : (s.setCore c x).heldPops = s.heldPops := rfl
@[simp] theorem setCore_streams (s : State) (c : Nat) (x : Core) : (s.setCore c x).streams = s.streams := rfl
@[simp] theorem setCore_samplers (s : State) (c : Nat) (x : Core) : (s.setCore c x).samplers = s.samplers := rfl
@[simp] theorem setCore_rasters (s : State) (c : Nat) (x : Core) : (s.setCore c x).rasters = s.rasters := rfl
@[simp] theorem setCore_duals (s : State) (c : Nat) (x : Core) : (s.setCore c x).duals = s.duals := rfl
@[simp] theorem setCore_digests (s : State) (c : Nat) (x : Core) : (s.setCore c x).digests = s.digests := rfl
@[simp] theorem setCore_samples (s : State) (c : Nat) (x : Core) : (s.setCore c x).samples = s.samples := rfl
@[simp] theorem setCore_mismatches (s : State) (c : Nat) (x : Core) : (s.setCore c x).mismatches = s.mismatches := rfl
@[simp] theorem setCore_slots (s : State) (c : Nat) (x : Core) : (s.setCore c x).slots = s.slots := rfl
@[simp] theorem setCore_regs (s : State) (c : Nat) (x : Core) : (s.setCore c x).regs = s.regs := rfl
@[simp] theorem setCore_invBusy (s : State) (c : Nat) (x : Core) : (s.setCore c x).invBusy = s.invBusy := rfl
@[simp] theorem setCore_hsRing (s : State) (c : Nat) (x : Core) : (s.setCore c x).hsRing = s.hsRing := rfl
@[simp] theorem setCore_hsSeq (s : State) (c : Nat) (x : Core) : (s.setCore c x).hsSeq = s.hsSeq := rfl
@[simp] theorem setCore_toHost (s : State) (c : Nat) (x : Core) : (s.setCore c x).toHost = s.toHost := rfl
@[simp] theorem setCore_remotes (s : State) (c : Nat) (x : Core) : (s.setCore c x).remotes = s.remotes := rfl
@[simp] theorem setCore_served (s : State) (c : Nat) (x : Core) : (s.setCore c x).served = s.served := rfl
@[simp] theorem setCore_links (s : State) (c : Nat) (x : Core) : (s.setCore c x).links = s.links := rfl
@[simp] theorem setCore_dies (s : State) (c : Nat) (x : Core) : (s.setCore c x).dies = s.dies := rfl
@[simp] theorem setCore_leases (s : State) (c : Nat) (x : Core) : (s.setCore c x).leases = s.leases := rfl
@[simp] theorem setCore_demands (s : State) (c : Nat) (x : Core) : (s.setCore c x).demands = s.demands := rfl
@[simp] theorem setCore_bootStep (s : State) (c : Nat) (x : Core) : (s.setCore c x).bootStep = s.bootStep := rfl
@[simp] theorem setCore_locked (s : State) (c : Nat) (x : Core) : (s.setCore c x).locked = s.locked := rfl
@[simp] theorem setCore_fuses (s : State) (c : Nat) (x : Core) : (s.setCore c x).fuses = s.fuses := rfl
@[simp] theorem setCore_attesting (s : State) (c : Nat) (x : Core) : (s.setCore c x).attesting = s.attesting := rfl
@[simp] theorem setCore_signIndex (s : State) (c : Nat) (x : Core) : (s.setCore c x).signIndex = s.signIndex := rfl
@[simp] theorem setCore_images (s : State) (c : Nat) (x : Core) : (s.setCore c x).images = s.images := rfl
@[simp] theorem setCore_boot (s : State) (c : Nat) (x : Core) : (s.setCore c x).boot = s.boot := rfl
@[simp] theorem setCore_msix (s : State) (c : Nat) (x : Core) : (s.setCore c x).msix = s.msix := rfl
@[simp] theorem setCore_msixOpen (s : State) (c : Nat) (x : Core) : (s.setCore c x).msixOpen = s.msixOpen := rfl
@[simp] theorem setCore_msixPending (s : State) (c : Nat) (x : Core) : (s.setCore c x).msixPending = s.msixPending := rfl
@[simp] theorem setCore_mgmt (s : State) (c : Nat) (x : Core) : (s.setCore c x).mgmt = s.mgmt := rfl
@[simp] theorem setCore_outside (s : State) (c : Nat) (x : Core) : (s.setCore c x).outside = s.outside := rfl
@[simp] theorem setCore_outbox (s : State) (c : Nat) (x : Core) : (s.setCore c x).outbox = s.outbox := rfl
@[simp] theorem setCore_noted (s : State) (c : Nat) (x : Core) : (s.setCore c x).noted = s.noted := rfl
@[simp] theorem setCore_picks (s : State) (c : Nat) (x : Core) : (s.setCore c x).picks = s.picks := rfl
@[simp] theorem setCore_cur (s : State) (c : Nat) (x : Core) : (s.setCore c x).cur = s.cur := rfl
@[simp] theorem setCore_agenda (s : State) (c : Nat) (x : Core) : (s.setCore c x).agenda = s.agenda := rfl
@[simp] theorem setCore_turn (s : State) (c : Nat) (x : Core) : (s.setCore c x).turn = s.turn := rfl
@[simp] theorem setCore_uid (s : State) (c : Nat) (x : Core) : (s.setCore c x).uid = s.uid := rfl
@[simp] theorem setCore_free (s : State) (c : Nat) (x : Core) : (s.setCore c x).free = s.free := rfl

/-! ### setCrew -/

@[simp] theorem setCrew_phys (s : State) (k : Nat) (x : Crew) : (s.setCrew k x).phys = s.phys := rfl
@[simp] theorem setCrew_l1 (s : State) (k : Nat) (x : Crew) : (s.setCrew k x).l1 = s.l1 := rfl
@[simp] theorem setCrew_l1psn (s : State) (k : Nat) (x : Crew) : (s.setCrew k x).l1psn = s.l1psn := rfl
@[simp] theorem setCrew_farPa (s : State) (k : Nat) (x : Crew) : (s.setCrew k x).farPa = s.farPa := rfl
@[simp] theorem setCrew_l2 (s : State) (k : Nat) (x : Crew) : (s.setCrew k x).l2 = s.l2 := rfl
@[simp] theorem setCrew_replicas (s : State) (k : Nat) (x : Crew) : (s.setCrew k x).replicas = s.replicas := rfl
@[simp] theorem setCrew_replicaLines (s : State) (k : Nat) (x : Crew) : (s.setCrew k x).replicaLines = s.replicaLines := rfl
@[simp] theorem setCrew_scratch (s : State) (k : Nat) (x : Crew) : (s.setCrew k x).scratch = s.scratch := rfl
@[simp] theorem setCrew_tile (s : State) (k : Nat) (x : Crew) : (s.setCrew k x).tile = s.tile := rfl
@[simp] theorem setCrew_banks (s : State) (k : Nat) (x : Crew) : (s.setCrew k x).banks = s.banks := rfl
@[simp] theorem setCrew_threads (s : State) (k : Nat) (x : Crew) : (s.setCrew k x).threads = s.threads := rfl
@[simp] theorem setCrew_waves (s : State) (k : Nat) (x : Crew) : (s.setCrew k x).waves = s.waves := rfl
@[simp] theorem setCrew_cores (s : State) (k : Nat) (x : Crew) : (s.setCrew k x).cores = s.cores := rfl
@[simp] theorem setCrew_crews (s : State) (k : Nat) (x : Crew) : (s.setCrew k x).crews = s.crews.put k x := rfl
@[simp] theorem setCrew_grids (s : State) (k : Nat) (x : Crew) : (s.setCrew k x).grids = s.grids := rfl
@[simp] theorem setCrew_queues (s : State) (k : Nat) (x : Crew) : (s.setCrew k x).queues = s.queues := rfl
@[simp] theorem setCrew_qcores (s : State) (k : Nat) (x : Crew) : (s.setCrew k x).qcores = s.qcores := rfl
@[simp] theorem setCrew_contexts (s : State) (k : Nat) (x : Crew) : (s.setCrew k x).contexts = s.contexts := rfl
@[simp] theorem setCrew_imports (s : State) (k : Nat) (x : Crew) : (s.setCrew k x).imports = s.imports := rfl
@[simp] theorem setCrew_frames (s : State) (k : Nat) (x : Crew) : (s.setCrew k x).frames = s.frames := rfl
@[simp] theorem setCrew_appended (s : State) (k : Nat) (x : Crew) : (s.setCrew k x).appended = s.appended := rfl
@[simp] theorem setCrew_walked (s : State) (k : Nat) (x : Crew) : (s.setCrew k x).walked = s.walked := rfl
@[simp] theorem setCrew_waiters (s : State) (k : Nat) (x : Crew) : (s.setCrew k x).waiters = s.waiters := rfl
@[simp] theorem setCrew_contention (s : State) (k : Nat) (x : Crew) : (s.setCrew k x).contention = s.contention := rfl
@[simp] theorem setCrew_slews (s : State) (k : Nat) (x : Crew) : (s.setCrew k x).slews = s.slews := rfl
@[simp] theorem setCrew_flushes (s : State) (k : Nat) (x : Crew) : (s.setCrew k x).flushes = s.flushes := rfl
@[simp] theorem setCrew_slewCount (s : State) (k : Nat) (x : Crew) : (s.setCrew k x).slewCount = s.slewCount := rfl
@[simp] theorem setCrew_pend (s : State) (k : Nat) (x : Crew) : (s.setCrew k x).pend = s.pend := rfl
@[simp] theorem setCrew_ops (s : State) (k : Nat) (x : Crew) : (s.setCrew k x).ops = s.ops := rfl
@[simp] theorem setCrew_heldPops (s : State) (k : Nat) (x : Crew) : (s.setCrew k x).heldPops = s.heldPops := rfl
@[simp] theorem setCrew_streams (s : State) (k : Nat) (x : Crew) : (s.setCrew k x).streams = s.streams := rfl
@[simp] theorem setCrew_samplers (s : State) (k : Nat) (x : Crew) : (s.setCrew k x).samplers = s.samplers := rfl
@[simp] theorem setCrew_rasters (s : State) (k : Nat) (x : Crew) : (s.setCrew k x).rasters = s.rasters := rfl
@[simp] theorem setCrew_duals (s : State) (k : Nat) (x : Crew) : (s.setCrew k x).duals = s.duals := rfl
@[simp] theorem setCrew_digests (s : State) (k : Nat) (x : Crew) : (s.setCrew k x).digests = s.digests := rfl
@[simp] theorem setCrew_samples (s : State) (k : Nat) (x : Crew) : (s.setCrew k x).samples = s.samples := rfl
@[simp] theorem setCrew_mismatches (s : State) (k : Nat) (x : Crew) : (s.setCrew k x).mismatches = s.mismatches := rfl
@[simp] theorem setCrew_slots (s : State) (k : Nat) (x : Crew) : (s.setCrew k x).slots = s.slots := rfl
@[simp] theorem setCrew_regs (s : State) (k : Nat) (x : Crew) : (s.setCrew k x).regs = s.regs := rfl
@[simp] theorem setCrew_invBusy (s : State) (k : Nat) (x : Crew) : (s.setCrew k x).invBusy = s.invBusy := rfl
@[simp] theorem setCrew_hsRing (s : State) (k : Nat) (x : Crew) : (s.setCrew k x).hsRing = s.hsRing := rfl
@[simp] theorem setCrew_hsSeq (s : State) (k : Nat) (x : Crew) : (s.setCrew k x).hsSeq = s.hsSeq := rfl
@[simp] theorem setCrew_toHost (s : State) (k : Nat) (x : Crew) : (s.setCrew k x).toHost = s.toHost := rfl
@[simp] theorem setCrew_remotes (s : State) (k : Nat) (x : Crew) : (s.setCrew k x).remotes = s.remotes := rfl
@[simp] theorem setCrew_served (s : State) (k : Nat) (x : Crew) : (s.setCrew k x).served = s.served := rfl
@[simp] theorem setCrew_links (s : State) (k : Nat) (x : Crew) : (s.setCrew k x).links = s.links := rfl
@[simp] theorem setCrew_dies (s : State) (k : Nat) (x : Crew) : (s.setCrew k x).dies = s.dies := rfl
@[simp] theorem setCrew_leases (s : State) (k : Nat) (x : Crew) : (s.setCrew k x).leases = s.leases := rfl
@[simp] theorem setCrew_demands (s : State) (k : Nat) (x : Crew) : (s.setCrew k x).demands = s.demands := rfl
@[simp] theorem setCrew_bootStep (s : State) (k : Nat) (x : Crew) : (s.setCrew k x).bootStep = s.bootStep := rfl
@[simp] theorem setCrew_locked (s : State) (k : Nat) (x : Crew) : (s.setCrew k x).locked = s.locked := rfl
@[simp] theorem setCrew_fuses (s : State) (k : Nat) (x : Crew) : (s.setCrew k x).fuses = s.fuses := rfl
@[simp] theorem setCrew_attesting (s : State) (k : Nat) (x : Crew) : (s.setCrew k x).attesting = s.attesting := rfl
@[simp] theorem setCrew_signIndex (s : State) (k : Nat) (x : Crew) : (s.setCrew k x).signIndex = s.signIndex := rfl
@[simp] theorem setCrew_images (s : State) (k : Nat) (x : Crew) : (s.setCrew k x).images = s.images := rfl
@[simp] theorem setCrew_boot (s : State) (k : Nat) (x : Crew) : (s.setCrew k x).boot = s.boot := rfl
@[simp] theorem setCrew_msix (s : State) (k : Nat) (x : Crew) : (s.setCrew k x).msix = s.msix := rfl
@[simp] theorem setCrew_msixOpen (s : State) (k : Nat) (x : Crew) : (s.setCrew k x).msixOpen = s.msixOpen := rfl
@[simp] theorem setCrew_msixPending (s : State) (k : Nat) (x : Crew) : (s.setCrew k x).msixPending = s.msixPending := rfl
@[simp] theorem setCrew_mgmt (s : State) (k : Nat) (x : Crew) : (s.setCrew k x).mgmt = s.mgmt := rfl
@[simp] theorem setCrew_outside (s : State) (k : Nat) (x : Crew) : (s.setCrew k x).outside = s.outside := rfl
@[simp] theorem setCrew_outbox (s : State) (k : Nat) (x : Crew) : (s.setCrew k x).outbox = s.outbox := rfl
@[simp] theorem setCrew_noted (s : State) (k : Nat) (x : Crew) : (s.setCrew k x).noted = s.noted := rfl
@[simp] theorem setCrew_picks (s : State) (k : Nat) (x : Crew) : (s.setCrew k x).picks = s.picks := rfl
@[simp] theorem setCrew_cur (s : State) (k : Nat) (x : Crew) : (s.setCrew k x).cur = s.cur := rfl
@[simp] theorem setCrew_agenda (s : State) (k : Nat) (x : Crew) : (s.setCrew k x).agenda = s.agenda := rfl
@[simp] theorem setCrew_turn (s : State) (k : Nat) (x : Crew) : (s.setCrew k x).turn = s.turn := rfl
@[simp] theorem setCrew_uid (s : State) (k : Nat) (x : Crew) : (s.setCrew k x).uid = s.uid := rfl
@[simp] theorem setCrew_free (s : State) (k : Nat) (x : Crew) : (s.setCrew k x).free = s.free := rfl

/-! ### setQueue -/

@[simp] theorem setQueue_phys (s : State) (q : Nat) (x : Queue) : (s.setQueue q x).phys = s.phys := rfl
@[simp] theorem setQueue_l1 (s : State) (q : Nat) (x : Queue) : (s.setQueue q x).l1 = s.l1 := rfl
@[simp] theorem setQueue_l1psn (s : State) (q : Nat) (x : Queue) : (s.setQueue q x).l1psn = s.l1psn := rfl
@[simp] theorem setQueue_farPa (s : State) (q : Nat) (x : Queue) : (s.setQueue q x).farPa = s.farPa := rfl
@[simp] theorem setQueue_l2 (s : State) (q : Nat) (x : Queue) : (s.setQueue q x).l2 = s.l2 := rfl
@[simp] theorem setQueue_replicas (s : State) (q : Nat) (x : Queue) : (s.setQueue q x).replicas = s.replicas := rfl
@[simp] theorem setQueue_replicaLines (s : State) (q : Nat) (x : Queue) : (s.setQueue q x).replicaLines = s.replicaLines := rfl
@[simp] theorem setQueue_scratch (s : State) (q : Nat) (x : Queue) : (s.setQueue q x).scratch = s.scratch := rfl
@[simp] theorem setQueue_tile (s : State) (q : Nat) (x : Queue) : (s.setQueue q x).tile = s.tile := rfl
@[simp] theorem setQueue_banks (s : State) (q : Nat) (x : Queue) : (s.setQueue q x).banks = s.banks := rfl
@[simp] theorem setQueue_threads (s : State) (q : Nat) (x : Queue) : (s.setQueue q x).threads = s.threads := rfl
@[simp] theorem setQueue_waves (s : State) (q : Nat) (x : Queue) : (s.setQueue q x).waves = s.waves := rfl
@[simp] theorem setQueue_cores (s : State) (q : Nat) (x : Queue) : (s.setQueue q x).cores = s.cores := rfl
@[simp] theorem setQueue_crews (s : State) (q : Nat) (x : Queue) : (s.setQueue q x).crews = s.crews := rfl
@[simp] theorem setQueue_grids (s : State) (q : Nat) (x : Queue) : (s.setQueue q x).grids = s.grids := rfl
@[simp] theorem setQueue_queues (s : State) (q : Nat) (x : Queue) : (s.setQueue q x).queues = s.queues.put q x := rfl
@[simp] theorem setQueue_qcores (s : State) (q : Nat) (x : Queue) : (s.setQueue q x).qcores = s.qcores := rfl
@[simp] theorem setQueue_contexts (s : State) (q : Nat) (x : Queue) : (s.setQueue q x).contexts = s.contexts := rfl
@[simp] theorem setQueue_imports (s : State) (q : Nat) (x : Queue) : (s.setQueue q x).imports = s.imports := rfl
@[simp] theorem setQueue_frames (s : State) (q : Nat) (x : Queue) : (s.setQueue q x).frames = s.frames := rfl
@[simp] theorem setQueue_appended (s : State) (q : Nat) (x : Queue) : (s.setQueue q x).appended = s.appended := rfl
@[simp] theorem setQueue_walked (s : State) (q : Nat) (x : Queue) : (s.setQueue q x).walked = s.walked := rfl
@[simp] theorem setQueue_waiters (s : State) (q : Nat) (x : Queue) : (s.setQueue q x).waiters = s.waiters := rfl
@[simp] theorem setQueue_contention (s : State) (q : Nat) (x : Queue) : (s.setQueue q x).contention = s.contention := rfl
@[simp] theorem setQueue_slews (s : State) (q : Nat) (x : Queue) : (s.setQueue q x).slews = s.slews := rfl
@[simp] theorem setQueue_flushes (s : State) (q : Nat) (x : Queue) : (s.setQueue q x).flushes = s.flushes := rfl
@[simp] theorem setQueue_slewCount (s : State) (q : Nat) (x : Queue) : (s.setQueue q x).slewCount = s.slewCount := rfl
@[simp] theorem setQueue_pend (s : State) (q : Nat) (x : Queue) : (s.setQueue q x).pend = s.pend := rfl
@[simp] theorem setQueue_ops (s : State) (q : Nat) (x : Queue) : (s.setQueue q x).ops = s.ops := rfl
@[simp] theorem setQueue_heldPops (s : State) (q : Nat) (x : Queue) : (s.setQueue q x).heldPops = s.heldPops := rfl
@[simp] theorem setQueue_streams (s : State) (q : Nat) (x : Queue) : (s.setQueue q x).streams = s.streams := rfl
@[simp] theorem setQueue_samplers (s : State) (q : Nat) (x : Queue) : (s.setQueue q x).samplers = s.samplers := rfl
@[simp] theorem setQueue_rasters (s : State) (q : Nat) (x : Queue) : (s.setQueue q x).rasters = s.rasters := rfl
@[simp] theorem setQueue_duals (s : State) (q : Nat) (x : Queue) : (s.setQueue q x).duals = s.duals := rfl
@[simp] theorem setQueue_digests (s : State) (q : Nat) (x : Queue) : (s.setQueue q x).digests = s.digests := rfl
@[simp] theorem setQueue_samples (s : State) (q : Nat) (x : Queue) : (s.setQueue q x).samples = s.samples := rfl
@[simp] theorem setQueue_mismatches (s : State) (q : Nat) (x : Queue) : (s.setQueue q x).mismatches = s.mismatches := rfl
@[simp] theorem setQueue_slots (s : State) (q : Nat) (x : Queue) : (s.setQueue q x).slots = s.slots := rfl
@[simp] theorem setQueue_regs (s : State) (q : Nat) (x : Queue) : (s.setQueue q x).regs = s.regs := rfl
@[simp] theorem setQueue_invBusy (s : State) (q : Nat) (x : Queue) : (s.setQueue q x).invBusy = s.invBusy := rfl
@[simp] theorem setQueue_hsRing (s : State) (q : Nat) (x : Queue) : (s.setQueue q x).hsRing = s.hsRing := rfl
@[simp] theorem setQueue_hsSeq (s : State) (q : Nat) (x : Queue) : (s.setQueue q x).hsSeq = s.hsSeq := rfl
@[simp] theorem setQueue_toHost (s : State) (q : Nat) (x : Queue) : (s.setQueue q x).toHost = s.toHost := rfl
@[simp] theorem setQueue_remotes (s : State) (q : Nat) (x : Queue) : (s.setQueue q x).remotes = s.remotes := rfl
@[simp] theorem setQueue_served (s : State) (q : Nat) (x : Queue) : (s.setQueue q x).served = s.served := rfl
@[simp] theorem setQueue_links (s : State) (q : Nat) (x : Queue) : (s.setQueue q x).links = s.links := rfl
@[simp] theorem setQueue_dies (s : State) (q : Nat) (x : Queue) : (s.setQueue q x).dies = s.dies := rfl
@[simp] theorem setQueue_leases (s : State) (q : Nat) (x : Queue) : (s.setQueue q x).leases = s.leases := rfl
@[simp] theorem setQueue_demands (s : State) (q : Nat) (x : Queue) : (s.setQueue q x).demands = s.demands := rfl
@[simp] theorem setQueue_bootStep (s : State) (q : Nat) (x : Queue) : (s.setQueue q x).bootStep = s.bootStep := rfl
@[simp] theorem setQueue_locked (s : State) (q : Nat) (x : Queue) : (s.setQueue q x).locked = s.locked := rfl
@[simp] theorem setQueue_fuses (s : State) (q : Nat) (x : Queue) : (s.setQueue q x).fuses = s.fuses := rfl
@[simp] theorem setQueue_attesting (s : State) (q : Nat) (x : Queue) : (s.setQueue q x).attesting = s.attesting := rfl
@[simp] theorem setQueue_signIndex (s : State) (q : Nat) (x : Queue) : (s.setQueue q x).signIndex = s.signIndex := rfl
@[simp] theorem setQueue_images (s : State) (q : Nat) (x : Queue) : (s.setQueue q x).images = s.images := rfl
@[simp] theorem setQueue_boot (s : State) (q : Nat) (x : Queue) : (s.setQueue q x).boot = s.boot := rfl
@[simp] theorem setQueue_msix (s : State) (q : Nat) (x : Queue) : (s.setQueue q x).msix = s.msix := rfl
@[simp] theorem setQueue_msixOpen (s : State) (q : Nat) (x : Queue) : (s.setQueue q x).msixOpen = s.msixOpen := rfl
@[simp] theorem setQueue_msixPending (s : State) (q : Nat) (x : Queue) : (s.setQueue q x).msixPending = s.msixPending := rfl
@[simp] theorem setQueue_mgmt (s : State) (q : Nat) (x : Queue) : (s.setQueue q x).mgmt = s.mgmt := rfl
@[simp] theorem setQueue_outside (s : State) (q : Nat) (x : Queue) : (s.setQueue q x).outside = s.outside := rfl
@[simp] theorem setQueue_outbox (s : State) (q : Nat) (x : Queue) : (s.setQueue q x).outbox = s.outbox := rfl
@[simp] theorem setQueue_noted (s : State) (q : Nat) (x : Queue) : (s.setQueue q x).noted = s.noted := rfl
@[simp] theorem setQueue_picks (s : State) (q : Nat) (x : Queue) : (s.setQueue q x).picks = s.picks := rfl
@[simp] theorem setQueue_cur (s : State) (q : Nat) (x : Queue) : (s.setQueue q x).cur = s.cur := rfl
@[simp] theorem setQueue_agenda (s : State) (q : Nat) (x : Queue) : (s.setQueue q x).agenda = s.agenda := rfl
@[simp] theorem setQueue_turn (s : State) (q : Nat) (x : Queue) : (s.setQueue q x).turn = s.turn := rfl
@[simp] theorem setQueue_uid (s : State) (q : Nat) (x : Queue) : (s.setQueue q x).uid = s.uid := rfl
@[simp] theorem setQueue_free (s : State) (q : Nat) (x : Queue) : (s.setQueue q x).free = s.free := rfl

/-! ### setQcore -/

@[simp] theorem setQcore_phys (s : State) (c : Nat) (x : QCore) : (s.setQcore c x).phys = s.phys := rfl
@[simp] theorem setQcore_l1 (s : State) (c : Nat) (x : QCore) : (s.setQcore c x).l1 = s.l1 := rfl
@[simp] theorem setQcore_l1psn (s : State) (c : Nat) (x : QCore) : (s.setQcore c x).l1psn = s.l1psn := rfl
@[simp] theorem setQcore_farPa (s : State) (c : Nat) (x : QCore) : (s.setQcore c x).farPa = s.farPa := rfl
@[simp] theorem setQcore_l2 (s : State) (c : Nat) (x : QCore) : (s.setQcore c x).l2 = s.l2 := rfl
@[simp] theorem setQcore_replicas (s : State) (c : Nat) (x : QCore) : (s.setQcore c x).replicas = s.replicas := rfl
@[simp] theorem setQcore_replicaLines (s : State) (c : Nat) (x : QCore) : (s.setQcore c x).replicaLines = s.replicaLines := rfl
@[simp] theorem setQcore_scratch (s : State) (c : Nat) (x : QCore) : (s.setQcore c x).scratch = s.scratch := rfl
@[simp] theorem setQcore_tile (s : State) (c : Nat) (x : QCore) : (s.setQcore c x).tile = s.tile := rfl
@[simp] theorem setQcore_banks (s : State) (c : Nat) (x : QCore) : (s.setQcore c x).banks = s.banks := rfl
@[simp] theorem setQcore_threads (s : State) (c : Nat) (x : QCore) : (s.setQcore c x).threads = s.threads := rfl
@[simp] theorem setQcore_waves (s : State) (c : Nat) (x : QCore) : (s.setQcore c x).waves = s.waves := rfl
@[simp] theorem setQcore_cores (s : State) (c : Nat) (x : QCore) : (s.setQcore c x).cores = s.cores := rfl
@[simp] theorem setQcore_crews (s : State) (c : Nat) (x : QCore) : (s.setQcore c x).crews = s.crews := rfl
@[simp] theorem setQcore_grids (s : State) (c : Nat) (x : QCore) : (s.setQcore c x).grids = s.grids := rfl
@[simp] theorem setQcore_queues (s : State) (c : Nat) (x : QCore) : (s.setQcore c x).queues = s.queues := rfl
@[simp] theorem setQcore_qcores (s : State) (c : Nat) (x : QCore) : (s.setQcore c x).qcores = s.qcores.put c x := rfl
@[simp] theorem setQcore_contexts (s : State) (c : Nat) (x : QCore) : (s.setQcore c x).contexts = s.contexts := rfl
@[simp] theorem setQcore_imports (s : State) (c : Nat) (x : QCore) : (s.setQcore c x).imports = s.imports := rfl
@[simp] theorem setQcore_frames (s : State) (c : Nat) (x : QCore) : (s.setQcore c x).frames = s.frames := rfl
@[simp] theorem setQcore_appended (s : State) (c : Nat) (x : QCore) : (s.setQcore c x).appended = s.appended := rfl
@[simp] theorem setQcore_walked (s : State) (c : Nat) (x : QCore) : (s.setQcore c x).walked = s.walked := rfl
@[simp] theorem setQcore_waiters (s : State) (c : Nat) (x : QCore) : (s.setQcore c x).waiters = s.waiters := rfl
@[simp] theorem setQcore_contention (s : State) (c : Nat) (x : QCore) : (s.setQcore c x).contention = s.contention := rfl
@[simp] theorem setQcore_slews (s : State) (c : Nat) (x : QCore) : (s.setQcore c x).slews = s.slews := rfl
@[simp] theorem setQcore_flushes (s : State) (c : Nat) (x : QCore) : (s.setQcore c x).flushes = s.flushes := rfl
@[simp] theorem setQcore_slewCount (s : State) (c : Nat) (x : QCore) : (s.setQcore c x).slewCount = s.slewCount := rfl
@[simp] theorem setQcore_pend (s : State) (c : Nat) (x : QCore) : (s.setQcore c x).pend = s.pend := rfl
@[simp] theorem setQcore_ops (s : State) (c : Nat) (x : QCore) : (s.setQcore c x).ops = s.ops := rfl
@[simp] theorem setQcore_heldPops (s : State) (c : Nat) (x : QCore) : (s.setQcore c x).heldPops = s.heldPops := rfl
@[simp] theorem setQcore_streams (s : State) (c : Nat) (x : QCore) : (s.setQcore c x).streams = s.streams := rfl
@[simp] theorem setQcore_samplers (s : State) (c : Nat) (x : QCore) : (s.setQcore c x).samplers = s.samplers := rfl
@[simp] theorem setQcore_rasters (s : State) (c : Nat) (x : QCore) : (s.setQcore c x).rasters = s.rasters := rfl
@[simp] theorem setQcore_duals (s : State) (c : Nat) (x : QCore) : (s.setQcore c x).duals = s.duals := rfl
@[simp] theorem setQcore_digests (s : State) (c : Nat) (x : QCore) : (s.setQcore c x).digests = s.digests := rfl
@[simp] theorem setQcore_samples (s : State) (c : Nat) (x : QCore) : (s.setQcore c x).samples = s.samples := rfl
@[simp] theorem setQcore_mismatches (s : State) (c : Nat) (x : QCore) : (s.setQcore c x).mismatches = s.mismatches := rfl
@[simp] theorem setQcore_slots (s : State) (c : Nat) (x : QCore) : (s.setQcore c x).slots = s.slots := rfl
@[simp] theorem setQcore_regs (s : State) (c : Nat) (x : QCore) : (s.setQcore c x).regs = s.regs := rfl
@[simp] theorem setQcore_invBusy (s : State) (c : Nat) (x : QCore) : (s.setQcore c x).invBusy = s.invBusy := rfl
@[simp] theorem setQcore_hsRing (s : State) (c : Nat) (x : QCore) : (s.setQcore c x).hsRing = s.hsRing := rfl
@[simp] theorem setQcore_hsSeq (s : State) (c : Nat) (x : QCore) : (s.setQcore c x).hsSeq = s.hsSeq := rfl
@[simp] theorem setQcore_toHost (s : State) (c : Nat) (x : QCore) : (s.setQcore c x).toHost = s.toHost := rfl
@[simp] theorem setQcore_remotes (s : State) (c : Nat) (x : QCore) : (s.setQcore c x).remotes = s.remotes := rfl
@[simp] theorem setQcore_served (s : State) (c : Nat) (x : QCore) : (s.setQcore c x).served = s.served := rfl
@[simp] theorem setQcore_links (s : State) (c : Nat) (x : QCore) : (s.setQcore c x).links = s.links := rfl
@[simp] theorem setQcore_dies (s : State) (c : Nat) (x : QCore) : (s.setQcore c x).dies = s.dies := rfl
@[simp] theorem setQcore_leases (s : State) (c : Nat) (x : QCore) : (s.setQcore c x).leases = s.leases := rfl
@[simp] theorem setQcore_demands (s : State) (c : Nat) (x : QCore) : (s.setQcore c x).demands = s.demands := rfl
@[simp] theorem setQcore_bootStep (s : State) (c : Nat) (x : QCore) : (s.setQcore c x).bootStep = s.bootStep := rfl
@[simp] theorem setQcore_locked (s : State) (c : Nat) (x : QCore) : (s.setQcore c x).locked = s.locked := rfl
@[simp] theorem setQcore_fuses (s : State) (c : Nat) (x : QCore) : (s.setQcore c x).fuses = s.fuses := rfl
@[simp] theorem setQcore_attesting (s : State) (c : Nat) (x : QCore) : (s.setQcore c x).attesting = s.attesting := rfl
@[simp] theorem setQcore_signIndex (s : State) (c : Nat) (x : QCore) : (s.setQcore c x).signIndex = s.signIndex := rfl
@[simp] theorem setQcore_images (s : State) (c : Nat) (x : QCore) : (s.setQcore c x).images = s.images := rfl
@[simp] theorem setQcore_boot (s : State) (c : Nat) (x : QCore) : (s.setQcore c x).boot = s.boot := rfl
@[simp] theorem setQcore_msix (s : State) (c : Nat) (x : QCore) : (s.setQcore c x).msix = s.msix := rfl
@[simp] theorem setQcore_msixOpen (s : State) (c : Nat) (x : QCore) : (s.setQcore c x).msixOpen = s.msixOpen := rfl
@[simp] theorem setQcore_msixPending (s : State) (c : Nat) (x : QCore) : (s.setQcore c x).msixPending = s.msixPending := rfl
@[simp] theorem setQcore_mgmt (s : State) (c : Nat) (x : QCore) : (s.setQcore c x).mgmt = s.mgmt := rfl
@[simp] theorem setQcore_outside (s : State) (c : Nat) (x : QCore) : (s.setQcore c x).outside = s.outside := rfl
@[simp] theorem setQcore_outbox (s : State) (c : Nat) (x : QCore) : (s.setQcore c x).outbox = s.outbox := rfl
@[simp] theorem setQcore_noted (s : State) (c : Nat) (x : QCore) : (s.setQcore c x).noted = s.noted := rfl
@[simp] theorem setQcore_picks (s : State) (c : Nat) (x : QCore) : (s.setQcore c x).picks = s.picks := rfl
@[simp] theorem setQcore_cur (s : State) (c : Nat) (x : QCore) : (s.setQcore c x).cur = s.cur := rfl
@[simp] theorem setQcore_agenda (s : State) (c : Nat) (x : QCore) : (s.setQcore c x).agenda = s.agenda := rfl
@[simp] theorem setQcore_turn (s : State) (c : Nat) (x : QCore) : (s.setQcore c x).turn = s.turn := rfl
@[simp] theorem setQcore_uid (s : State) (c : Nat) (x : QCore) : (s.setQcore c x).uid = s.uid := rfl
@[simp] theorem setQcore_free (s : State) (c : Nat) (x : QCore) : (s.setQcore c x).free = s.free := rfl

/-! ### setDie -/

@[simp] theorem setDie_phys (s : State) (d : Nat) (x : Die) : (s.setDie d x).phys = s.phys := rfl
@[simp] theorem setDie_l1 (s : State) (d : Nat) (x : Die) : (s.setDie d x).l1 = s.l1 := rfl
@[simp] theorem setDie_l1psn (s : State) (d : Nat) (x : Die) : (s.setDie d x).l1psn = s.l1psn := rfl
@[simp] theorem setDie_farPa (s : State) (d : Nat) (x : Die) : (s.setDie d x).farPa = s.farPa := rfl
@[simp] theorem setDie_l2 (s : State) (d : Nat) (x : Die) : (s.setDie d x).l2 = s.l2 := rfl
@[simp] theorem setDie_replicas (s : State) (d : Nat) (x : Die) : (s.setDie d x).replicas = s.replicas := rfl
@[simp] theorem setDie_replicaLines (s : State) (d : Nat) (x : Die) : (s.setDie d x).replicaLines = s.replicaLines := rfl
@[simp] theorem setDie_scratch (s : State) (d : Nat) (x : Die) : (s.setDie d x).scratch = s.scratch := rfl
@[simp] theorem setDie_tile (s : State) (d : Nat) (x : Die) : (s.setDie d x).tile = s.tile := rfl
@[simp] theorem setDie_banks (s : State) (d : Nat) (x : Die) : (s.setDie d x).banks = s.banks := rfl
@[simp] theorem setDie_threads (s : State) (d : Nat) (x : Die) : (s.setDie d x).threads = s.threads := rfl
@[simp] theorem setDie_waves (s : State) (d : Nat) (x : Die) : (s.setDie d x).waves = s.waves := rfl
@[simp] theorem setDie_cores (s : State) (d : Nat) (x : Die) : (s.setDie d x).cores = s.cores := rfl
@[simp] theorem setDie_crews (s : State) (d : Nat) (x : Die) : (s.setDie d x).crews = s.crews := rfl
@[simp] theorem setDie_grids (s : State) (d : Nat) (x : Die) : (s.setDie d x).grids = s.grids := rfl
@[simp] theorem setDie_queues (s : State) (d : Nat) (x : Die) : (s.setDie d x).queues = s.queues := rfl
@[simp] theorem setDie_qcores (s : State) (d : Nat) (x : Die) : (s.setDie d x).qcores = s.qcores := rfl
@[simp] theorem setDie_contexts (s : State) (d : Nat) (x : Die) : (s.setDie d x).contexts = s.contexts := rfl
@[simp] theorem setDie_imports (s : State) (d : Nat) (x : Die) : (s.setDie d x).imports = s.imports := rfl
@[simp] theorem setDie_frames (s : State) (d : Nat) (x : Die) : (s.setDie d x).frames = s.frames := rfl
@[simp] theorem setDie_appended (s : State) (d : Nat) (x : Die) : (s.setDie d x).appended = s.appended := rfl
@[simp] theorem setDie_walked (s : State) (d : Nat) (x : Die) : (s.setDie d x).walked = s.walked := rfl
@[simp] theorem setDie_waiters (s : State) (d : Nat) (x : Die) : (s.setDie d x).waiters = s.waiters := rfl
@[simp] theorem setDie_contention (s : State) (d : Nat) (x : Die) : (s.setDie d x).contention = s.contention := rfl
@[simp] theorem setDie_slews (s : State) (d : Nat) (x : Die) : (s.setDie d x).slews = s.slews := rfl
@[simp] theorem setDie_flushes (s : State) (d : Nat) (x : Die) : (s.setDie d x).flushes = s.flushes := rfl
@[simp] theorem setDie_slewCount (s : State) (d : Nat) (x : Die) : (s.setDie d x).slewCount = s.slewCount := rfl
@[simp] theorem setDie_pend (s : State) (d : Nat) (x : Die) : (s.setDie d x).pend = s.pend := rfl
@[simp] theorem setDie_ops (s : State) (d : Nat) (x : Die) : (s.setDie d x).ops = s.ops := rfl
@[simp] theorem setDie_heldPops (s : State) (d : Nat) (x : Die) : (s.setDie d x).heldPops = s.heldPops := rfl
@[simp] theorem setDie_streams (s : State) (d : Nat) (x : Die) : (s.setDie d x).streams = s.streams := rfl
@[simp] theorem setDie_samplers (s : State) (d : Nat) (x : Die) : (s.setDie d x).samplers = s.samplers := rfl
@[simp] theorem setDie_rasters (s : State) (d : Nat) (x : Die) : (s.setDie d x).rasters = s.rasters := rfl
@[simp] theorem setDie_duals (s : State) (d : Nat) (x : Die) : (s.setDie d x).duals = s.duals := rfl
@[simp] theorem setDie_digests (s : State) (d : Nat) (x : Die) : (s.setDie d x).digests = s.digests := rfl
@[simp] theorem setDie_samples (s : State) (d : Nat) (x : Die) : (s.setDie d x).samples = s.samples := rfl
@[simp] theorem setDie_mismatches (s : State) (d : Nat) (x : Die) : (s.setDie d x).mismatches = s.mismatches := rfl
@[simp] theorem setDie_slots (s : State) (d : Nat) (x : Die) : (s.setDie d x).slots = s.slots := rfl
@[simp] theorem setDie_regs (s : State) (d : Nat) (x : Die) : (s.setDie d x).regs = s.regs := rfl
@[simp] theorem setDie_invBusy (s : State) (d : Nat) (x : Die) : (s.setDie d x).invBusy = s.invBusy := rfl
@[simp] theorem setDie_hsRing (s : State) (d : Nat) (x : Die) : (s.setDie d x).hsRing = s.hsRing := rfl
@[simp] theorem setDie_hsSeq (s : State) (d : Nat) (x : Die) : (s.setDie d x).hsSeq = s.hsSeq := rfl
@[simp] theorem setDie_toHost (s : State) (d : Nat) (x : Die) : (s.setDie d x).toHost = s.toHost := rfl
@[simp] theorem setDie_remotes (s : State) (d : Nat) (x : Die) : (s.setDie d x).remotes = s.remotes := rfl
@[simp] theorem setDie_served (s : State) (d : Nat) (x : Die) : (s.setDie d x).served = s.served := rfl
@[simp] theorem setDie_links (s : State) (d : Nat) (x : Die) : (s.setDie d x).links = s.links := rfl
@[simp] theorem setDie_dies (s : State) (d : Nat) (x : Die) : (s.setDie d x).dies = s.dies.put d x := rfl
@[simp] theorem setDie_leases (s : State) (d : Nat) (x : Die) : (s.setDie d x).leases = s.leases := rfl
@[simp] theorem setDie_demands (s : State) (d : Nat) (x : Die) : (s.setDie d x).demands = s.demands := rfl
@[simp] theorem setDie_bootStep (s : State) (d : Nat) (x : Die) : (s.setDie d x).bootStep = s.bootStep := rfl
@[simp] theorem setDie_locked (s : State) (d : Nat) (x : Die) : (s.setDie d x).locked = s.locked := rfl
@[simp] theorem setDie_fuses (s : State) (d : Nat) (x : Die) : (s.setDie d x).fuses = s.fuses := rfl
@[simp] theorem setDie_attesting (s : State) (d : Nat) (x : Die) : (s.setDie d x).attesting = s.attesting := rfl
@[simp] theorem setDie_signIndex (s : State) (d : Nat) (x : Die) : (s.setDie d x).signIndex = s.signIndex := rfl
@[simp] theorem setDie_images (s : State) (d : Nat) (x : Die) : (s.setDie d x).images = s.images := rfl
@[simp] theorem setDie_boot (s : State) (d : Nat) (x : Die) : (s.setDie d x).boot = s.boot := rfl
@[simp] theorem setDie_msix (s : State) (d : Nat) (x : Die) : (s.setDie d x).msix = s.msix := rfl
@[simp] theorem setDie_msixOpen (s : State) (d : Nat) (x : Die) : (s.setDie d x).msixOpen = s.msixOpen := rfl
@[simp] theorem setDie_msixPending (s : State) (d : Nat) (x : Die) : (s.setDie d x).msixPending = s.msixPending := rfl
@[simp] theorem setDie_mgmt (s : State) (d : Nat) (x : Die) : (s.setDie d x).mgmt = s.mgmt := rfl
@[simp] theorem setDie_outside (s : State) (d : Nat) (x : Die) : (s.setDie d x).outside = s.outside := rfl
@[simp] theorem setDie_outbox (s : State) (d : Nat) (x : Die) : (s.setDie d x).outbox = s.outbox := rfl
@[simp] theorem setDie_noted (s : State) (d : Nat) (x : Die) : (s.setDie d x).noted = s.noted := rfl
@[simp] theorem setDie_picks (s : State) (d : Nat) (x : Die) : (s.setDie d x).picks = s.picks := rfl
@[simp] theorem setDie_cur (s : State) (d : Nat) (x : Die) : (s.setDie d x).cur = s.cur := rfl
@[simp] theorem setDie_agenda (s : State) (d : Nat) (x : Die) : (s.setDie d x).agenda = s.agenda := rfl
@[simp] theorem setDie_turn (s : State) (d : Nat) (x : Die) : (s.setDie d x).turn = s.turn := rfl
@[simp] theorem setDie_uid (s : State) (d : Nat) (x : Die) : (s.setDie d x).uid = s.uid := rfl
@[simp] theorem setDie_free (s : State) (d : Nat) (x : Die) : (s.setDie d x).free = s.free := rfl

/-! ### setPend -/

@[simp] theorem setPend_phys (s : State) (p : List PendOp) : (s.setPend p).phys = s.phys := rfl
@[simp] theorem setPend_l1 (s : State) (p : List PendOp) : (s.setPend p).l1 = s.l1 := rfl
@[simp] theorem setPend_l1psn (s : State) (p : List PendOp) : (s.setPend p).l1psn = s.l1psn := rfl
@[simp] theorem setPend_farPa (s : State) (p : List PendOp) : (s.setPend p).farPa = s.farPa := rfl
@[simp] theorem setPend_l2 (s : State) (p : List PendOp) : (s.setPend p).l2 = s.l2 := rfl
@[simp] theorem setPend_replicas (s : State) (p : List PendOp) : (s.setPend p).replicas = s.replicas := rfl
@[simp] theorem setPend_replicaLines (s : State) (p : List PendOp) : (s.setPend p).replicaLines = s.replicaLines := rfl
@[simp] theorem setPend_scratch (s : State) (p : List PendOp) : (s.setPend p).scratch = s.scratch := rfl
@[simp] theorem setPend_tile (s : State) (p : List PendOp) : (s.setPend p).tile = s.tile := rfl
@[simp] theorem setPend_banks (s : State) (p : List PendOp) : (s.setPend p).banks = s.banks := rfl
@[simp] theorem setPend_threads (s : State) (p : List PendOp) : (s.setPend p).threads = s.threads := rfl
@[simp] theorem setPend_waves (s : State) (p : List PendOp) : (s.setPend p).waves = s.waves := rfl
@[simp] theorem setPend_cores (s : State) (p : List PendOp) : (s.setPend p).cores = s.cores := rfl
@[simp] theorem setPend_crews (s : State) (p : List PendOp) : (s.setPend p).crews = s.crews := rfl
@[simp] theorem setPend_grids (s : State) (p : List PendOp) : (s.setPend p).grids = s.grids := rfl
@[simp] theorem setPend_queues (s : State) (p : List PendOp) : (s.setPend p).queues = s.queues := rfl
@[simp] theorem setPend_qcores (s : State) (p : List PendOp) : (s.setPend p).qcores = s.qcores := rfl
@[simp] theorem setPend_contexts (s : State) (p : List PendOp) : (s.setPend p).contexts = s.contexts := rfl
@[simp] theorem setPend_imports (s : State) (p : List PendOp) : (s.setPend p).imports = s.imports := rfl
@[simp] theorem setPend_frames (s : State) (p : List PendOp) : (s.setPend p).frames = s.frames := rfl
@[simp] theorem setPend_appended (s : State) (p : List PendOp) : (s.setPend p).appended = s.appended := rfl
@[simp] theorem setPend_walked (s : State) (p : List PendOp) : (s.setPend p).walked = s.walked := rfl
@[simp] theorem setPend_waiters (s : State) (p : List PendOp) : (s.setPend p).waiters = s.waiters := rfl
@[simp] theorem setPend_contention (s : State) (p : List PendOp) : (s.setPend p).contention = s.contention := rfl
@[simp] theorem setPend_slews (s : State) (p : List PendOp) : (s.setPend p).slews = s.slews := rfl
@[simp] theorem setPend_flushes (s : State) (p : List PendOp) : (s.setPend p).flushes = s.flushes := rfl
@[simp] theorem setPend_slewCount (s : State) (p : List PendOp) : (s.setPend p).slewCount = s.slewCount := rfl
@[simp] theorem setPend_pend (s : State) (p : List PendOp) : (s.setPend p).pend = p := rfl
@[simp] theorem setPend_ops (s : State) (p : List PendOp) : (s.setPend p).ops = s.ops := rfl
@[simp] theorem setPend_heldPops (s : State) (p : List PendOp) : (s.setPend p).heldPops = s.heldPops := rfl
@[simp] theorem setPend_streams (s : State) (p : List PendOp) : (s.setPend p).streams = s.streams := rfl
@[simp] theorem setPend_samplers (s : State) (p : List PendOp) : (s.setPend p).samplers = s.samplers := rfl
@[simp] theorem setPend_rasters (s : State) (p : List PendOp) : (s.setPend p).rasters = s.rasters := rfl
@[simp] theorem setPend_duals (s : State) (p : List PendOp) : (s.setPend p).duals = s.duals := rfl
@[simp] theorem setPend_digests (s : State) (p : List PendOp) : (s.setPend p).digests = s.digests := rfl
@[simp] theorem setPend_samples (s : State) (p : List PendOp) : (s.setPend p).samples = s.samples := rfl
@[simp] theorem setPend_mismatches (s : State) (p : List PendOp) : (s.setPend p).mismatches = s.mismatches := rfl
@[simp] theorem setPend_slots (s : State) (p : List PendOp) : (s.setPend p).slots = s.slots := rfl
@[simp] theorem setPend_regs (s : State) (p : List PendOp) : (s.setPend p).regs = s.regs := rfl
@[simp] theorem setPend_invBusy (s : State) (p : List PendOp) : (s.setPend p).invBusy = s.invBusy := rfl
@[simp] theorem setPend_hsRing (s : State) (p : List PendOp) : (s.setPend p).hsRing = s.hsRing := rfl
@[simp] theorem setPend_hsSeq (s : State) (p : List PendOp) : (s.setPend p).hsSeq = s.hsSeq := rfl
@[simp] theorem setPend_toHost (s : State) (p : List PendOp) : (s.setPend p).toHost = s.toHost := rfl
@[simp] theorem setPend_remotes (s : State) (p : List PendOp) : (s.setPend p).remotes = s.remotes := rfl
@[simp] theorem setPend_served (s : State) (p : List PendOp) : (s.setPend p).served = s.served := rfl
@[simp] theorem setPend_links (s : State) (p : List PendOp) : (s.setPend p).links = s.links := rfl
@[simp] theorem setPend_dies (s : State) (p : List PendOp) : (s.setPend p).dies = s.dies := rfl
@[simp] theorem setPend_leases (s : State) (p : List PendOp) : (s.setPend p).leases = s.leases := rfl
@[simp] theorem setPend_demands (s : State) (p : List PendOp) : (s.setPend p).demands = s.demands := rfl
@[simp] theorem setPend_bootStep (s : State) (p : List PendOp) : (s.setPend p).bootStep = s.bootStep := rfl
@[simp] theorem setPend_locked (s : State) (p : List PendOp) : (s.setPend p).locked = s.locked := rfl
@[simp] theorem setPend_fuses (s : State) (p : List PendOp) : (s.setPend p).fuses = s.fuses := rfl
@[simp] theorem setPend_attesting (s : State) (p : List PendOp) : (s.setPend p).attesting = s.attesting := rfl
@[simp] theorem setPend_signIndex (s : State) (p : List PendOp) : (s.setPend p).signIndex = s.signIndex := rfl
@[simp] theorem setPend_images (s : State) (p : List PendOp) : (s.setPend p).images = s.images := rfl
@[simp] theorem setPend_boot (s : State) (p : List PendOp) : (s.setPend p).boot = s.boot := rfl
@[simp] theorem setPend_msix (s : State) (p : List PendOp) : (s.setPend p).msix = s.msix := rfl
@[simp] theorem setPend_msixOpen (s : State) (p : List PendOp) : (s.setPend p).msixOpen = s.msixOpen := rfl
@[simp] theorem setPend_msixPending (s : State) (p : List PendOp) : (s.setPend p).msixPending = s.msixPending := rfl
@[simp] theorem setPend_mgmt (s : State) (p : List PendOp) : (s.setPend p).mgmt = s.mgmt := rfl
@[simp] theorem setPend_outside (s : State) (p : List PendOp) : (s.setPend p).outside = s.outside := rfl
@[simp] theorem setPend_outbox (s : State) (p : List PendOp) : (s.setPend p).outbox = s.outbox := rfl
@[simp] theorem setPend_noted (s : State) (p : List PendOp) : (s.setPend p).noted = s.noted := rfl
@[simp] theorem setPend_picks (s : State) (p : List PendOp) : (s.setPend p).picks = s.picks := rfl
@[simp] theorem setPend_cur (s : State) (p : List PendOp) : (s.setPend p).cur = s.cur := rfl
@[simp] theorem setPend_agenda (s : State) (p : List PendOp) : (s.setPend p).agenda = s.agenda := rfl
@[simp] theorem setPend_turn (s : State) (p : List PendOp) : (s.setPend p).turn = s.turn := rfl
@[simp] theorem setPend_uid (s : State) (p : List PendOp) : (s.setPend p).uid = s.uid := rfl
@[simp] theorem setPend_free (s : State) (p : List PendOp) : (s.setPend p).free = s.free := rfl

/-! ### tick and fresh -/

@[simp] theorem tick_fst (s : State) : s.tick.1 = s.free := rfl
@[simp] theorem tick_phys (s : State) : s.tick.2.phys = s.phys := rfl
@[simp] theorem tick_l1 (s : State) : s.tick.2.l1 = s.l1 := rfl
@[simp] theorem tick_l1psn (s : State) : s.tick.2.l1psn = s.l1psn := rfl
@[simp] theorem tick_farPa (s : State) : s.tick.2.farPa = s.farPa := rfl
@[simp] theorem tick_l2 (s : State) : s.tick.2.l2 = s.l2 := rfl
@[simp] theorem tick_replicas (s : State) : s.tick.2.replicas = s.replicas := rfl
@[simp] theorem tick_replicaLines (s : State) : s.tick.2.replicaLines = s.replicaLines := rfl
@[simp] theorem tick_scratch (s : State) : s.tick.2.scratch = s.scratch := rfl
@[simp] theorem tick_tile (s : State) : s.tick.2.tile = s.tile := rfl
@[simp] theorem tick_banks (s : State) : s.tick.2.banks = s.banks := rfl
@[simp] theorem tick_threads (s : State) : s.tick.2.threads = s.threads := rfl
@[simp] theorem tick_waves (s : State) : s.tick.2.waves = s.waves := rfl
@[simp] theorem tick_cores (s : State) : s.tick.2.cores = s.cores := rfl
@[simp] theorem tick_crews (s : State) : s.tick.2.crews = s.crews := rfl
@[simp] theorem tick_grids (s : State) : s.tick.2.grids = s.grids := rfl
@[simp] theorem tick_queues (s : State) : s.tick.2.queues = s.queues := rfl
@[simp] theorem tick_qcores (s : State) : s.tick.2.qcores = s.qcores := rfl
@[simp] theorem tick_contexts (s : State) : s.tick.2.contexts = s.contexts := rfl
@[simp] theorem tick_imports (s : State) : s.tick.2.imports = s.imports := rfl
@[simp] theorem tick_frames (s : State) : s.tick.2.frames = s.frames := rfl
@[simp] theorem tick_appended (s : State) : s.tick.2.appended = s.appended := rfl
@[simp] theorem tick_walked (s : State) : s.tick.2.walked = s.walked := rfl
@[simp] theorem tick_waiters (s : State) : s.tick.2.waiters = s.waiters := rfl
@[simp] theorem tick_contention (s : State) : s.tick.2.contention = s.contention := rfl
@[simp] theorem tick_slews (s : State) : s.tick.2.slews = s.slews := rfl
@[simp] theorem tick_flushes (s : State) : s.tick.2.flushes = s.flushes := rfl
@[simp] theorem tick_slewCount (s : State) : s.tick.2.slewCount = s.slewCount := rfl
@[simp] theorem tick_pend (s : State) : s.tick.2.pend = s.pend := rfl
@[simp] theorem tick_ops (s : State) : s.tick.2.ops = s.ops := rfl
@[simp] theorem tick_heldPops (s : State) : s.tick.2.heldPops = s.heldPops := rfl
@[simp] theorem tick_streams (s : State) : s.tick.2.streams = s.streams := rfl
@[simp] theorem tick_samplers (s : State) : s.tick.2.samplers = s.samplers := rfl
@[simp] theorem tick_rasters (s : State) : s.tick.2.rasters = s.rasters := rfl
@[simp] theorem tick_duals (s : State) : s.tick.2.duals = s.duals := rfl
@[simp] theorem tick_digests (s : State) : s.tick.2.digests = s.digests := rfl
@[simp] theorem tick_samples (s : State) : s.tick.2.samples = s.samples := rfl
@[simp] theorem tick_mismatches (s : State) : s.tick.2.mismatches = s.mismatches := rfl
@[simp] theorem tick_slots (s : State) : s.tick.2.slots = s.slots := rfl
@[simp] theorem tick_regs (s : State) : s.tick.2.regs = s.regs := rfl
@[simp] theorem tick_invBusy (s : State) : s.tick.2.invBusy = s.invBusy := rfl
@[simp] theorem tick_hsRing (s : State) : s.tick.2.hsRing = s.hsRing := rfl
@[simp] theorem tick_hsSeq (s : State) : s.tick.2.hsSeq = s.hsSeq := rfl
@[simp] theorem tick_toHost (s : State) : s.tick.2.toHost = s.toHost := rfl
@[simp] theorem tick_remotes (s : State) : s.tick.2.remotes = s.remotes := rfl
@[simp] theorem tick_served (s : State) : s.tick.2.served = s.served := rfl
@[simp] theorem tick_links (s : State) : s.tick.2.links = s.links := rfl
@[simp] theorem tick_dies (s : State) : s.tick.2.dies = s.dies := rfl
@[simp] theorem tick_leases (s : State) : s.tick.2.leases = s.leases := rfl
@[simp] theorem tick_demands (s : State) : s.tick.2.demands = s.demands := rfl
@[simp] theorem tick_bootStep (s : State) : s.tick.2.bootStep = s.bootStep := rfl
@[simp] theorem tick_locked (s : State) : s.tick.2.locked = s.locked := rfl
@[simp] theorem tick_fuses (s : State) : s.tick.2.fuses = s.fuses := rfl
@[simp] theorem tick_attesting (s : State) : s.tick.2.attesting = s.attesting := rfl
@[simp] theorem tick_signIndex (s : State) : s.tick.2.signIndex = s.signIndex := rfl
@[simp] theorem tick_images (s : State) : s.tick.2.images = s.images := rfl
@[simp] theorem tick_boot (s : State) : s.tick.2.boot = s.boot := rfl
@[simp] theorem tick_msix (s : State) : s.tick.2.msix = s.msix := rfl
@[simp] theorem tick_msixOpen (s : State) : s.tick.2.msixOpen = s.msixOpen := rfl
@[simp] theorem tick_msixPending (s : State) : s.tick.2.msixPending = s.msixPending := rfl
@[simp] theorem tick_mgmt (s : State) : s.tick.2.mgmt = s.mgmt := rfl
@[simp] theorem tick_outside (s : State) : s.tick.2.outside = s.outside := rfl
@[simp] theorem tick_outbox (s : State) : s.tick.2.outbox = s.outbox := rfl
@[simp] theorem tick_noted (s : State) : s.tick.2.noted = s.noted := rfl
@[simp] theorem tick_picks (s : State) : s.tick.2.picks = s.picks := rfl
@[simp] theorem tick_cur (s : State) : s.tick.2.cur = s.cur := rfl
@[simp] theorem tick_agenda (s : State) : s.tick.2.agenda = s.agenda := rfl
@[simp] theorem tick_turn (s : State) : s.tick.2.turn = s.turn := rfl
@[simp] theorem tick_uid (s : State) : s.tick.2.uid = s.uid := rfl
@[simp] theorem tick_free (s : State) : s.tick.2.free = s.free + 1 := rfl

@[simp] theorem fresh_fst (s : State) : s.fresh.1 = s.uid := rfl
@[simp] theorem fresh_phys (s : State) : s.fresh.2.phys = s.phys := rfl
@[simp] theorem fresh_l1 (s : State) : s.fresh.2.l1 = s.l1 := rfl
@[simp] theorem fresh_l1psn (s : State) : s.fresh.2.l1psn = s.l1psn := rfl
@[simp] theorem fresh_farPa (s : State) : s.fresh.2.farPa = s.farPa := rfl
@[simp] theorem fresh_l2 (s : State) : s.fresh.2.l2 = s.l2 := rfl
@[simp] theorem fresh_replicas (s : State) : s.fresh.2.replicas = s.replicas := rfl
@[simp] theorem fresh_replicaLines (s : State) : s.fresh.2.replicaLines = s.replicaLines := rfl
@[simp] theorem fresh_scratch (s : State) : s.fresh.2.scratch = s.scratch := rfl
@[simp] theorem fresh_tile (s : State) : s.fresh.2.tile = s.tile := rfl
@[simp] theorem fresh_banks (s : State) : s.fresh.2.banks = s.banks := rfl
@[simp] theorem fresh_threads (s : State) : s.fresh.2.threads = s.threads := rfl
@[simp] theorem fresh_waves (s : State) : s.fresh.2.waves = s.waves := rfl
@[simp] theorem fresh_cores (s : State) : s.fresh.2.cores = s.cores := rfl
@[simp] theorem fresh_crews (s : State) : s.fresh.2.crews = s.crews := rfl
@[simp] theorem fresh_grids (s : State) : s.fresh.2.grids = s.grids := rfl
@[simp] theorem fresh_queues (s : State) : s.fresh.2.queues = s.queues := rfl
@[simp] theorem fresh_qcores (s : State) : s.fresh.2.qcores = s.qcores := rfl
@[simp] theorem fresh_contexts (s : State) : s.fresh.2.contexts = s.contexts := rfl
@[simp] theorem fresh_imports (s : State) : s.fresh.2.imports = s.imports := rfl
@[simp] theorem fresh_frames (s : State) : s.fresh.2.frames = s.frames := rfl
@[simp] theorem fresh_appended (s : State) : s.fresh.2.appended = s.appended := rfl
@[simp] theorem fresh_walked (s : State) : s.fresh.2.walked = s.walked := rfl
@[simp] theorem fresh_waiters (s : State) : s.fresh.2.waiters = s.waiters := rfl
@[simp] theorem fresh_contention (s : State) : s.fresh.2.contention = s.contention := rfl
@[simp] theorem fresh_slews (s : State) : s.fresh.2.slews = s.slews := rfl
@[simp] theorem fresh_flushes (s : State) : s.fresh.2.flushes = s.flushes := rfl
@[simp] theorem fresh_slewCount (s : State) : s.fresh.2.slewCount = s.slewCount := rfl
@[simp] theorem fresh_pend (s : State) : s.fresh.2.pend = s.pend := rfl
@[simp] theorem fresh_ops (s : State) : s.fresh.2.ops = s.ops := rfl
@[simp] theorem fresh_heldPops (s : State) : s.fresh.2.heldPops = s.heldPops := rfl
@[simp] theorem fresh_streams (s : State) : s.fresh.2.streams = s.streams := rfl
@[simp] theorem fresh_samplers (s : State) : s.fresh.2.samplers = s.samplers := rfl
@[simp] theorem fresh_rasters (s : State) : s.fresh.2.rasters = s.rasters := rfl
@[simp] theorem fresh_duals (s : State) : s.fresh.2.duals = s.duals := rfl
@[simp] theorem fresh_digests (s : State) : s.fresh.2.digests = s.digests := rfl
@[simp] theorem fresh_samples (s : State) : s.fresh.2.samples = s.samples := rfl
@[simp] theorem fresh_mismatches (s : State) : s.fresh.2.mismatches = s.mismatches := rfl
@[simp] theorem fresh_slots (s : State) : s.fresh.2.slots = s.slots := rfl
@[simp] theorem fresh_regs (s : State) : s.fresh.2.regs = s.regs := rfl
@[simp] theorem fresh_invBusy (s : State) : s.fresh.2.invBusy = s.invBusy := rfl
@[simp] theorem fresh_hsRing (s : State) : s.fresh.2.hsRing = s.hsRing := rfl
@[simp] theorem fresh_hsSeq (s : State) : s.fresh.2.hsSeq = s.hsSeq := rfl
@[simp] theorem fresh_toHost (s : State) : s.fresh.2.toHost = s.toHost := rfl
@[simp] theorem fresh_remotes (s : State) : s.fresh.2.remotes = s.remotes := rfl
@[simp] theorem fresh_served (s : State) : s.fresh.2.served = s.served := rfl
@[simp] theorem fresh_links (s : State) : s.fresh.2.links = s.links := rfl
@[simp] theorem fresh_dies (s : State) : s.fresh.2.dies = s.dies := rfl
@[simp] theorem fresh_leases (s : State) : s.fresh.2.leases = s.leases := rfl
@[simp] theorem fresh_demands (s : State) : s.fresh.2.demands = s.demands := rfl
@[simp] theorem fresh_bootStep (s : State) : s.fresh.2.bootStep = s.bootStep := rfl
@[simp] theorem fresh_locked (s : State) : s.fresh.2.locked = s.locked := rfl
@[simp] theorem fresh_fuses (s : State) : s.fresh.2.fuses = s.fuses := rfl
@[simp] theorem fresh_attesting (s : State) : s.fresh.2.attesting = s.attesting := rfl
@[simp] theorem fresh_signIndex (s : State) : s.fresh.2.signIndex = s.signIndex := rfl
@[simp] theorem fresh_images (s : State) : s.fresh.2.images = s.images := rfl
@[simp] theorem fresh_boot (s : State) : s.fresh.2.boot = s.boot := rfl
@[simp] theorem fresh_msix (s : State) : s.fresh.2.msix = s.msix := rfl
@[simp] theorem fresh_msixOpen (s : State) : s.fresh.2.msixOpen = s.msixOpen := rfl
@[simp] theorem fresh_msixPending (s : State) : s.fresh.2.msixPending = s.msixPending := rfl
@[simp] theorem fresh_mgmt (s : State) : s.fresh.2.mgmt = s.mgmt := rfl
@[simp] theorem fresh_outside (s : State) : s.fresh.2.outside = s.outside := rfl
@[simp] theorem fresh_outbox (s : State) : s.fresh.2.outbox = s.outbox := rfl
@[simp] theorem fresh_noted (s : State) : s.fresh.2.noted = s.noted := rfl
@[simp] theorem fresh_picks (s : State) : s.fresh.2.picks = s.picks := rfl
@[simp] theorem fresh_cur (s : State) : s.fresh.2.cur = s.cur := rfl
@[simp] theorem fresh_agenda (s : State) : s.fresh.2.agenda = s.agenda := rfl
@[simp] theorem fresh_turn (s : State) : s.fresh.2.turn = s.turn := rfl
@[simp] theorem fresh_uid (s : State) : s.fresh.2.uid = s.uid + 1 := rfl
@[simp] theorem fresh_free (s : State) : s.fresh.2.free = s.free := rfl

/-! ### Tables read after a write -/

@[simp] theorem thread_setThread_self (s : State) (k : Nat) (x : Thread) : (s.setThread k x).thread k = x := by simp [State.thread, State.setThread]
theorem thread_setThread_ne (s : State) {k j : Nat} (x : Thread) (h : j ≠ k) : (s.setThread k x).thread j = s.thread j := FMap.lookD_put_ne _ _ _ h
@[simp] theorem core_setCore_self (s : State) (k : Nat) (x : Core) : (s.setCore k x).core k = x := by simp [State.core, State.setCore]
theorem core_setCore_ne (s : State) {k j : Nat} (x : Core) (h : j ≠ k) : (s.setCore k x).core j = s.core j := FMap.lookD_put_ne _ _ _ h
@[simp] theorem queue_setQueue_self (s : State) (k : Nat) (x : Queue) : (s.setQueue k x).queue k = x := by simp [State.queue, State.setQueue]
theorem queue_setQueue_ne (s : State) {k j : Nat} (x : Queue) (h : j ≠ k) : (s.setQueue k x).queue j = s.queue j := FMap.lookD_put_ne _ _ _ h
@[simp] theorem qcore_setQcore_self (s : State) (k : Nat) (x : QCore) : (s.setQcore k x).qcore k = x := by simp [State.qcore, State.setQcore]
theorem qcore_setQcore_ne (s : State) {k j : Nat} (x : QCore) (h : j ≠ k) : (s.setQcore k x).qcore j = s.qcore j := FMap.lookD_put_ne _ _ _ h
@[simp] theorem die_setDie_self (s : State) (k : Nat) (x : Die) : (s.setDie k x).die k = x := by simp [State.die, State.setDie]
theorem die_setDie_ne (s : State) {k j : Nat} (x : Die) (h : j ≠ k) : (s.setDie k x).die j = s.die j := FMap.lookD_put_ne _ _ _ h
@[simp] theorem thread_setCore (s : State) (c : Nat) (x : Core) (j : Nat) : (s.setCore c x).thread j = s.thread j := rfl
@[simp] theorem thread_setCrew (s : State) (k : Nat) (x : Crew) (j : Nat) : (s.setCrew k x).thread j = s.thread j := rfl
@[simp] theorem thread_setQueue (s : State) (q : Nat) (x : Queue) (j : Nat) : (s.setQueue q x).thread j = s.thread j := rfl
@[simp] theorem thread_setQcore (s : State) (c : Nat) (x : QCore) (j : Nat) : (s.setQcore c x).thread j = s.thread j := rfl
@[simp] theorem thread_setDie (s : State) (d : Nat) (x : Die) (j : Nat) : (s.setDie d x).thread j = s.thread j := rfl
@[simp] theorem thread_setPend (s : State) (p : List PendOp) (j : Nat) : (s.setPend p).thread j = s.thread j := rfl
@[simp] theorem core_setThread (s : State) (t : Nat) (x : Thread) (j : Nat) : (s.setThread t x).core j = s.core j := rfl
@[simp] theorem core_setCrew (s : State) (k : Nat) (x : Crew) (j : Nat) : (s.setCrew k x).core j = s.core j := rfl
@[simp] theorem core_setQueue (s : State) (q : Nat) (x : Queue) (j : Nat) : (s.setQueue q x).core j = s.core j := rfl
@[simp] theorem core_setQcore (s : State) (c : Nat) (x : QCore) (j : Nat) : (s.setQcore c x).core j = s.core j := rfl
@[simp] theorem core_setDie (s : State) (d : Nat) (x : Die) (j : Nat) : (s.setDie d x).core j = s.core j := rfl
@[simp] theorem core_setPend (s : State) (p : List PendOp) (j : Nat) : (s.setPend p).core j = s.core j := rfl
@[simp] theorem queue_setThread (s : State) (t : Nat) (x : Thread) (j : Nat) : (s.setThread t x).queue j = s.queue j := rfl
@[simp] theorem queue_setCore (s : State) (c : Nat) (x : Core) (j : Nat) : (s.setCore c x).queue j = s.queue j := rfl
@[simp] theorem queue_setCrew (s : State) (k : Nat) (x : Crew) (j : Nat) : (s.setCrew k x).queue j = s.queue j := rfl
@[simp] theorem queue_setQcore (s : State) (c : Nat) (x : QCore) (j : Nat) : (s.setQcore c x).queue j = s.queue j := rfl
@[simp] theorem queue_setDie (s : State) (d : Nat) (x : Die) (j : Nat) : (s.setDie d x).queue j = s.queue j := rfl
@[simp] theorem queue_setPend (s : State) (p : List PendOp) (j : Nat) : (s.setPend p).queue j = s.queue j := rfl
@[simp] theorem qcore_setThread (s : State) (t : Nat) (x : Thread) (j : Nat) : (s.setThread t x).qcore j = s.qcore j := rfl
@[simp] theorem qcore_setCore (s : State) (c : Nat) (x : Core) (j : Nat) : (s.setCore c x).qcore j = s.qcore j := rfl
@[simp] theorem qcore_setCrew (s : State) (k : Nat) (x : Crew) (j : Nat) : (s.setCrew k x).qcore j = s.qcore j := rfl
@[simp] theorem qcore_setQueue (s : State) (q : Nat) (x : Queue) (j : Nat) : (s.setQueue q x).qcore j = s.qcore j := rfl
@[simp] theorem qcore_setDie (s : State) (d : Nat) (x : Die) (j : Nat) : (s.setDie d x).qcore j = s.qcore j := rfl
@[simp] theorem qcore_setPend (s : State) (p : List PendOp) (j : Nat) : (s.setPend p).qcore j = s.qcore j := rfl
@[simp] theorem die_setThread (s : State) (t : Nat) (x : Thread) (j : Nat) : (s.setThread t x).die j = s.die j := rfl
@[simp] theorem die_setCore (s : State) (c : Nat) (x : Core) (j : Nat) : (s.setCore c x).die j = s.die j := rfl
@[simp] theorem die_setCrew (s : State) (k : Nat) (x : Crew) (j : Nat) : (s.setCrew k x).die j = s.die j := rfl
@[simp] theorem die_setQueue (s : State) (q : Nat) (x : Queue) (j : Nat) : (s.setQueue q x).die j = s.die j := rfl
@[simp] theorem die_setQcore (s : State) (c : Nat) (x : QCore) (j : Nat) : (s.setQcore c x).die j = s.die j := rfl
@[simp] theorem die_setPend (s : State) (p : List PendOp) (j : Nat) : (s.setPend p).die j = s.die j := rfl
@[simp] theorem waveAt_setThread (s : State) (t : Nat) (x : Thread) (j : Nat) : (s.setThread t x).waveAt j = s.waveAt j := rfl
@[simp] theorem waveAt_setCore (s : State) (c : Nat) (x : Core) (j : Nat) : (s.setCore c x).waveAt j = s.waveAt j := rfl
@[simp] theorem waveAt_setCrew (s : State) (k : Nat) (x : Crew) (j : Nat) : (s.setCrew k x).waveAt j = s.waveAt j := rfl
@[simp] theorem waveAt_setQueue (s : State) (q : Nat) (x : Queue) (j : Nat) : (s.setQueue q x).waveAt j = s.waveAt j := rfl
@[simp] theorem waveAt_setQcore (s : State) (c : Nat) (x : QCore) (j : Nat) : (s.setQcore c x).waveAt j = s.waveAt j := rfl
@[simp] theorem waveAt_setDie (s : State) (d : Nat) (x : Die) (j : Nat) : (s.setDie d x).waveAt j = s.waveAt j := rfl
@[simp] theorem waveAt_setPend (s : State) (p : List PendOp) (j : Nat) : (s.setPend p).waveAt j = s.waveAt j := rfl
@[simp] theorem crewIdOf_setThread (s : State) (t : Nat) (x : Thread) (j : Nat) : (s.setThread t x).crewIdOf j = s.crewIdOf j := rfl
@[simp] theorem crewIdOf_setCore (s : State) (c : Nat) (x : Core) (j : Nat) : (s.setCore c x).crewIdOf j = s.crewIdOf j := rfl
@[simp] theorem crewIdOf_setCrew (s : State) (k : Nat) (x : Crew) (j : Nat) : (s.setCrew k x).crewIdOf j = s.crewIdOf j := rfl
@[simp] theorem crewIdOf_setQueue (s : State) (q : Nat) (x : Queue) (j : Nat) : (s.setQueue q x).crewIdOf j = s.crewIdOf j := rfl
@[simp] theorem crewIdOf_setQcore (s : State) (c : Nat) (x : QCore) (j : Nat) : (s.setQcore c x).crewIdOf j = s.crewIdOf j := rfl
@[simp] theorem crewIdOf_setDie (s : State) (d : Nat) (x : Die) (j : Nat) : (s.setDie d x).crewIdOf j = s.crewIdOf j := rfl
@[simp] theorem crewIdOf_setPend (s : State) (p : List PendOp) (j : Nat) : (s.setPend p).crewIdOf j = s.crewIdOf j := rfl
@[simp] theorem crewOf_setThread (s : State) (t : Nat) (x : Thread) (j : Nat) : (s.setThread t x).crewOf j = s.crewOf j := rfl
@[simp] theorem crewOf_setCore (s : State) (c : Nat) (x : Core) (j : Nat) : (s.setCore c x).crewOf j = s.crewOf j := rfl
@[simp] theorem crewOf_setQueue (s : State) (q : Nat) (x : Queue) (j : Nat) : (s.setQueue q x).crewOf j = s.crewOf j := rfl
@[simp] theorem crewOf_setQcore (s : State) (c : Nat) (x : QCore) (j : Nat) : (s.setQcore c x).crewOf j = s.crewOf j := rfl
@[simp] theorem crewOf_setDie (s : State) (d : Nat) (x : Die) (j : Nat) : (s.setDie d x).crewOf j = s.crewOf j := rfl
@[simp] theorem crewOf_setPend (s : State) (p : List PendOp) (j : Nat) : (s.setPend p).crewOf j = s.crewOf j := rfl
@[simp] theorem gridOf_setThread (s : State) (t : Nat) (x : Thread) (j : Nat) : (s.setThread t x).gridOf j = s.gridOf j := rfl
@[simp] theorem gridOf_setCore (s : State) (c : Nat) (x : Core) (j : Nat) : (s.setCore c x).gridOf j = s.gridOf j := rfl
@[simp] theorem gridOf_setQueue (s : State) (q : Nat) (x : Queue) (j : Nat) : (s.setQueue q x).gridOf j = s.gridOf j := rfl
@[simp] theorem gridOf_setQcore (s : State) (c : Nat) (x : QCore) (j : Nat) : (s.setQcore c x).gridOf j = s.gridOf j := rfl
@[simp] theorem gridOf_setDie (s : State) (d : Nat) (x : Die) (j : Nat) : (s.setDie d x).gridOf j = s.gridOf j := rfl
@[simp] theorem gridOf_setPend (s : State) (p : List PendOp) (j : Nat) : (s.setPend p).gridOf j = s.gridOf j := rfl
@[simp] theorem ctxOf_setThread (s : State) (t : Nat) (x : Thread) (j : Nat) : (s.setThread t x).ctxOf j = s.ctxOf j := rfl
@[simp] theorem ctxOf_setCore (s : State) (c : Nat) (x : Core) (j : Nat) : (s.setCore c x).ctxOf j = s.ctxOf j := rfl
@[simp] theorem ctxOf_setQcore (s : State) (c : Nat) (x : QCore) (j : Nat) : (s.setQcore c x).ctxOf j = s.ctxOf j := rfl
@[simp] theorem ctxOf_setDie (s : State) (d : Nat) (x : Die) (j : Nat) : (s.setDie d x).ctxOf j = s.ctxOf j := rfl
@[simp] theorem ctxOf_setPend (s : State) (p : List PendOp) (j : Nat) : (s.setPend p).ctxOf j = s.ctxOf j := rfl

end Sys2Proof.Machine
end

