-- ==== Sys2Proof/Laws/Packet.lean ====
section
/-! SUPPORT. What a packet of one thread comes to, by what its lane answers; and what follows for each shared meaning: results, loads, read-modify-writes, cross-thread groups. -/

namespace Sys2Proof.Machine

theorem firstDiff_self (vs : List (Pos × OpVal)) : firstDiff vs (vs.map (·.2)) = none := by
  induction vs with
  | nil => rfl
  | cons a r ih => simp [firstDiff, ih]

theorem report_nil (n insn after : Nat) (s : State) : s.report n [] insn after = s := by
  cases n <;> rfl

@[simp] theorem reportAll_nil (n insn after : Nat) (s : State) : s.reportAll n [] insn after = s := by
  cases n <;> rfl

theorem lowerOf_none : lowerOf none none = none := rfl

theorem firstMark_self (ps : List Pos) (l : List (List Bool)) : firstMark ps l l = none := by
  induction ps generalizing l with
  | nil => rfl
  | cons p r ih => cases l with
    | nil => rfl
    | cons a l => simp [firstMark, ih]

@[simp] theorem registerNotes_nil (t : Nat) : registerNotes t [] = [] := rfl
@[simp] theorem foundErrors_nil (s : State) (t : Nat) : s.foundErrors t [] = s := rfl

/-- A packet that ends without a record leaves its state. -/
theorem finish_none (a : Acc) (insn after : Nat) (pc : Option Nat) (hc : a.causes = []) (hd : a.differ = []) : a.finish insn after pc = a.s := by
  simp only [Acc.finish, hc, hd, uniformCause, ite_self, List.append_nil, List.map_nil]
  exact report_nil _ _ _ _

/-- A packet that ends with one record of one thread. -/
theorem finish_one (a : Acc) (insn after t : Nat) (c : Cause) (pc : Option Nat) (hc : a.causes = [(t, c)]) (hd : a.differ = []) :
    a.finish insn after pc = a.s.report 2 [(t, { c with pc := pc })] insn after := by
  simp only [Acc.finish, hc, hd, uniformCause, ite_self, List.append_nil, List.map_cons, List.map_nil, List.length_cons, List.length_nil]

/-- The packet's first thread is compared with none. -/
theorem compare_first (a : Acc) (u : Bool) (i : Instr) (s : State) (t : Nat) (vs : List (Pos × OpVal)) (h : a.lead = none) :
    (a.compare u i s t vs).s = a.s ∧ (a.compare u i s t vs).causes = a.causes ∧ (a.compare u i s t vs).differ = a.differ := by
  simp [Acc.compare, h]

/-- A packet's accumulator as it begins finds the scratchpads as they are. -/
@[simp] theorem before_first (s : State) : ({ s := s } : Acc).before = s := rfl

theorem compareBad_first (a : Acc) (u : Bool) (i : Instr) (s : State) (t : Nat) (h : a.lead = none) :
    (a.compareBad u i s t).causes = a.causes ∧ (a.compareBad u i s t).differ = a.differ := by
  simp only [Acc.compareBad]
  split
  · exact (compare_first a u i s t _ h).2
  · exact ⟨rfl, rfl⟩

/-- What one thread alone makes of its instruction, by its lane's answer. -/
theorem lane_solo {i : Instr} {u : Bool} {act : State → Nat → Given → LaneOut} {s : State} {t : Nat}
    {x' : Thread} {vs : List (Pos × OpVal)} {d : Dest} (h : Solo i s t x' vs d) :
    laneStep i u act { s := s } t =
      (match act (s.took i t x') t { vals := vs.map (·.2), dst := d, lead := t, mode := (s.thread t).mode } with
      | .wait => { s := s }
      | .stay s2 p =>
        { ({ s := s } : Acc) with s := { s2.setThread t { s.thread t with run := match p with | some p => .parked p | none => (s.thread t).run } with ops := s.ops } }
      | .leave s2 => { ({ s := s } : Acc) with s := { s2 with ops := s.ops } }
      | .trap s2 c => { ({ s := s } : Acc).compare u i s t vs with s := { s2.setThread t (s.thread t) with ops := s.ops }, causes := [(t, c)] }
      | .done s2 notes => { ({ s := s } : Acc).compare u i s t vs with s := s2, causes := notes.map fun c => (t, c), doer := some t }) := by
  simp only [laneStep, h.ready, h.able, Bool.and_self, Bool.not_true, before_first, Option.map_none, ite_self, h.reads, h.sound, State.took,
    registerNotes_nil, foundErrors_nil, Bool.false_eq_true, if_false, List.nil_append, List.append_nil, Option.getD_none]
  cases act (((s.setThread t x').popAll t i.positions).noteBumps t i) t { vals := vs.map (·.2), dst := d, lead := t, mode := (s.thread t).mode } <;> rfl

theorem runPacket_solo {i : Instr} {u : Bool} {act : State → Nat → Given → LaneOut} {s s2 : State} {t : Nat}
    {x' : Thread} {vs : List (Pos × OpVal)} {d : Dest} (h : Solo i s t x' vs d)
    (ha : act (s.took i t x') t { vals := vs.map (·.2), dst := d, lead := t, mode := (s.thread t).mode } = .done s2 []) :
    runPacket i u act s = .next s2 := by
  simp only [runPacket, h.word, h.alone, List.foldl, lane_solo h, ha]
  rw [finish_none _ _ _ _ rfl (compare_first _ _ _ _ _ _ rfl).2.2]

/-- Reporting one cause of one thread: its record, and its trap. -/
theorem report_one (n insn after t : Nat) (c : Cause) (s : State) (hr : (s.thread t).run ≠ .exited) :
    s.report (n + 2) [(t, c)] insn after =
      if s.aborting t && (c.trap || c.group = 1) then s
      else if c.trap then s.takeTrap [t] c insn (laneMask [t]) after
      else (s.logFault (s.ctxOf t) (c.record s t insn (laneMask [t]) 0 (s.thread t).trap.inh)).1 := by
  simp only [State.report, List.filter_cons, List.filter_nil]
  split <;> rename_i h
  · rw [if_neg (by rw [Bool.not_eq_true', Bool.and_eq_false_iff] at h; rcases h with h | h <;> simp [h])]
    simp [State.reportAll, hr]
  · rw [if_pos (by simpa only [Bool.not_eq_true', Bool.not_eq_false] using h)]
    rfl

theorem thread_setThread_ops (s : State) (t : Nat) (x : Thread) (l : List EngOp) :
    ({ s.setThread t x with ops := l } : State).thread t = (s.setThread t x).thread t := rfl

theorem Solo.run_ne {i : Instr} {s : State} {t : Nat} {x' : Thread} {vs : List (Pos × OpVal)} {d : Dest} (h : Solo i s t x' vs d) :
    (s.thread t).run ≠ .exited := by
  have := h.ready
  intro hh
  simp [State.canIssue, hh] at this

theorem SoloFault.run_ne {i : Instr} {s : State} {t : Nat} {c : Cause} (h : SoloFault i s t c) : (s.thread t).run ≠ .exited := by
  have := h.ready
  intro hh
  simp [State.canIssue, hh] at this

/-- A packet of one thread whose operand faults (R377). -/
theorem runPacket_solo_fault {i : Instr} {u : Bool} {act : State → Nat → Given → LaneOut} {s : State} {t : Nat}
    {c : Cause} (h : SoloFault i s t c) :
    runPacket i u act s = .next (({ s := s, causes := (s.trapReads t i none c ++ [c]).map fun c => (t, c) } : Acc).finish (encode i).toNat 0 s.leadPc)
    ∧ (s.trapReads t i none c = [] → c.trap = true → runPacket i u act s = .next (s.trapped t c i s.leadPc)) := by
  have e : runPacket i u act s = .next (({ s := s, causes := (s.trapReads t i none c ++ [c]).map fun c => (t, c) } : Acc).finish (encode i).toNat 0 s.leadPc) := by
    simp only [runPacket, h.word, h.alone, List.foldl, laneStep, h.ready, h.able, Bool.and_self, Bool.not_true, before_first, Option.map_none, ite_self,
      h.faults, h.sound, registerNotes_nil, foundErrors_nil, Bool.false_eq_true, if_false, List.nil_append]
    simp only [Acc.finish, (compareBad_first { s := s } u i s t rfl).2, uniformCause, ite_self]
  refine ⟨e, fun hn hc => ?_⟩
  rw [e, finish_one _ _ _ t c _ (by simp [hn]) rfl, report_one 0 _ _ _ _ _ h.run_ne]
  simp [hc, State.trapped]

/-- A packet of one thread whose instruction traps. -/
theorem runPacket_solo_trap {i : Instr} {u : Bool} {act : State → Nat → Given → LaneOut} {s s2 : State} {t : Nat}
    {x' : Thread} {vs : List (Pos × OpVal)} {d : Dest} {c : Cause} (h : Solo i s t x' vs d) (hc : c.trap = true)
    (ha : act (s.took i t x') t { vals := vs.map (·.2), dst := d, lead := t, mode := (s.thread t).mode } = .trap s2 c) :
    runPacket i u act s = .next (State.trapped { s2.setThread t (s.thread t) with ops := s.ops } t c i s.leadPc) := by
  simp only [runPacket, h.word, h.alone, List.foldl, lane_solo h, ha]
  rw [finish_one _ _ _ t c _ rfl (compare_first _ _ _ _ _ _ rfl).2.2,
    report_one 0 _ _ _ _ _ (by rw [thread_setThread_ops, thread_setThread_self]; exact h.run_ne)]
  simp [hc, State.trapped]

/-- A packet of one thread whose instruction goes on with a record at level 0. -/
theorem runPacket_solo_note {i : Instr} {u : Bool} {act : State → Nat → Given → LaneOut} {s s2 : State} {t : Nat}
    {x' : Thread} {vs : List (Pos × OpVal)} {d : Dest} {c : Cause} (h : Solo i s t x' vs d) (hc : c.trap = false)
    (ha : act (s.took i t x') t { vals := vs.map (·.2), dst := d, lead := t, mode := (s.thread t).mode } = .done s2 [c]) :
    runPacket i u act s = .next (s2.recorded t c i s.leadPc) := by
  simp only [runPacket, h.word, h.alone, List.foldl, lane_solo h, ha]
  rw [finish_one _ _ _ t c _ rfl (compare_first _ _ _ _ _ _ rfl).2.2]
  simp only [State.report, List.filter_cons, List.filter_nil, State.recorded, hc, Bool.false_or]
  by_cases ha : (s2.aborting t && decide (c.group = 1)) = true
  · simp only [ha, if_true, Bool.not_true, Bool.false_eq_true, if_false]; rfl
  · simp only [ha, if_false, Bool.not_false, if_true, State.reportAll, Bool.and_false, Bool.false_eq_true, List.filter_nil, List.map_nil]

/-- A packet of one thread whose instruction waits: nothing happens. -/
theorem runPacket_solo_wait {i : Instr} {u : Bool} {act : State → Nat → Given → LaneOut} {s : State} {t : Nat}
    {x' : Thread} {vs : List (Pos × OpVal)} {d : Dest} (h : Solo i s t x' vs d)
    (ha : act (s.took i t x') t { vals := vs.map (·.2), dst := d, lead := t, mode := (s.thread t).mode } = .wait) :
    runPacket i u act s = .next s := by
  simp only [runPacket, h.word, h.alone, List.foldl, lane_solo h, ha]
  rw [finish_none _ _ _ _ rfl rfl]

/-- A packet of one thread whose instruction parks it at its PC. -/
theorem runPacket_solo_park {i : Instr} {u : Bool} {act : State → Nat → Given → LaneOut} {s s2 : State} {t : Nat} {p : Park}
    {x' : Thread} {vs : List (Pos × OpVal)} {d : Dest} (h : Solo i s t x' vs d)
    (ha : act (s.took i t x') t { vals := vs.map (·.2), dst := d, lead := t, mode := (s.thread t).mode } = .stay s2 (some p)) :
    runPacket i u act s = .next { s2.setThread t { s.thread t with run := .parked p } with ops := s.ops } := by
  simp only [runPacket, h.word, h.alone, List.foldl, lane_solo h, ha]
  rw [finish_none _ _ _ _ rfl rfl]

/-- A packet of one thread whose instruction stays at its PC, ready. -/
theorem runPacket_solo_stay {i : Instr} {u : Bool} {act : State → Nat → Given → LaneOut} {s s2 : State} {t : Nat}
    {x' : Thread} {vs : List (Pos × OpVal)} {d : Dest} (h : Solo i s t x' vs d)
    (ha : act (s.took i t x') t { vals := vs.map (·.2), dst := d, lead := t, mode := (s.thread t).mode } = .stay s2 none) :
    runPacket i u act s = .next { s2.setThread t { s.thread t with run := (s.thread t).run } with ops := s.ops } := by
  simp only [runPacket, h.word, h.alone, List.foldl, lane_solo h, ha]
  rw [finish_none _ _ _ _ rfl rfl]

/-- A packet of one thread whose instruction sends it elsewhere at its PC. -/
theorem runPacket_solo_leave {i : Instr} {u : Bool} {act : State → Nat → Given → LaneOut} {s s2 : State} {t : Nat}
    {x' : Thread} {vs : List (Pos × OpVal)} {d : Dest} (h : Solo i s t x' vs d)
    (ha : act (s.took i t x') t { vals := vs.map (·.2), dst := d, lead := t, mode := (s.thread t).mode } = .leave s2) :
    runPacket i u act s = .next { s2 with ops := s.ops } := by
  simp only [runPacket, h.word, h.alone, List.foldl, lane_solo h, ha]
  rw [finish_none _ _ _ _ rfl rfl]

theorem compute_solo {i : Instr} {u : Bool} {f : Given → Nat × Flags} {s : State} {t : Nat} {x' : Thread}
    {vs : List (Pos × OpVal)} {d : Dest} (h : Solo i s t x' vs d) (hc : Clean vs) :
    compute i u f s = .next (s.settled i t x' d (f { vals := vs.map (·.2), dst := d, lead := t, mode := (s.thread t).mode })) := by
  refine runPacket_solo h ?_
  have : ({ vals := vs.map (·.2), dst := d, lead := t, mode := (s.thread t).mode } : Given).anyPsn = false := by
    simp only [Given.anyPsn, List.any_map, List.any_eq_false]
    intro v hv
    simp [hc v hv]
  simp only [computeLane, this, Bool.false_eq_true, if_false]
  rfl

theorem given_v (vs : List (Pos × OpVal)) (d : Dest) (l : Nat) (m : Word) (n : Nat) :
    ({ vals := vs.map (·.2), dst := d, lead := l, mode := m } : Given).v n = nv (valsOf vs) n := by
  simp only [Given.v, nv, valsOf, List.getD_eq_getElem?_getD, List.getElem?_map]
  cases vs[n]? <;> rfl

theorem computes_of {i : Instr} {u : Bool} {g : Given → Nat × Flags} {f : Word → List Nat → Nat × Flags}
    (hx : ∀ s, exec i s = compute i u g s)
    (hg : ∀ (vs : List (Pos × OpVal)) d t m, g { vals := vs.map (·.2), dst := d, lead := t, mode := m } = f m (valsOf vs)) : Computes i f := by
  intro s t x' vs d h hc
  rw [hx, compute_solo h hc, hg]

theorem computes_int32 {i : Instr} {u : Bool} {g : Word → Word → Word} {f : Word → List Nat → Nat × Flags}
    (hx : ∀ s, exec i s = int32 i u g s) (hg : ∀ m l, ((g (wv l 0) (wv l 1)).toNat, {}) = f m l) : Computes i f :=
  computes_of (g := fun a => ((g (w32 a 0) (w32 a 1)).toNat, {})) hx fun vs d t m => by simp only [w32, given_v]; exact hg m (valsOf vs)
theorem computes_int32d {i : Instr} {u : Bool} {g : Word → Word → Word → Word} {f : Word → List Nat → Nat × Flags}
    (hx : ∀ s, exec i s = int32d i u g s) (hg : ∀ m l, ((g (wv l 0) (wv l 1) (wv l 2)).toNat, {}) = f m l) : Computes i f :=
  computes_of (g := fun a => ((g (w32 a 0) (w32 a 1) (w32 a 2)).toNat, {})) hx fun vs d t m => by simp only [w32, given_v]; exact hg m (valsOf vs)
theorem computes_int32u {i : Instr} {u : Bool} {g : Word → Word} {f : Word → List Nat → Nat × Flags}
    (hx : ∀ s, exec i s = int32u i u g s) (hg : ∀ m l, ((g (wv l 0)).toNat, {}) = f m l) : Computes i f :=
  computes_of (g := fun a => ((g (w32 a 0)).toNat, {})) hx fun vs d t m => by simp only [w32, given_v]; exact hg m (valsOf vs)
theorem computes_int64 {i : Instr} {u : Bool} {g : Dword → Dword → Dword} {f : Word → List Nat → Nat × Flags}
    (hx : ∀ s, exec i s = int64 i u g s) (hg : ∀ m l, ((g (dv l 0) (dv l 1)).toNat, {}) = f m l) : Computes i f :=
  computes_of (g := fun a => ((g (w64 a 0) (w64 a 1)).toNat, {})) hx fun vs d t m => by simp only [w64, given_v]; exact hg m (valsOf vs)
theorem computes_int64u {i : Instr} {u : Bool} {g : Dword → Dword} {f : Word → List Nat → Nat × Flags}
    (hx : ∀ s, exec i s = int64u i u g s) (hg : ∀ m l, ((g (dv l 0)).toNat, {}) = f m l) : Computes i f :=
  computes_of (g := fun a => ((g (w64 a 0)).toNat, {})) hx fun vs d t m => by simp only [w64, given_v]; exact hg m (valsOf vs)
theorem computes_shift64 {i : Instr} {u : Bool} {g : Dword → Nat → Dword} {f : Word → List Nat → Nat × Flags}
    (hx : ∀ s, exec i s = shift64 i u g s) (hg : ∀ m l, ((g (dv l 0) (wv l 1).toNat).toNat, {}) = f m l) : Computes i f :=
  computes_of (g := fun a => ((g (w64 a 0) (w32 a 1).toNat).toNat, {})) hx fun vs d t m => by simp only [w64, w32, given_v]; exact hg m (valsOf vs)
theorem computes_set32 {i : Instr} {u : Bool} {g : Word → Word → Bool} {f : Word → List Nat → Nat × Flags}
    (hx : ∀ s, exec i s = set32 i u g s) (hg : ∀ m l, ((g (wv l 0) (wv l 1)).toNat, {}) = f m l) : Computes i f :=
  computes_of (g := fun a => ((g (w32 a 0) (w32 a 1)).toNat, {})) hx fun vs d t m => by simp only [w32, given_v]; exact hg m (valsOf vs)
theorem computes_set64 {i : Instr} {u : Bool} {g : Dword → Dword → Bool} {f : Word → List Nat → Nat × Flags}
    (hx : ∀ s, exec i s = set64 i u g s) (hg : ∀ m l, ((g (dv l 0) (dv l 1)).toNat, {}) = f m l) : Computes i f :=
  computes_of (g := fun a => ((g (w64 a 0) (w64 a 1)).toNat, {})) hx fun vs d t m => by simp only [w64, given_v]; exact hg m (valsOf vs)
theorem computes_fp2 {i : Instr} {u : Bool} {g : Rm → Nat → Nat → Nat × Flags} {f : Word → List Nat → Nat × Flags}
    (hx : ∀ s, exec i s = fp2 i u g s) (hg : ∀ m l, g (rmOf m.toNat) (nv l 0) (nv l 1) = f m l) : Computes i f :=
  computes_of (g := fun a => g (modeRm a) (a.v 0) (a.v 1)) hx fun vs d t m => by simp only [modeRm, given_v]; exact hg m (valsOf vs)
theorem computes_fp3 {i : Instr} {u : Bool} {g : Rm → Nat → Nat → Nat → Nat × Flags} {f : Word → List Nat → Nat × Flags}
    (hx : ∀ s, exec i s = fp3 i u g s) (hg : ∀ m l, g (rmOf m.toNat) (nv l 0) (nv l 1) (nv l 2) = f m l) : Computes i f :=
  computes_of (g := fun a => g (modeRm a) (a.v 0) (a.v 1) (a.v 2)) hx fun vs d t m => by simp only [modeRm, given_v]; exact hg m (valsOf vs)
theorem computes_fp1 {i : Instr} {u : Bool} {g : Rm → Nat → Nat × Flags} {f : Word → List Nat → Nat × Flags}
    (hx : ∀ s, exec i s = fp1 i u g s) (hg : ∀ m l, g (rmOf m.toNat) (nv l 0) = f m l) : Computes i f :=
  computes_of (g := fun a => g (modeRm a) (a.v 0)) hx fun vs d t m => by simp only [modeRm, given_v]; exact hg m (valsOf vs)
theorem loads_of {i : Instr} {u : Bool} {space size : Nat} {off : Int} {signed : Bool}
   (hx : ∀ s, exec i s = runPacket i u (loadLane i u signed space size off) s) : Loads i space size off signed := by
  intro s t x' vs d h s0 p hl
  have hl' : ¬ 255 ≤ ((s.took i t x').thread t).loads := by simp only [s0] at hl; omega
  constructor
  · intro s1 g hc o
    simp only [s0, p] at hc
    refine ⟨?_, ?_, ?_⟩
    · intro h3 h1
      have h1' : (decide (g.space = 1) && decide (size ≤ 8) && !s1.blocked o) = false := by
        rcases h1 with h1 | h1 | h1
        · simp [h1]
        · simp [Nat.not_le.2 h1]
        · simp [h1]
      rw [hx]; refine runPacket_solo h ?_
      simp only [o] at h1'
      simp only [loadLane, given_v, if_neg hl', ite_self, hc, h3, h1', if_false, Bool.false_eq_true]
      rfl
    · intro h3 h1 h8 hb r
      have h1' : (decide (g.space = 1) && decide (size ≤ 8) && !s1.blocked o) = true := by simp [h1, h8, hb]
      rw [hx]; refine runPacket_solo h ?_
      simp only [o] at h1'
      simp only [loadLane, given_v, if_neg hl', ite_self, hc, h3, h1', if_false, if_true]
      rfl
    · intro h3 hb
      rw [hx]; refine runPacket_solo h ?_
      simp only [loadLane, given_v, if_neg hl', ite_self, hc, h3, if_true, hb, if_false, Bool.false_eq_true]
  · intro s1 e hc
    simp only [s0, p] at hc
    rw [hx]; refine runPacket_solo_note h rfl ?_
    simp only [loadLane, given_v, if_neg hl', ite_self, hc]
    rfl

theorem updates_of {i : Instr} {ret : Bool} {regs scope space op ord : Nat}
   (hx : ∀ s, exec i s = runPacket i false (atomLane i ret regs scope space op ord) s) : Updates i ret regs scope space op ord := by
  intro s t x' vs d h s0 p size sc hl
  have hl' : ¬ 255 ≤ (if ret then ((s.took i t x').thread t).loads else ((s.took i t x').thread t).stores) := by simp only [s0] at hl; omega
  constructor
  · intro s1 g hc o acquired rs
    simp only [s0, p, size] at hc
    refine ⟨?_, ?_, ?_, ?_⟩
    · intro h3 hcl h1 ho s2
      have ho' : (!ret && s1.orderedGrid t) = false := by rcases ho with h | h <;> simp [h]
      have hn : ¬ (decide (g.space = 1) && s1.together && (!decide (2 ≤ ord) || (s1.tryRelease sc (coreOf t) (s1.ctxOf t)).2)) = true := by
        rcases h1 with h1 | h1 | h1
        · simp [h1]
        · simp [h1]
        · by_cases h2 : 2 ≤ ord
          · simp only [rs, h2, if_true] at h1; have h1 : (s1.tryRelease sc (coreOf t) (s1.ctxOf t)).2 = false := h1; simp [h1, h2]
          · simp [rs, h2] at h1
      simp only [sc] at hn
      rw [hx]; refine runPacket_solo h ?_
      simp only [atomLane, given_v, hc, if_neg hl', if_neg h3, if_neg hcl, ho', Bool.false_eq_true, if_false, State.newOp, if_neg hn]
      by_cases h1p : g.place = 1
      · cases ret <;> simp [h1p, o, s2, size, sc, State.newOp]
      · cases ret <;> simp [h1p, o, s2, size, sc, State.newOp]
    · intro h3 hcl h1 ho htg hrs r
      have ho' : (!ret && s1.orderedGrid t) = false := by rcases ho with h | h <;> simp [h]
      have hn : (decide (g.space = 1) && s1.together && (!decide (2 ≤ ord) || (s1.tryRelease sc (coreOf t) (s1.ctxOf t)).2)) = true := by
        by_cases h2 : 2 ≤ ord
        · simp only [rs, h2, if_true] at hrs; have hrs : (s1.tryRelease sc (coreOf t) (s1.ctxOf t)).2 = true := hrs; simp [h1, h2, htg, hrs]
        · simp [h1, h2, htg]
      simp only [sc] at hn
      rw [hx]; refine runPacket_solo h ?_
      simp only [atomLane, given_v, hc, if_neg hl', if_neg h3, if_neg hcl, ho', Bool.false_eq_true, if_false, State.newOp, if_pos hn]
      by_cases h2 : 2 ≤ ord <;> by_cases ha : ord % 2 = 1 <;> simp [ha, h2, r, rs, o, acquired, sc, size, State.newOp]
    · intro h3 hb hrs
      rw [hx]; refine runPacket_solo h ?_
      simp only [atomLane, given_v, hc, if_neg hl', if_pos h3, Bool.false_eq_true, if_false, hb, State.newOp]
      by_cases h2 : 2 ≤ ord
      · simp only [rs, h2, if_true] at hrs ⊢
        have hrs : (s1.tryRelease sc (coreOf t) (s1.ctxOf t)).2 = true := hrs
        simp only [sc] at hrs
        generalize hT : s1.tryRelease (if space = 3 then 4 else scope) (coreOf t) (s1.ctxOf t) = T at hrs ⊢
        obtain ⟨s2, b⟩ := T
        simp only at hrs; subst hrs
        by_cases ha : ord % 2 = 1 <;> simp [ha, h2, hT, o, acquired, sc, size, State.newOp]
      · by_cases ha : ord % 2 = 1 <;> simp [ha, h2, rs, o, acquired, sc, size, State.newOp]
    · intro h3 hcl hret ho hob hrs s2 hh
      subst hret
      simp only [Bool.false_eq_true, if_false] at hl'
      rw [hx]; refine runPacket_solo h ?_
      by_cases h2 : 2 ≤ ord
      · have hbz : s1.busy t = false := by rcases hob with h | h; · omega
                                           · exact h
        simp only [rs, o, sc, size, h2, if_true, decide_true] at hrs hh
        simp only [atomLane, given_v, hc, if_neg hl', if_neg h3, if_neg hcl, ho, Bool.not_false, Bool.and_self, if_true, h2, decide_true, hbz,
          Bool.false_eq_true, if_false]
        generalize s1.tryRelease (if space = 3 then 4 else scope) _ _ = T at hrs hh ⊢
        obtain ⟨s3, b⟩ := T
        simp only at hrs; subst hrs
        simpa using hh
      · simp only [rs, o, sc, size, h2, if_false, decide_false] at hrs hh
        simp only [atomLane, given_v, hc, if_neg hl', if_neg h3, if_neg hcl, ho, Bool.not_false, Bool.and_self, if_true, h2, if_false, decide_false,
          Bool.false_eq_true]
        simpa using hh
  · intro s1 e hc
    rw [hx]; refine runPacket_solo_trap h rfl ?_
    simp only [s0, p, size] at hc
    simp only [atomLane, given_v, hc, if_neg hl', p, size]

/-- A cross-thread packet that ends without a record leaves its state. -/
theorem finishGroup_none (a : Acc) (insn core : Nat) (pc : Option Nat) (hc : a.causes = []) (hd : a.differ = []) : a.finishGroup insn core pc = a.s := by
  simp [Acc.finishGroup, hc, hd, uniformCause, State.quarterRecords, List.range_succ]

/-- A group none of whose scratchpad destinations receives poison keeps its members. -/
theorem keepMembers_all {res : List Party → Party → XtResult} {n : Nat} {ms : List Party}
    (h : ∀ m ∈ ms, ∀ b k, m.dst = .scratch b k → ∀ v, res ms m = some v → v.1.psn = false) : keepMembers res n ms = ms := by
  cases n with
  | zero => rfl
  | succ n =>
    have e : (ms.filter fun m => m.dst.inScratch && (res ms m).any (·.1.psn)) = [] := by
      simp only [List.filter_eq_nil_iff, Bool.and_eq_true, not_and, Bool.not_eq_true]
      intro m hm hd
      cases hr : res ms m with
      | none => rfl
      | some v =>
        cases hd' : m.dst with
        | scratch b k => simp [h m hm b k hd' v hr]
        | reg p k => simp [hd', Dest.inScratch] at hd
        | none => simp [hd', Dest.inScratch] at hd
    simp only [keepMembers]
    rw [e]
    rfl

theorem deliver_eq {s : State} {i : Instr} {m : Party} {r : XtResult} (h : ∀ b k, m.dst = .scratch b k → ∀ v, r = some v → v.1.psn = false) :
    s.deliver i m r = (s.receives i m r, []) := by
  simp only [State.deliver, State.receives]
  cases r with
  | none => rfl
  | some v =>
    by_cases hv : v.1.psn = true
    · simp only [hv, if_true]
      split
      · rename_i b k hd
        simp [h b k hd v rfl] at hv
      · rfl
      · rfl
    · simp only [hv, if_false, Bool.false_eq_true]

theorem deliverAll_eq {i : Instr} {res : Party → XtResult} (l : List Party) (s : State)
    (h : ∀ x ∈ l, ∀ b k, x.dst = .scratch b k → ∀ v, res x = some v → v.1.psn = false) :
    s.deliverAll i (l.map fun x => (x, res x)) = (l.foldl (fun s x => s.receives i x (res x)) s, []) := by
  induction l generalizing s with
  | nil => rfl
  | cons x r ih =>
    simp only [List.map_cons, State.deliverAll, deliver_eq (h x (by simp)), ih _ fun y hy => h y (by simp [hy]), List.append_nil, List.foldl_cons]

theorem joins_of {i : Instr} {u : Bool} {g f : List Party → Party → XtResult}
    (hx : ∀ s, exec i s = crossThread i u g s)
    (hg : ∀ m ms x, (∀ y ∈ m :: ms, (y.val 1).psn = false) → x ∈ m :: ms → g (m :: ms) x = f (m :: ms) x) : Joins i u f := by
  intro s t G m ms hl hc s1 s2 hG hm hp hla hd hu res hr
  rw [hx]
  have e2 : crossThread i u g s = .next (s1.xtIssue i u g G) := by
    simp only [crossThread, hc, hl]
    show (match s1.xtGroup i (waveOf t) (s.thread t).pc with | none => Host.Outcome.next s1 | some g' => .next (s1.xtIssue i u g g')) = _
    rw [hG]
  rw [e2]
  have er : ∀ x ∈ m :: ms, xtResult u g (m :: ms) x = res x := by
    intro x hx'
    cases u
    · simp only [xtResult, res, Bool.false_eq_true, if_false]; exact hg m ms x hp hx'
    · simp only [xtResult, res, hu, if_true]; exact hg m ms m hp (by simp)
  have el : ∀ x ∈ G, latentRead i (s1.thread x) = [] := fun x hx' => by simp [latentRead, hla x hx']
  have ek : ∀ n, keepMembers (xtResult u g) n (m :: ms) = m :: ms := fun n =>
    keepMembers_all fun x hx' b k hd' v hv => hr x hx' b k hd' v (by rw [← er x hx']; exact hv)
  have en : (G.flatMap fun t => (registerNotes t (latentRead i (s1.thread t))).map fun c => (t, c)) = [] := by
    simp only [List.flatMap_eq_nil_iff]; intro x hx'; simp [el x hx']
  have ef : ∀ (l : List Nat) (s2 : State), (∀ x ∈ l, (s2.thread x).latent = []) →
      l.foldl (fun (s : State) t => (s.foundErrors t (latentRead i (s.thread t))).leave t) s2 = l.foldl (fun s t => s.leave t) s2 := by
    intro l
    induction l with
    | nil => intro s2 _; rfl
    | cons a r ih =>
      intro s2 h
      have : latentRead i (s2.thread a) = [] := by simp [latentRead, h a (by simp)]
      simp only [List.foldl_cons, this, foundErrors_nil]
      refine ih _ fun x hx' => ?_
      by_cases hxa : x = a
      · subst hxa; simp only [State.leave, thread_setThread_self]; exact h x (by simp)
      · rw [State.leave, thread_setThread_ne _ _ hxa]; exact h x (by simp [hx'])
  have eo : ((m :: ms).filter fun y => (m :: ms).all (·.tid ≠ y.tid)) = [] := by
    simp only [List.filter_eq_nil_iff]
    intro y hy hall
    simpa using List.all_eq_true.1 hall y hy
  have em : ((m :: ms).map fun x => (x, xtResult u g (m :: ms) x)) = (m :: ms).map fun x => (x, res x) :=
    List.map_congr_left fun x hx' => by rw [er x hx']
  have ed := deliverAll_eq (i := i) (res := res) (m :: ms) (G.foldl (fun s t => s.leave t) s1) hr
  simp only [s2] at hm
  simp only [State.xtIssue, en, ef G s1 hla, hm, ek, eo, em, hd, hu]
  rw [finishGroup_none _ _ _ _ (by rw [ed]; simp) rfl, ed]

theorem reduced_clean {F : List (Nat × Word) → Nat × Flags} {ms : List Party} {x : Party} (h : ∀ y ∈ ms, (y.val 1).psn = false) :
   reduced F ms x = some (⟨(F (ms.map fun m => (m.lane, m.b))).1, false⟩, (F (ms.map fun m => (m.lane, m.b))).2) := by
  have : (ms.any fun m => (m.val 1).psn) = false := by simp only [List.any_eq_false]; intro y hy; simp [h y hy]
  simp [reduced, this]
theorem shfl_clean {src : Int → Int → Int} {ms : List Party} {x : Party} (h : ∀ y ∈ ms, (y.val 1).psn = false) (hx : x ∈ ms) :
   shfl src ms x = (ms.find? fun y => decide ((y.lane : Int) = src x.lane x.b.toNat)).map fun y => (y.val 2, {}) := by
  simp only [shfl, h x hx]
  cases ms.find? fun y => decide ((y.lane : Int) = src x.lane x.b.toNat) <;> simp

end Sys2Proof.Machine
end

