-- ==== Sys2Proof/Laws/Engine.lean ====
section
/-! SUPPORT. What every engine command comes to at issue: the first refusal of its offences, an address that is not aligned, a structure that has been read. -/

namespace Sys2Proof.Machine

theorem refusal_nil (g p : Nat) : refusal g p [] = none := rfl

theorem refusal_one (g p r o : Nat) (hr : r < 99) (ho : o ≤ noField) :
    refusal g p [(r, o)] = some { group := g, code := 1, addr := p, d0 := o, d1 := r } := by
  simp [refusal, List.foldl, Nat.min_eq_right (by omega : r ≤ 99), ho]

theorem refuseOr_some {g p : Nat} {s : State} {l : List Offence} {k : LaneOut} {c : Cause} (h : refusal g p l = some c) :
    refuseOr g p s l k = .trap s c := by simp [refuseOr, h]

theorem refuseOr_nil {g p : Nat} {s : State} {k : LaneOut} : refuseOr g p s [] k = k := rfl

/-- A refusal always traps (R415). -/
theorem refusal_trap {g p : Nat} {l : List Offence} {c : Cause} (h : refusal g p l = some c) : c.trap = true := by
  simp only [refusal] at h; split at h <;> simp at h; rw [← h]

/-- A command whose structure has been read goes on with the offences that every command has. -/
theorem engineLane_ok {g n align insn : Nat} {tag : Option Nat} {s s1 : State} {t p : Nat} {b : List Byte} {psn w : Bool}
    {k : State → List Byte → Bool → List Offence → LaneOut} (ha : p % align = 0) (hr : s.readStruct t p n insn = .ok s1 b psn w) :
    engineLane g n align insn tag s t p k = k s1 b w (s1.commandOffences t tag psn) := by
  simp only [engineLane, ha, ne_eq, not_true, if_false, hr]; rfl

/-- A command whose address is not aligned is refused for reason 1 (R415). -/
theorem engineLane_bad {g n align insn : Nat} {tag : Option Nat} {s : State} {t p : Nat}
    {k : State → List Byte → Bool → List Offence → LaneOut} (ha : p % align ≠ 0) :
    engineLane g n align insn tag s t p k = .trap s { group := g, code := 1, addr := p, d0 := noField, d1 := 1 } := by
  simp only [engineLane, ha, ne_eq, not_false_eq_true, if_true]; rfl

end Sys2Proof.Machine
end

