-- ==== Sys2Proof/Laws/Memory.lean ====
section
/-! SUPPORT. Every operation that writes a storage of State keeps the canonical form of them all. -/

namespace Sys2Proof.Machine

theorem memWf_iff (s : State) : s.memWf = true ↔
    s.phys.wf = true ∧ s.scratch.wf = true ∧ s.tile.wf = true ∧ s.banks.wf = true ∧ s.replicas.wf = true := by
  simp [State.memWf, Memory.wf, and_assoc]

theorem memWf_reset : State.reset.memWf = true := by decide

/-- The canonical form speaks of the five storages alone. -/
theorem memWf_congr {s s' : State} (hp : s'.phys = s.phys) (hs : s'.scratch = s.scratch) (ht : s'.tile = s.tile) (hb : s'.banks = s.banks)
    (hr : s'.replicas = s.replicas) (h : s.memWf = true) : s'.memWf = true := by
  rw [memWf_iff] at *; rw [hp, hs, ht, hb, hr]; exact h

theorem memWf_phys {s : State} {m : PMem} (hm : m.wf = true) (h : s.memWf = true) : ({ s with phys := m } : State).memWf = true := by
  rw [memWf_iff] at *; exact ⟨hm, h.2⟩
theorem memWf_scratch {s : State} {m : PMem} (hm : m.wf = true) (h : s.memWf = true) : ({ s with scratch := m } : State).memWf = true := by
  rw [memWf_iff] at *; exact ⟨h.1, hm, h.2.2⟩
theorem memWf_tile {s : State} {m : PMem} (hm : m.wf = true) (h : s.memWf = true) : ({ s with tile := m } : State).memWf = true := by
  rw [memWf_iff] at *; exact ⟨h.1, h.2.1, hm, h.2.2.2⟩
theorem memWf_banks {s : State} {m : PMem} (hm : m.wf = true) (h : s.memWf = true) : ({ s with banks := m } : State).memWf = true := by
  rw [memWf_iff] at *; exact ⟨h.1, h.2.1, h.2.2.1, hm, h.2.2.2.2⟩

/-! ### L2 slices -/

theorem memWf_dropReplica (s : State) (slice line : Nat) (h : s.memWf = true) : (s.dropReplica slice line).memWf = true := by
  have w := (memWf_iff s).1 h
  simp only [State.dropReplica]
  split
  · exact (memWf_iff _).2 ⟨w.1, w.2.1, w.2.2.1, w.2.2.2.1, PMem.wf_erase _ _ _ _ w.2.2.2.2⟩
  · exact h

/-- A fill of an L2 slice touches no storage but the replica that it evicts. -/
theorem memWf_touchL2 (s : State) (slice pa : Nat) (h : s.memWf = true) : (s.touchL2 slice pa).memWf = true := by
  simp only [State.touchL2]
  split
  · exact h
  · split
    · exact memWf_congr rfl rfl rfl rfl rfl h
    · exact memWf_dropReplica _ _ _ (memWf_congr rfl rfl rfl rfl rfl h)

theorem memWf_touchHome (s : State) (die pa : Nat) (h : s.memWf = true) : (s.touchHome die pa).memWf = true := by
  have k := memWf_touchL2 s (homeSlice die pa) pa h
  simp only [State.touchHome]
  split
  · exact memWf_touchL2 _ _ _ k
  · exact k

/-! ### Home slices and scratchpads -/

theorem memWf_homeWriteLine (s : State) (pa : Nat) (bs : List MByte) (h : s.memWf = true) : (s.homeWriteLine pa bs).memWf = true := by
  have h : (if inHbm pa then s.touchHome 0 pa else s).memWf = true := by
    split
    · exact memWf_touchHome _ _ _ h
    · exact h
  simp only [State.homeWriteLine]
  generalize (if inHbm pa then s.touchHome 0 pa else s) = s' at h ⊢
  have w := (memWf_iff _).1 h
  split
  · exact memWf_scratch (PMem.wf_writeM _ _ _ _ w.2.1) h
  · split
    · exact memWf_phys (PMem.wf_writeCompressed _ _ _ _ _ w.1) h
    · exact memWf_phys (PMem.wf_writeM _ _ _ _ w.1) h

theorem memWf_homeWriteLines (s : State) (k pa : Nat) (bs : List MByte) (h : s.memWf = true) : (s.homeWriteLines k pa bs).memWf = true := by
  induction k generalizing s pa bs with
  | zero => exact h
  | succ k ih =>
    simp only [State.homeWriteLines]
    split
    · exact h
    · exact ih _ _ _ (memWf_homeWriteLine _ _ _ h)

theorem memWf_homeWrite (s : State) (pa : Nat) (bs : List MByte) (h : s.memWf = true) : (s.homeWrite pa bs).memWf = true :=
  memWf_homeWriteLines _ _ _ _ h

theorem memWf_scratchWrite (s : State) (a : Nat) (bs : List MByte) (h : s.memWf = true) : (s.scratchWrite a bs).memWf = true :=
  memWf_scratch (PMem.wf_writeM _ _ _ _ ((memWf_iff s).1 h).2.1) h

theorem memWf_poke (s : State) (pa n v : Nat) (h : s.memWf = true) : (s.poke pa n v).memWf = true :=
  memWf_phys (PMem.wf_write _ _ _ _ _ ((memWf_iff s).1 h).1) h

theorem memWf_setMark (s : State) (base leaf : Nat) (m : Mark) (h : s.memWf = true) : (s.setMark base leaf m).memWf = true := by
  refine memWf_congr rfl rfl rfl rfl rfl (s := if _ then s else s.touchHome 0 leaf) ?_
  split
  · exact h
  · exact memWf_touchHome _ _ _ h

theorem memWf_appendAt (s : State) (base leaf size : Nat) (data : List Byte) (h : s.memWf = true) : (s.appendAt base leaf size data).1.memWf = true := by
  have k := memWf_setMark s base leaf (s.markOf base leaf size) h
  simp only [State.appendAt]
  split
  · exact k
  · split
    · exact k
    · exact memWf_homeWrite _ _ _ (memWf_congr rfl rfl rfl rfl rfl k)

theorem memWf_replicaRead (s : State) (die pa n : Nat) (tv : TailView) (h : s.memWf = true) : (s.replicaRead die pa n tv).2.memWf = true := by
  simp only [State.replicaRead]
  split
  · exact h
  · have w := (memWf_iff _).1 (memWf_touchL2 (s.touchHome die pa) (die * 48 + homeSlice die pa % 48) pa (memWf_touchHome _ _ _ h))
    exact (memWf_iff _).2 ⟨w.1, w.2.1, w.2.2.1, w.2.2.2.1, PMem.wf_writeM _ _ _ _ w.2.2.2.2⟩

theorem wf_foldl_writeM (f : Nat → List MByte) (l : List Nat) (m : PMem) (h : m.wf = true) :
    (l.foldl (fun m a => m.writeM 8 a (f a)) m).wf = true := by
  induction l generalizing m with
  | nil => exact h
  | cons a r ih => exact ih _ (PMem.wf_writeM _ _ _ _ h)

theorem memWf_decompress (s : State) (page : Nat) (h : s.memWf = true) : (s.decompress page).memWf = true := by
  have w := (memWf_iff s).1 h
  simp only [State.decompress]
  split
  · exact (memWf_iff _).2 ⟨wf_foldl_writeM _ _ _ w.1, w.2⟩
  · exact h

theorem wf_foldl_erase (n : Nat) (l : List Nat) (m : PMem) (h : m.wf = true) : (l.foldl (fun m a => m.erase 8 a n) m).wf = true := by
  induction l generalizing m with
  | nil => exact h
  | cons a r ih => exact ih _ (PMem.wf_erase _ _ _ _ h)

theorem memWf_dropReplicas (s : State) (lo n : Nat) (h : s.memWf = true) : (s.dropReplicas lo n).memWf = true := by
  have w := (memWf_iff s).1 h
  exact (memWf_iff _).2 ⟨w.1, w.2.1, w.2.2.1, w.2.2.2.1, wf_foldl_erase _ _ _ w.2.2.2.2⟩

/-! ### Poison in place -/

theorem memWf_poisonAt (s : State) (o : PendOp) (h : s.memWf = true) : (s.poisonAt o).memWf = true := by
  have w := (memWf_iff s).1 h
  simp only [State.poisonAt]
  split
  · exact memWf_scratch (PMem.wf_mark _ _ _ w.2.1) h
  · split
    · exact memWf_congr rfl rfl rfl rfl rfl h
    · split
      · exact h
      · split
        · exact memWf_scratch (PMem.wf_mark _ _ _ w.2.1) h
        · exact memWf_phys (PMem.wf_mark _ _ _ w.1) h

theorem wf_foldl_mark (g : Nat) (l : List Nat) (m : PMem) (h : m.wf = true) : (l.foldl (fun m i => m.mark (g + i) true) m).wf = true := by
  induction l generalizing m with
  | nil => exact h
  | cons a r ih => exact ih _ (PMem.wf_mark _ _ _ h)

theorem memWf_poisonDest (s : State) (t : Nat) (d : Dest) (h : s.memWf = true) : (s.poisonDest t d).memWf = true := by
  cases d with
  | none => exact h
  | reg p n => exact memWf_congr rfl rfl rfl rfl rfl h
  | scratch b n => exact memWf_scratch (wf_foldl_mark _ _ _ ((memWf_iff s).1 h).2.1) h

/-! ### Tile stores, banks, and what is cleared -/

/-- The states that an engine's run holds are all in canonical form. -/
def EngRun.memOk (r : EngRun) : Prop := r.s.memWf = true ∧ (∀ a, r.aim = some a → a.s.memWf = true) ∧ ∀ g, r.got = some g → g.s.memWf = true

/-- An engine's write keeps them where what performs it does (R138). -/
theorem memOk_writeStep (r : EngRun) (f : State → State) (hf : ∀ s, s.memWf = true → (f s).memWf = true) (h : r.memOk) :
    (r.writeStep fun r => { r with s := f r.s }).memOk := by
  obtain ⟨h1, h2, h3⟩ := h
  simp only [EngRun.writeStep]
  split
  · exact ⟨h1, h2, h3⟩
  · split
    · exact ⟨h1, h2, h3⟩
    · exact ⟨hf _ h1, h2, h3⟩
  · rename_i a _ ha
    split
    · refine ⟨h1, h2, fun g hg => ?_⟩
      simp only [Option.some.injEq] at hg
      rw [← hg]; exact hf _ (h2 a ha)
    · exact ⟨h1, h2, h3⟩

theorem memOk_writeLocal (r : EngRun) (b : Nat) (bs : List MByte) (f : State → Nat → List MByte → State)
    (hf : ∀ s a l, s.memWf = true → (f s a l).memWf = true) (h : r.memOk) : (r.writeLocal b bs f).memOk := by
  have k (ps : List (Nat × Nat)) : ∀ x : EngRun × List MByte, x.1.memOk →
      (ps.foldl (fun (x : EngRun × List MByte) (p : Nat × Nat) =>
        (x.1.writeStep fun r => { r with s := f r.s p.1 (x.2.take p.2) }, x.2.drop p.2)) x).1.memOk := by
    induction ps with
    | nil => exact fun _ hx => hx
    | cons p ps ih => exact fun x hx => ih _ (memOk_writeStep x.1 (fun s => f s p.1 (x.2.take p.2)) (fun s hs => hf s _ _ hs) hx)
  exact k _ (r.group, bs) h

theorem memOk_writeTile (r : EngRun) (row b : Nat) (bs : List MByte) (h : r.memOk) : (r.writeTile row b bs).memOk :=
  memOk_writeLocal _ _ _ _ (fun s _ _ hs => memWf_tile (PMem.wf_writeM _ _ _ _ ((memWf_iff s).1 hs).2.2.1) hs) h

theorem memOk_writeBank (r : EngRun) (bank col b : Nat) (bs : List MByte) (h : r.memOk) : (r.writeBank bank col b bs).memOk :=
  memOk_writeLocal _ _ _ _ (fun s _ _ hs => memWf_banks (PMem.wf_writeM _ _ _ _ ((memWf_iff s).1 hs).2.2.2.1) hs) h

theorem memWf_zeroScratch (s : State) (core base n : Nat) (h : s.memWf = true) : (s.zeroScratch core base n).memWf = true :=
  memWf_scratch (PMem.wf_erase _ _ _ _ ((memWf_iff s).1 h).2.1) h

theorem memWf_claimRows (s : State) (core ctx row n : Nat) (h : s.memWf = true) : (s.claimRows core ctx row n).memWf = true := by
  induction n generalizing s row with
  | zero => exact h
  | succ n ih =>
    simp only [State.claimRows]
    apply ih
    refine memWf_congr rfl rfl rfl rfl rfl (s := if _ then s else _) ?_
    split
    · exact h
    · exact memWf_tile (PMem.wf_erase _ _ _ _ ((memWf_iff s).1 h).2.2.1) h

theorem memWf_powerOff (s : State) (d : Nat) (h : s.memWf = true) : (s.powerOff d).memWf = true := by
  have w := (memWf_iff s).1 h
  exact (memWf_iff _).2 ⟨w.1, PMem.wf_erase _ _ _ _ w.2.1, PMem.wf_erase _ _ _ _ w.2.2.1, PMem.wf_erase _ _ _ _ w.2.2.2.1, PMem.wf_erase _ _ _ _ w.2.2.2.2⟩

end Sys2Proof.Machine
end

