-- ==== Sys2Proof/Laws/Ops.lean ====
section
/-! SUPPORT. What the shared operations can change: a home write, an L2 fill, a fault record, a window move, and where a trap leads. -/

namespace Sys2Proof.Machine

/-! ### Frames -/

/-- An L2 fill changes nothing but the lines present, the replica that it evicts, and the count of free values. -/
theorem touchL2_frame (s : State) (slice pa : Nat) :
    ∃ l f r rl, s.touchL2 slice pa = { s with l2 := l, free := f, replicas := r, replicaLines := rl } := by
  simp only [State.touchL2]
  split
  · exact ⟨_, _, _, _, rfl⟩
  · split
    · exact ⟨_, _, _, _, rfl⟩
    · simp only [State.dropReplica]
      split <;> exact ⟨_, _, _, _, rfl⟩

theorem touchHome_frame (s : State) (die pa : Nat) :
    ∃ l f r rl, s.touchHome die pa = { s with l2 := l, free := f, replicas := r, replicaLines := rl } := by
  obtain ⟨l, f, r, rl, h⟩ := touchL2_frame s (homeSlice die pa) pa
  simp only [State.touchHome]
  split
  · rename_i b g _
    obtain ⟨l', f', r', rl', h'⟩ := touchL2_frame (s.touchL2 (homeSlice die pa) pa) (homeSlice die (g.md + (lineOf pa - b) / 512)) (g.md + (lineOf pa - b) / 512)
    exact ⟨l', f', r', rl', by rw [h', h]⟩
  · exact ⟨l, f, r, rl, h⟩

/-- A home write changes nothing but home storage and mapped scratchpad rows, and fills L2. -/
theorem homeWriteLine_frame (s : State) (pa : Nat) (bs : List MByte) :
    ∃ p c l f r rl, s.homeWriteLine pa bs = { s with phys := p, scratch := c, l2 := l, free := f, replicas := r, replicaLines := rl } := by
  have h : ∃ l f r rl, (if inHbm pa then s.touchHome 0 pa else s) = { s with l2 := l, free := f, replicas := r, replicaLines := rl } := by
    split
    · exact touchHome_frame s 0 pa
    · exact ⟨_, _, _, _, rfl⟩
  obtain ⟨l, f, r, rl, h⟩ := h
  simp only [State.homeWriteLine, h]
  repeat' split
  all_goals exact ⟨_, _, _, _, _, _, rfl⟩

theorem homeWriteLines_frame (s : State) (k pa : Nat) (bs : List MByte) :
    ∃ p c l f r rl, s.homeWriteLines k pa bs = { s with phys := p, scratch := c, l2 := l, free := f, replicas := r, replicaLines := rl } := by
  induction k generalizing s pa bs with
  | zero => exact ⟨_, _, _, _, _, _, rfl⟩
  | succ k ih =>
    simp only [State.homeWriteLines]
    split
    · exact ⟨_, _, _, _, _, _, rfl⟩
    · obtain ⟨p, c, l, f, r, rl, g⟩ := homeWriteLine_frame s pa (bs.take (128 - pa % 128))
      obtain ⟨p', c', l', f', r', rl', h⟩ := ih (s.homeWriteLine pa (bs.take (128 - pa % 128))) (pa + (128 - pa % 128)) (bs.drop (128 - pa % 128))
      exact ⟨p', c', l', f', r', rl', by rw [h, g]⟩

theorem homeWrite_frame (s : State) (pa : Nat) (bs : List MByte) :
    ∃ p c l f r rl, s.homeWrite pa bs = { s with phys := p, scratch := c, l2 := l, free := f, replicas := r, replicaLines := rl } :=
  homeWriteLines_frame _ _ _ _

@[simp] theorem homeWrite_threads (s : State) (pa : Nat) (bs : List MByte) : (s.homeWrite pa bs).threads = s.threads := by
  obtain ⟨_, _, _, _, _, _, h⟩ := homeWrite_frame s pa bs; rw [h]
@[simp] theorem homeWrite_cores (s : State) (pa : Nat) (bs : List MByte) : (s.homeWrite pa bs).cores = s.cores := by
  obtain ⟨_, _, _, _, _, _, h⟩ := homeWrite_frame s pa bs; rw [h]
@[simp] theorem homeWrite_crews (s : State) (pa : Nat) (bs : List MByte) : (s.homeWrite pa bs).crews = s.crews := by
  obtain ⟨_, _, _, _, _, _, h⟩ := homeWrite_frame s pa bs; rw [h]
@[simp] theorem homeWrite_contexts (s : State) (pa : Nat) (bs : List MByte) : (s.homeWrite pa bs).contexts = s.contexts := by
  obtain ⟨_, _, _, _, _, _, h⟩ := homeWrite_frame s pa bs; rw [h]
@[simp] theorem homeWrite_pend (s : State) (pa : Nat) (bs : List MByte) : (s.homeWrite pa bs).pend = s.pend := by
  obtain ⟨_, _, _, _, _, _, h⟩ := homeWrite_frame s pa bs; rw [h]

@[simp] theorem touchL2_threads (s : State) (slice pa : Nat) : (s.touchL2 slice pa).threads = s.threads := by
  obtain ⟨_, _, _, _, h⟩ := touchL2_frame s slice pa; rw [h]
@[simp] theorem touchL2_crews (s : State) (slice pa : Nat) : (s.touchL2 slice pa).crews = s.crews := by
  obtain ⟨_, _, _, _, h⟩ := touchL2_frame s slice pa; rw [h]
@[simp] theorem touchL2_phys (s : State) (slice pa : Nat) : (s.touchL2 slice pa).phys = s.phys := by
  obtain ⟨_, _, _, _, h⟩ := touchL2_frame s slice pa; rw [h]
@[simp] theorem touchHome_threads (s : State) (die pa : Nat) : (s.touchHome die pa).threads = s.threads := by
  obtain ⟨_, _, _, _, h⟩ := touchHome_frame s die pa; rw [h]
@[simp] theorem touchHome_crews (s : State) (die pa : Nat) : (s.touchHome die pa).crews = s.crews := by
  obtain ⟨_, _, _, _, h⟩ := touchHome_frame s die pa; rw [h]
@[simp] theorem touchHome_phys (s : State) (die pa : Nat) : (s.touchHome die pa).phys = s.phys := by
  obtain ⟨_, _, _, _, h⟩ := touchHome_frame s die pa; rw [h]

/-- Raising a vector touches the MSI-X fields alone (R337). -/
theorem raise_frame (s : State) (v : Nat) : ∃ m p, s.raise v = { s with msix := m, msixPending := p } := by
  simp only [State.raise]
  repeat' split
  all_goals exact ⟨_, _, rfl⟩
@[simp] theorem raise_threads (s : State) (v : Nat) : (s.raise v).threads = s.threads := by obtain ⟨_, _, h⟩ := raise_frame s v; rw [h]
@[simp] theorem raise_crews (s : State) (v : Nat) : (s.raise v).crews = s.crews := by obtain ⟨_, _, h⟩ := raise_frame s v; rw [h]
theorem memWf_raise (s : State) (v : Nat) (w : s.memWf = true) : (s.raise v).memWf = true := by
  obtain ⟨_, _, h⟩ := raise_frame s v; rw [h]; exact memWf_congr rfl rfl rfl rfl rfl w

/-- Writing a fault record changes no thread and no crew (R370). -/
@[simp] theorem logFault_threads (s : State) (ctx : Nat) (r : Rec) : (s.logFault ctx r).1.threads = s.threads := by
  simp only [State.logFault]
  repeat' split
  all_goals simp
@[simp] theorem logFault_crews (s : State) (ctx : Nat) (r : Rec) : (s.logFault ctx r).1.crews = s.crews := by
  simp only [State.logFault]
  repeat' split
  all_goals simp

theorem memWf_logFault (s : State) (ctx : Nat) (r : Rec) (h : s.memWf = true) : (s.logFault ctx r).1.memWf = true := by
  simp only [State.logFault]
  split
  · exact h
  · split
    · exact memWf_touchHome _ _ _ h
    · split
      · exact memWf_raise _ _ (memWf_homeWrite _ _ _ (memWf_homeWrite _ _ _ (memWf_touchHome _ _ _ (memWf_touchHome _ _ _ h))))
      · exact memWf_raise _ _ (memWf_homeWrite _ _ _ (memWf_touchHome _ _ _ h))

/-! ### Where a trap leads (R363) -/

theorem takeTrap_program {s : State} {t : Nat} {r : List Nat} (c : Cause) (insn lanes after : Nat) (h : s.fateOf t = .program) :
    s.takeTrap (t :: r) c insn lanes after =
      ((s.logFault (s.ctxOf t) (c.record s t insn lanes 4 false)).1).stopProgram (queueOf t) true := by
  simp only [State.takeTrap, h]

theorem takeTrap_handler {s : State} {t : Nat} {r : List Nat} (c : Cause) (insn lanes after : Nat) (h : s.fateOf t = .handler) :
    s.takeTrap (t :: r) c insn lanes after =
      (let f := c.record s t insn lanes 1 false
       let l := s.logFault (s.ctxOf t) f
       (t :: r).foldl (fun s u => if (s.thread u).run = .exited || (s.crewOf u).any (·.run = .aborted) then s else s.enterHandler (t :: r) u f l.2.1 l.2.2 after) l.1) := by
  simp only [State.takeTrap, h]

/-! ### Window moves (R53, R54) -/

/-- Outside 0 to 4032 a core thread's window does not move (R386). -/
theorem moveWindow_range {s : State} {t insn : Nat} {b : Int} (hq : isQueueTid t = false) (hb : b < 0 ∨ 4032 < b) :
    s.moveWindow t b insn = .error { group := 1, code := 0xa, d0 := trunc b 64, d1 := (s.thread t).wb } := by
  simp [State.moveWindow, hq, hb]

/-- A queue program's window moves within 0 to 192, and positions above it are dropped (R55, R386). -/
theorem moveWindow_queue {s : State} {t b insn : Nat} (hq : isQueueTid t = true) (hb : b ≤ 192) :
    s.moveWindow t b insn = .ok (s.setThread t { s.thread t with wb := b, regs := dropPositions (s.thread t).regs (b + 64) 4096 }) := by
  have h1 : ¬ ((b : Int) < 0) := by omega
  have h2 : ¬ (192 < (b : Int)) := by omega
  simp [State.moveWindow, hq, h1, h2]

/-- Nothing is spilled while the resident range reaches the new window's end, nothing filled while it starts at or below it (R54). -/
theorem spillBlocks_none (d wb rb n : Nat) (h : wb + 64 ≤ rb + d) : spillBlocks d wb n rb = [] := by
  cases n with
  | zero => rfl
  | succ n => simp only [spillBlocks]; rw [if_neg (by omega)]
theorem fillBlocks_none (wb rb n : Nat) (h : rb ≤ wb) : fillBlocks wb n rb = [] := by
  cases n with
  | zero => rfl
  | succ n => simp only [fillBlocks]; rw [if_neg (by omega)]

/-! ### The integer square root (R96) -/

/-- The integer square root lies between its square and the next (R96). -/
theorem isqrtBits_bounds (n k r : Nat) (h : r * r ≤ n) (g : n < (r + 2 ^ k) * (r + 2 ^ k)) :
    isqrtBits n k r * isqrtBits n k r ≤ n ∧ n < (isqrtBits n k r + 1) * (isqrtBits n k r + 1) := by
  induction k generalizing r with
  | zero => exact ⟨h, by simpa [isqrtBits] using g⟩
  | succ k ih =>
    simp only [isqrtBits]
    have e : r + 2 ^ (k + 1) = r + 2 ^ k + 2 ^ k := by omega
    split
    · exact ih _ ‹_› (e ▸ g)
    · exact ih r h (by omega)

theorem isqrt_bounds (n : Nat) : isqrt n * isqrt n ≤ n ∧ n < (isqrt n + 1) * (isqrt n + 1) := by
  refine isqrtBits_bounds n (Nat.log2 n / 2 + 1) 0 (by omega) ?_
  rw [Nat.zero_add, ← Nat.pow_add]
  exact Nat.lt_of_lt_of_le Nat.lt_log2_self (Nat.pow_le_pow_right (by omega) (by omega))

/-- A number between its square and the next is the integer square root. -/
theorem isqrt_unique {n r : Nat} (h : r * r ≤ n) (g : n < (r + 1) * (r + 1)) : isqrt n = r := by
  obtain ⟨a, b⟩ := isqrt_bounds n
  have h1 : isqrt n < r + 1 := Nat.mul_self_lt_mul_self_iff.mp (by omega)
  have h2 : r < isqrt n + 1 := Nat.mul_self_lt_mul_self_iff.mp (by omega)
  omega

end Sys2Proof.Machine
end

