-- ==== Sys2Proof/Tests/Slice0.lean ====
section
/-! SUPPORT. Tests: words by the manual's encoding tables, a term that each check refuses, single steps with results worked out by hand from the manual, and for every statement states and operands that meet its hypotheses. -/

namespace Sys2Proof.Machine

set_option Elab.async false

/-! ### Every row's word: the bits the opcode table fixes, and operands that differ by field -/

def wordTable0 : List (Word × Instr) := [
  (0x8209_0a34, .add true 36 20 52),
  (0x8229_0a34, .sub true 36 20 52),
  (0x8249_0a34, .minI32 true 36 20 52),
  (0x8269_0a34, .minN32 true 36 20 52),
  (0x8289_0a34, .maxI32 true 36 20 52),
  (0x82a9_0a34, .maxN32 true 36 20 52),
  (0x82c9_0a00, .abs true 36 20),
  (0x82e9_0a00, .neg true 36 20),
  (0x8309_0a34, .and true 36 20 52),
  (0x8329_0a34, .or true 36 20 52),
  (0x8349_0a34, .xor true 36 20 52),
  (0x8369_0a34, .andn true 36 20 52),
  (0x8389_0a34, .shl true 36 20 52),
  (0x83a9_0a34, .shr true 36 20 52),
  (0x83c9_0a34, .sar true 36 20 52),
  (0x8809_0a34, .addI64 true 36 20 52),
  (0x8829_0a34, .subI64 true 36 20 52),
  (0x8849_0a34, .minI64 true 36 20 52),
  (0x8869_0a34, .minN64 true 36 20 52),
  (0x8889_0a34, .maxI64 true 36 20 52),
  (0x88a9_0a34, .maxN64 true 36 20 52),
  (0x88c9_0a00, .absI64 true 36 20),
  (0x88e9_0a00, .negI64 true 36 20),
  (0x8909_0a34, .andI64 true 36 20 52)]

def wordTable1 : List (Word × Instr) := [
  (0x8929_0a34, .orI64 true 36 20 52),
  (0x8949_0a34, .xorI64 true 36 20 52),
  (0x8969_0a34, .andnI64 true 36 20 52),
  (0x8989_0a34, .shlI64 true 36 20 52),
  (0x89a9_0a34, .shrI64 true 36 20 52),
  (0x89c9_0a34, .sarI64 true 36 20 52),
  (0x89e9_0a34, .mulI64 true 36 20 52),
  (0x8409_0a34, .fshl true 36 20 52),
  (0x8429_0a34, .fshr true 36 20 52),
  (0x8449_0a00, .popc true 36 20),
  (0x8469_0a00, .clz true 36 20),
  (0x8489_0a00, .ctz true 36 20),
  (0x84a9_0a00, .brev true 36 20),
  (0x84c9_0a34, .prmb true 36 20 52),
  (0x84e9_0a34, .mul true 36 20 52),
  (0x8509_0a34, .mulhI32 true 36 20 52),
  (0x8529_0a34, .mulhN32 true 36 20 52),
  (0x8549_0a34, .mad true 36 20 52),
  (0x8569_0a34, .sel true 36 20 52),
  (0x8609_0a34, .seteq true 36 20 52),
  (0x8629_0a34, .setne true 36 20 52),
  (0x8649_0a34, .setltI true 36 20 52),
  (0x8669_0a34, .setleI true 36 20 52),
  (0x8689_0a34, .setgtI true 36 20 52)]

def wordTable2 : List (Word × Instr) := [
  (0x86a9_0a34, .setgeI true 36 20 52),
  (0x86c9_0a34, .setltN true 36 20 52),
  (0x86e9_0a34, .setleN true 36 20 52),
  (0x8709_0a34, .setgtN true 36 20 52),
  (0x8729_0a34, .setgeN true 36 20 52),
  (0x8a09_0a34, .seteq64 true 36 20 52),
  (0x8a29_0a34, .setne64 true 36 20 52),
  (0x8a49_0a34, .setltI64 true 36 20 52),
  (0x8a69_0a34, .setleI64 true 36 20 52),
  (0x8a89_0a34, .setgtI64 true 36 20 52),
  (0x8aa9_0a34, .setgeI64 true 36 20 52),
  (0x8ac9_0a34, .setltN64 true 36 20 52),
  (0x8ae9_0a34, .setleN64 true 36 20 52),
  (0x8b09_0a34, .setgtN64 true 36 20 52),
  (0x8b29_0a34, .setgeN64 true 36 20 52),
  (0x8c90_a555, .addi true 36 20 1365),
  (0x8e90_a555, .andi true 36 20 1365),
  (0x9090_a555, .ori true 36 20 1365),
  (0x9290_a555, .xori true 36 20 1365),
  (0x9490_a015, .shli true 36 20 21),
  (0x9490_a035, .shri true 36 20 21),
  (0x9490_a055, .sari true 36 20 21),
  (0x9690_a4ec, .bfx true 36 20 1 7 12),
  (0x9890_a2b5, .bfi true 36 20 21 21)]

def wordTable3 : List (Word × Instr) := [
  (0x9a92_abcd, .limm true 36 175053),
  (0x9c92_abcd, .lhi true 36 175053),
  (0x9e69_0a34, .lea true 3 36 20 52),
  (0xa090_a555, .leai true 36 20 1365),
  (0x2214_a555, .mova 5 20 1365),
  (0xb009_0a34, .fadd true 36 20 52),
  (0xb029_0a34, .fsub true 36 20 52),
  (0xb049_0a34, .fmul true 36 20 52),
  (0xb069_0a34, .fma true 36 20 52),
  (0xb089_0a34, .fmin true 36 20 52),
  (0xb0a9_0a34, .fmax true 36 20 52),
  (0xb249_0a34, .faddRm true 2 36 20 52),
  (0xb2c9_0a34, .fsubRm true 2 36 20 52),
  (0xb349_0a34, .fmulRm true 2 36 20 52),
  (0xb3c9_0a34, .fmaRm true 2 36 20 52),
  (0xb409_0a34, .fseteq true 36 20 52),
  (0xb429_0a34, .fsetne true 36 20 52),
  (0xb449_0a34, .fsetlt true 36 20 52),
  (0xb469_0a34, .fsetle true 36 20 52),
  (0xb489_0a34, .fsetgt true 36 20 52),
  (0xb4a9_0a34, .fsetge true 36 20 52),
  (0xb4c9_0a34, .fsetun true 36 20 52),
  (0xb4e9_0a34, .fsetor true 36 20 52),
  (0xb609_0a34, .hadd2F16 true 36 20 52)]

def wordTable4 : List (Word × Instr) := [
  (0xb629_0a34, .hmul2F16 true 36 20 52),
  (0xb649_0a34, .hfma2F16 true 36 20 52),
  (0xb689_0a34, .hadd2Bf16 true 36 20 52),
  (0xb6a9_0a34, .hmul2Bf16 true 36 20 52),
  (0xb6c9_0a34, .hfma2Bf16 true 36 20 52),
  (0xb809_0a34, .dadd true 36 20 52),
  (0xb829_0a34, .dsub true 36 20 52),
  (0xb849_0a34, .dmul true 36 20 52),
  (0xb869_0a34, .dfma true 36 20 52),
  (0xb889_0a34, .dmin true 36 20 52),
  (0xb8a9_0a34, .dmax true 36 20 52),
  (0xba49_0a34, .daddRm true 2 36 20 52),
  (0xbac9_0a34, .dsubRm true 2 36 20 52),
  (0xbb49_0a34, .dmulRm true 2 36 20 52),
  (0xbbc9_0a34, .dfmaRm true 2 36 20 52),
  (0xbc09_0a34, .dseteq true 36 20 52),
  (0xbc29_0a34, .dsetne true 36 20 52),
  (0xbc49_0a34, .dsetlt true 36 20 52),
  (0xbc69_0a34, .dsetle true 36 20 52),
  (0xbc89_0a34, .dsetgt true 36 20 52),
  (0xbca9_0a34, .dsetge true 36 20 52),
  (0xbcc9_0a34, .dsetun true 36 20 52),
  (0xbce9_0a34, .dsetor true 36 20 52),
  (0xbe09_0a00, .rcpF32 true 36 20)]

def wordTable5 : List (Word × Instr) := [
  (0xbe29_0a00, .rsqF32 true 36 20),
  (0xbe49_0a00, .sqrtF32 true 36 20),
  (0xbe69_0a00, .exp2 true 36 20),
  (0xbe89_0a00, .log2 true 36 20),
  (0xbea9_0a00, .sin true 36 20),
  (0xbec9_0a00, .cos true 36 20),
  (0xbee9_0a00, .rcpF64 true 36 20),
  (0xbf09_0a00, .rsqF64 true 36 20),
  (0xbf29_0a00, .sqrtF64 true 36 20),
  (0xbf49_0a34, .idivI32 true 36 20 52),
  (0xbf69_0a34, .idivN32 true 36 20 52),
  (0xbf89_0a34, .iremI32 true 36 20 52),
  (0xbfa9_0a34, .iremN32 true 36 20 52),
  (0xc090_a155, .cvt true 36 20 2 10 5),
  (0xc290_a596, .cvtd true 36 20 11 2 6),
  (0xc405_0800, .pkbxBx2 true 20 16),
  (0xc425_0800, .pkbxBx4 true 20 16),
  (0xc445_0800, .pkbxBx7 true 20 16),
  (0xc464_0a00, .upbxBx2 true 16 20),
  (0xc484_0a00, .upbxBx4 true 16 20),
  (0xc4a4_0a00, .upbxBx7 true 16 20),
  (0xc4c2_1000, .pkmxMxi8 true 8 32),
  (0xc4e2_1000, .pkmxMxf8e4 true 8 32),
  (0xc502_1000, .pkmxMxf8e5 true 8 32)]

def wordTable6 : List (Word × Instr) := [
  (0xc528_0400, .upmxMxi8 true 32 8),
  (0xc548_0400, .upmxMxf8e4 true 32 8),
  (0xc568_0400, .upmxMxf8e5 true 32 8),
  (0xc609_0a34, .rngk true 36 20 52),
  (0xc809_0a34, .shflIdx true 36 20 52),
  (0xc829_0a34, .shflUp true 36 20 52),
  (0xc849_0a34, .shflDown true 36 20 52),
  (0xc869_0a34, .shflXor true 36 20 52),
  (0xc889_0a34, .voteAll true 36 20 52),
  (0xc8a9_0a34, .voteAny true 36 20 52),
  (0xc8c9_0a34, .voteEq true 36 20 52),
  (0xc8e9_0a34, .ballot true 36 20 52),
  (0xc909_0a34, .wredAddI32 true 36 20 52),
  (0xc929_0a34, .wredMinI32 true 36 20 52),
  (0xc949_0a34, .wredMaxI32 true 36 20 52),
  (0xc969_0a34, .wredAddF32 true 36 20 52),
  (0xc989_0a34, .wredAnd true 36 20 52),
  (0xc9a9_0a34, .wredOr true 36 20 52),
  (0xc9c9_0a34, .wredXor true 36 20 52),
  (0xd090_a265, .ld true 36 20 2 1 37),
  (0xd290_a165, .lds true 36 20 1 1 37),
  (0xd490_a265, .st true 36 20 2 1 37),
  (0x5600_0a00, .pref 20),
  (0x5620_0a00, .cinvCore 20)]

def wordTable7 : List (Word × Instr) := [
  (0x5640_0a00, .cinvClu 20),
  (0x5660_0a00, .cinvDie 20),
  (0x5680_0a00, .cinvDev 20),
  (0x56a0_0a00, .cinvSys 20),
  (0x5890_a316, .atom32 36 20 3 0 5 2),
  (0x5a90_a316, .atom64 36 20 3 0 5 2),
  (0x5c90_a316, .red32 36 20 3 0 5 2),
  (0x5e90_a316, .red64 36 20 3 0 5 2),
  (0x6000_0a34, .bredF32 20 52),
  (0x6020_0a34, .bredF64 20 52),
  (0x6049_0a00, .binfin 36 20),
  (0x6209_0a34, .appendB32 36 20 52),
  (0x6229_0a34, .appendB64 36 20 52),
  (0x6249_0a34, .appendB128 36 20 52),
  (0x6269_0a30, .appendB256 36 20 48),
  (0x6300_0a00, .sealPage 20),
  (0x6409_0a34, .waita 36 20 52),
  (0x6429_0a34, .wake 36 20 52),
  (0x6449_0a00, .twany 36 20),
  (0x6460_0a00, .twall 20),
  (0x6489_0a00, .tffr 36 20),
  (0x6500_0180, .fenceAcq 3),
  (0x6520_0180, .fenceRel 3),
  (0x6540_0180, .fenceAr 3)]

def wordTable8 : List (Word × Instr) := [
  (0x6609_0a34, .phreg 36 20 52),
  (0x6620_0a00, .phdrop 20),
  (0x6640_0a00, .phsig 20),
  (0x6669_0a00, .phwt 36 20),
  (0x6689_0a00, .pharv 36 20),
  (0x6709_0a34, .phregDev 36 20 52),
  (0x6720_0a00, .phdropDev 20),
  (0x6740_0a00, .phsigDev 20),
  (0x6769_0a00, .phwtDev 36 20),
  (0x6789_0a00, .pharvDev 36 20),
  (0x6800_6579, .waitc 3 5 7 9),
  (0x6a09_0a34, .wopen 36 20 52),
  (0x6a20_0a00, .wshut 20),
  (0x6a49_0a34, .spmap 36 20 52),
  (0x6a60_0a00, .spunmap 20),
  (0x6c09_0a01, .tres 36 20 true),
  (0x6c20_0a00, .trel 20),
  (0x6c54_0a4b, .mxop 20 37 true),
  (0x6c74_0000, .mxswap),
  (0x6c95_0a4a, .bload 84 20 37),
  (0x6cb5_0a4a, .copy 84 20 37),
  (0x6cd5_0a4a, .gath 84 20 37),
  (0x6cf5_0a4a, .scat 84 20 37),
  (0x6d15_8a4b, .trace 20 37 true)]

def wordTable9 : List (Word × Instr) := [
  (0x6d20_0a00, .tdecCont 20),
  (0x6d20_0a02, .tdecAcc 20),
  (0x6d20_0a04, .tdecTerm 20),
  (0x6d56_0a4a, .march 20 37),
  (0x6d76_8a01, .emit 20 true),
  (0x6e09_0a00, .launch 36 20),
  (0x6e20_0a00, .gwait 20),
  (0x6e40_0a00, .qsig 20),
  (0xf065_2a55, .br true 3 20 10837),
  (0x7212_abcd, .jmp 1223629),
  (0x7572_abcd, .call 11 1223629),
  (0xf600_0a00, .brx true 20),
  (0xf620_0a0b, .callx true 20 11),
  (0x7640_0000, .ret),
  (0x7660_0045, .wbase 69),
  (0x7680_0000, .yield),
  (0x76a0_0000, .exit),
  (0x76c0_0000, .nop),
  (0x76e0_0045, .trap 69),
  (0x7700_0000, .eret),
  (0xf890_0020, .mfs true 36 32),
  (0x7a00_a020, .mts 20 32)]

def wordsAgree (l : List (Word × Instr)) : Bool := l.all fun r => decide (decode r.1 = some r.2) && decide (encode r.2 = r.1) && r.2.wellFormed

theorem test_words_0 : wordsAgree wordTable0 = true := by decide +kernel
theorem test_words_1 : wordsAgree wordTable1 = true := by decide +kernel
theorem test_words_2 : wordsAgree wordTable2 = true := by decide +kernel
theorem test_words_3 : wordsAgree wordTable3 = true := by decide +kernel
theorem test_words_4 : wordsAgree wordTable4 = true := by decide +kernel
theorem test_words_5 : wordsAgree wordTable5 = true := by decide +kernel
theorem test_words_6 : wordsAgree wordTable6 = true := by decide +kernel
theorem test_words_7 : wordsAgree wordTable7 = true := by decide +kernel
theorem test_words_8 : wordsAgree wordTable8 = true := by decide +kernel
theorem test_words_9 : wordsAgree wordTable9 = true := by decide +kernel

/-- Words that the manual writes out beside their assembly (R168, R178 to R283, chapters 8 to 10 and 15 to 21). -/
theorem test_manual_words_arithmetic :
    wordsAgree [(0x0221_41f1, .sub false 5 3 113), (0x0401_0274, .fshl false 4 4 116), (0x1608_0cec, .bfx false 2 1 1 7 12),
      (0x1c24_48d1, .lhi false 9 0x48d1), (0x3041_c102, .fmul false 7 2 2), (0x33a1_8102, .fmaRm false 1 6 2 2), (0x400c_3955, .cvt false 3 7 2 10 5),
      (0x4484_0000, .upbxBx4 false 16 0), (0x4602_8114, .rngk false 10 2 20), (0x4900_c461, .wredAddI32 false 3 8 97), (0x4841_4471, .shflDown false 5 8 113)] = true := by
  decide +kernel
theorem test_manual_words_memory :
    wordsAgree [(0x5018_1202, .ld false 6 2 2 0 2), (0x521c_497f, .lds false 7 9 1 1 63), (0x5420_2402, .st false 8 4 4 0 2), (0x5a20_1224, .atom64 8 2 2 0 9 0),
      (0x5c14_1300, .red32 5 2 3 0 0 0), (0x580c_3968, .atom32 3 7 1 1 10 0), (0x6020_0106, .bredF64 2 6), (0x6042_0100, .binfin 8 2), (0x6220_c106, .appendB64 3 2 6),
      (0x6300_0100, .sealPage 2), (0x6800_40ff, .waitc 2 0 15 15), (0x6460_3c00, .twall 120), (0x6441_8200, .twany 6 4), (0x6480_c200, .tffr 3 4), (0x6680_f980, .pharv 3 115),
      (0x6600_f9f0, .phreg 3 115 112), (0x6520_0180, .fenceRel 3), (0x6500_0100, .fenceAcq 2), (0x6540_0200, .fenceAr 4), (0x6a00_c270, .wopen 3 4 112), (0x6a20_0180, .wshut 3),
      (0x6a41_4106, .spmap 5 2 6), (0x6a60_0280, .spunmap 5)] = true := by decide +kernel
theorem test_manual_words_control :
    wordsAgree [(0x7600_0200, .brx false 4), (0x7620_0202, .callx false 4 2), (0x7640_0000, .ret), (0x7660_007e, .wbase 126), (0x7680_0000, .yield), (0x76a0_0000, .exit),
      (0x76c0_0000, .nop), (0x7700_0000, .eret), (0x7828_0001, .mfs false 10 1), (0x7a00_2010, .mts 4 16), (0x6d56_030e, .march 6 7), (0x6e00_c200, .launch 3 4),
      (0x6e20_0180, .gwait 3), (0x6e40_0280, .qsig 5)] = true := by decide +kernel

/-! ### A term for each check, refused with the CODE of R376 and the mask and value of R380 to R383 -/

/-- D 96 (a special register) of an ADD is no destination: CODE 5, mask 20:14. An odd pair of ADD.i64: CODE 6 in A. A mask of 65. A pointer of 64. A condition of 80. A group of 16 at 8. -/
theorem test_operand_checks :
    (Instr.add false 96 0 0).check false = some ⟨5, 0x1fc000, 96⟩ ∧ (Instr.addI64 false 0 1 0).check false = some ⟨6, 0x3f80, 1⟩
    ∧ (Instr.voteAll false 0 65 0).check false = some ⟨5, 0x3f80, 65⟩ ∧ (Instr.voteAll false 0 2 0).check false = some ⟨6, 0x3f80, 2⟩
    ∧ (Instr.pref 64).check false = some ⟨5, 0x3f80, 64⟩ ∧ (Instr.pref 3).check false = some ⟨6, 0x3f80, 3⟩ ∧ (Instr.phsig 64).check false = some ⟨5, 0x3f80, 64⟩
    ∧ (Instr.br false 0 80 0).check false = some ⟨5, 0x1fc000, 80⟩ ∧ (Instr.pkbxBx2 false 0 8).check false = some ⟨6, 0x3f80, 8⟩
    ∧ (Instr.pkbxBx2 false 0 64).check false = some ⟨5, 0x3f80, 64⟩ ∧ (Instr.copy 81 0 0).check false = some ⟨5, 0x1fc000, 81⟩
    ∧ (Instr.add false 0 88 0).check false = some ⟨5, 0x3f80, 88⟩ ∧ (Instr.add false 0 81 0).check true = some ⟨5, 0x3f80, 81⟩ := by decide +kernel
/-- Values a field reserves (R380): CVT of type 11, LD of W 6, an atomic of scope 5 and of operation 11, a RED that acquires, BR of condition 9 and an unconditional BR with A, selector 3 of 2^10, FENCE of scope 5. -/
theorem test_reserved_values :
    (Instr.cvt false 0 0 11 2 0).check false = some ⟨4, 0x780, 0⟩ ∧ (Instr.cvtd false 0 0 2 3 0).check false = some ⟨4, 0x7f8, 0⟩ ∧ (Instr.ld false 0 0 6 0 0).check false = some ⟨4, 0x700, 0⟩
    ∧ (Instr.atom32 0 0 5 0 0 0).check false = some ⟨4, 0x700, 0⟩ ∧ (Instr.atom32 0 0 0 0 11 0).check false = some ⟨4, 0x3c, 0⟩ ∧ (Instr.red32 0 0 0 0 0 1).check false = some ⟨4, 3, 0⟩
    ∧ (Instr.br false 9 0 0).check false = some ⟨4, 0x1e00000, 0⟩ ∧ (Instr.br false 8 1 0).check false = some ⟨3, 0x1fc000, 0⟩ ∧ (Instr.mfs false 0 1023).check false = some ⟨4, 0x7ff, 0⟩
    ∧ (Instr.fenceAcq 5).check false = some ⟨4, 0x3f80, 0⟩ := by decide +kernel
/-- The kind of core (R163, R383): FADD and space 01 on a queue core, LAUNCH on a core; neither alone makes a term ill-formed, an operand fault on both does. -/
theorem test_kind_of_core :
    ((Instr.fadd false 0 0 0).check true).isSome = true ∧ ((Instr.ld false 0 0 2 1 0).check true).isSome = true ∧ ((Instr.launch 0 0).check false).isSome = true
    ∧ (Instr.fadd false 0 0 0).wellFormed = true ∧ (Instr.launch 0 0).wellFormed = true ∧ (Instr.add false 96 0 0).wellFormed = false := by decide +kernel
/-- Words of no instruction (R376, R379): major 0, a reserved major, bits that must be 0, an unassigned cell. -/
theorem test_words_refused : decode 0 = none ∧ decode 0x7e00_0000 = none ∧ decode 0x76a0_0001 = none ∧ decode 0x03e0_0000 = none
    ∧ (wordFault false 0).map (·.code) = some 1 := by decide +kernel

/-! ### States for single steps -/

/-- Context 0 with every permission on VA 0 to 64 KiB (frame 0x100000, PLAIN), an APPEND page after it (frame 0x200000), a page of device registers after that, a handler at VA 0x400; fault log of 64 records at 0x30000. -/
def testContext (s : State) : State :=
  let s := (((s.placeContext 0x100000).poke 0x10010 8 0x3f).poke 0x24000 8 0x1001f3).poke 0x24010 8 0x2001b3
  let s := (s.poke 0x24018 8 1).poke 0x24020 8 (Config.regBase + 0x1b3)
  let s := s.poke 0x30018 8 6
  { s with contexts := s.contexts.put 0 { btab := 0x10000, ptroot := 0x20000, flbase := 0x30000, logn := 6, thnd := 0x400, save := 0x50000, sys := true } }

def testCrew : Crew :=
  { grid := 1, index := 0, waves := 1, core := 0, paired := false, prio := 0, alloc := 4096, base := 0, ntags := 8, start := 0, cluster := 0 }
def testGrid : Grid := { queue := 0, ctx := 0, record := placeRecord, order := 0, taken := true, started := 1, total := 1 }

/-- Thread 0 of core 0, alone in its crew, about to issue; `l` lists registers and their values. -/
def bench (l : List (Nat × Nat)) (f : Thread → Thread := id) : State :=
  let s := testContext State.reset
  let s := { s with grids := s.grids.put 1 testGrid, crews := s.crews.put 0 testCrew, waves := s.waves.put 0 { crew := 0, index := 0, spillX := 0, since := 0 } }
  let s := s.setThread 0 (f { run := .ready, regs := l.foldl (fun r x => FMap.put r x.1 ⟨BitVec.ofNat 32 x.2, false⟩) [] })
  { s with cur := { tids := [0], pipe := 0 } }

/-- Queue program 0, about to issue. -/
def queueBench (l : List (Nat × Nat)) : State :=
  let s := testContext State.reset
  let s := s.setThread Config.coreThreads { run := .ready, regs := l.foldl (fun r x => FMap.put r x.1 ⟨BitVec.ofNat 32 x.2, false⟩) [] }
  { s.setQueue 0 { s.queue 0 with run := true, qctx := 0 } with cur := { tids := [Config.coreThreads], pipe := 0 } }

/-- The word at the PC of the test thread runs as the next step: what the step leaves of thread 0. -/
def ran (s : State) (i : Instr) : State :=
  match exec i s with
  | .next s' => s'
  | .fault _ => s
  | .refused _ => s

/-! ### Hypotheses as tests -/

/-- What `Solo` gives of an instruction: the thread after its operands, its values and its destination. -/
def soloOf (i : Instr) (s : State) (t : Nat) : Option (Thread × List (Pos × OpVal) × Dest) :=
  if s.cur.tids = [t] ∧ i.check s.onQueue = none ∧ s.canIssue t = true ∧ laneReady i s t = true ∧ latentRead i (s.thread t) = [] then
    match laneOperands i s t with
    | .ok (x, vs, d, []) => some (x, vs, d)
    | _ => none
  else none

/-- `Solo` holds of some operands for which `f` of the state after reading them, the values and the destination is true. -/
def meets (i : Instr) (s : State) (t : Nat) (f : State → List (Pos × OpVal) → Dest → Bool) : Bool :=
  match soloOf i s t with
  | some (x, vs, d) => f (s.took i t x) vs d
  | none => false

theorem solo_of_meets {i : Instr} {s : State} {t : Nat} {f : State → List (Pos × OpVal) → Dest → Bool} (h : meets i s t f = true) :
    ∃ x vs d, Solo i s t x vs d ∧ f (s.took i t x) vs d = true := by
  simp only [meets, soloOf] at h
  split at h
  · rename_i x vs d hs
    split at hs
    · rename_i hc
      split at hs
      · rename_i ho
        simp only [Option.some.injEq, Prod.mk.injEq] at hs
        obtain ⟨rfl, rfl, rfl⟩ := hs
        exact ⟨_, _, _, ⟨hc.1, hc.2.1, hc.2.2.1, hc.2.2.2.1, hc.2.2.2.2, ho⟩, h⟩
      · simp at hs
    · simp at hs
  · simp at h

def clean' (vs : List (Pos × OpVal)) : Bool := vs.all fun v => !v.2.psn
/-- The instruction can issue on clean operands: the hypotheses of `Computes`. -/
def computesMeets (l : List (Nat × Nat)) (i : Instr) : Bool := meets i (bench l) 0 fun _ vs _ => clean' vs

def okOf {ε α : Type} (x : Except ε α) : Bool :=
  match x with
  | .ok _ => true
  | .error _ => false
/-- The access that checks pass, if they do. -/
def target? (x : State × Checked) : Option (State × Target) :=
  match x with
  | (s, .ok g) => some (s, g)
  | _ => none
def refused? (x : State × Checked) : Bool :=
  match x with
  | (_, .bad _) => true
  | _ => false
def onTarget (x : State × Checked) (f : State → Target → Bool) : Bool :=
  match target? x with
  | some (s, g) => f s g
  | none => false

/-! ### Results that the manual works out -/

/-- What the test thread's register holds after the instruction, and its MODE. -/
def after (l : List (Nat × Nat)) (i : Instr) (r : Nat) : Nat := (((ran (bench l) i).thread 0).reg r).val.toNat
def modeAfter (l : List (Nat × Nat)) (i : Instr) : Word := ((ran (bench l) i).thread 0).mode

/-- Chapter 8, three integer words. -/
theorem test_integer_words :
    after [(3, 0x10)] (.sub false 5 3 113) 5 = 0xf ∧ after [(4, 0x12345678)] (.fshl false 4 4 116) 4 = 0x34567812
    ∧ (decode 0x16080cec).map (after [(1, 0x00abc000)] · 2) = some 0xffffffbc ∧ (decode 0x160808ec).map (after [(1, 0x00abc000)] · 2) = some 0xbc := by decide +kernel

/-- Chapter 8, one rounding against two. -/
theorem test_one_rounding :
    after [(2, 0x3f800800)] (.fmul false 7 2 2) 7 = 0x3f801000 ∧ modeAfter [(2, 0x3f800800)] (.fmul false 7 2 2) = ({ nx := true } : Flags).bits
    ∧ after [(7, 0x3f801000), (6, 0xbf801000)] (.fadd false 7 7 6) 7 = 0 ∧ modeAfter [(7, 0x3f801000), (6, 0xbf801000)] (.fadd false 7 7 6) = 0
    ∧ after [(2, 0x3f800800), (6, 0xbf801000)] (.fma false 6 2 2) 6 = 0x33800000
    ∧ (decode 0x33a18102).map (after [(2, 0x3f800800), (6, 0x33800000)] · 6) = some 0x3f801001 := by decide +kernel

/-- Chapter 8, integer division of −7 by 2 and by 0. -/
theorem test_division :
    [after [(1, 0xfffffff9), (2, 2)] (.idivI32 false 3 1 2) 3, after [(1, 0xfffffff9), (2, 2)] (.iremI32 false 3 1 2) 3,
      after [(1, 0xfffffff9), (2, 2)] (.idivN32 false 3 1 2) 3, after [(1, 0xfffffff9), (2, 2)] (.iremN32 false 3 1 2) 3] = [0xfffffffd, 0xffffffff, 0x7ffffffc, 1]
    ∧ [after [(1, 0xfffffff9)] (.idivI32 false 3 1 2) 3, after [(1, 0xfffffff9)] (.iremN32 false 3 1 2) 3] = [0xffffffff, 0xfffffff9]
    ∧ modeAfter [(1, 0xfffffff9)] (.idivN32 false 3 1 2) = ({ dz := true } : Flags).bits := by decide +kernel

/-- Chapter 8, conversions: the word, the source, the result and the flags. -/
theorem test_conversions : ([(0x400c3955, 7, 0xc0b00000, 0xfffffffb, ({ nx := true } : Flags)), (0x400c3950, 7, 0xc0b00000, 0xfffffffa, { nx := true }),
      (0x400c3b50, 7, 0xc0b00000, 0, { nv := true }), (0x400c4c50, 9, 0x4788b800, 0x7c00, { ovf := true, nx := true })].all fun (q : Word × Nat × Nat × Nat × Flags) =>
    match decode q.1 with
    | some i => decide (after [(q.2.1, q.2.2.1)] i 3 = q.2.2.2.1) && decide (modeAfter [(q.2.1, q.2.2.1)] i = q.2.2.2.2.bits)
    | none => false) = true := by decide +kernel

/-- R78 and chapter 8: the bx4 block of 3.3, −1.0, 0.7 and −0.74, and the block unpacked. -/
theorem test_block_of_bx4 :
    leBytes 12 (bxPack 4 (([0x40533333, 0xbf800000, 0x3f333333, 0xbf3d70a4] ++ List.replicate 12 0).map f32.decode)).1 = [0x80, 0xfe, 0x8d, 0x1a, 0x0b, 0, 0, 0, 0, 0, 0, 0]
    ∧ (let s := ran (bench [(0, 0x1a8dfe80), (1, 0xb)]) (.upbxBx4 false 16 0)
       [((s.thread 0).reg 16).val, ((s.thread 0).reg 17).val, ((s.thread 0).reg 18).val] = [0x40500000, 0xbf800000, 0x3f400000]) := by decide +kernel

/-- R94: contributions 1.5, 2^−100 and −0.25 with EMAX 3. -/
theorem test_bins :
    let w := [0x3ff8000000000000, 0x39b0000000000000, 0xbfd0000000000000].foldl (fun w x => bredUpdate w (f64.decode x)) [3, 0, 0, 0, 0]
    w = [3, 5 * 2 ^ 34, 0, 2 ^ 16, 3] ∧ binfinValue w = 0x3ff4000000000000 := by decide +kernel

/-- R59: `add.i32 [a1], [a1+], [a1+]` reads 0x40 and 0x44, writes 0x48 and leaves a1 = 0x48. -/
theorem test_scratchpad_operands :
    let s : State := bench [] fun x => { x with areg := [(1, ⟨0x40, false⟩)] }
    let s : State := { s with scratch := (s.scratch.write 4 0x40 (leBytes 4 7) false).write 4 0x44 (leBytes 4 5) false }
    let s' := ran s (.add false 65 73 73)
    (s'.scratch.read 4 0x48 4).map (·.1) = leBytes 4 12 ∧ ((s'.thread 0).areg' 1).val = 0x48 := by decide +kernel

/-- Chapter 9, a call through the overlap: WB, the link registers and the caller's view after the return. -/
theorem test_call_and_return :
    let deep (s : State) : State := { s with grids := s.grids.put 1 { testGrid with record := List.replicate 34 0 ++ [1, 4] ++ List.replicate 28 0 } }
    let s := deep (bench [(48, 7), (49, 5)] fun x => { x with pc := 0x0200000000011000 })
    let c := (ran s (.call 6 0x100)).thread 0
    let back := (ran (deep (bench [(48, 12), (109, 6), (110, 0x11004), (111, 0x2000000)] fun x => { x with wb := 48 })) .ret).thread 0
    c.wb = 48 ∧ c.pc = 0x0200000000011400 ∧ [c.reg 0, c.reg 1, c.reg 61, c.reg 62, c.reg 63].map (·.val) = [7, 5, 6, 0x11004, 0x2000000]
    ∧ back.wb = 0 ∧ back.pc = 0x0200000000011004 ∧ (back.reg 48).val = 12 := by decide +kernel

/-- Chapter 18, words that fail in decoding: CODE, D0 and D1. -/
theorem test_failing_words :
    [wordFault false 0, wordFault false 0x03f064c9, wordFault false 0x65200280, wordFault false 0x021c0082, wordFault false 0x38008184, wordFault true 0x6c540109]
      = [some ⟨1, 0x7e000000, 0⟩, some ⟨2, 0x1e00000, 0⟩, some ⟨4, 0x3f80, 0⟩, some ⟨5, 0x1fc000, 112⟩, some ⟨6, 0x3f80, 3⟩, some ⟨7, 0x7e000000, 0⟩] := by decide +kernel

/-- Chapter 13, a ray on a shared edge: T1 misses; T2 is hit at t = 1.0, u = 0, v = 0.5, FACE = 0. -/
theorem test_shared_edge :
    let r : Ray := { o := [0x3f000000, 0x3f000000, 0xbf800000], d := [0, 0, 0x3f800000], tmin := 0, tmax := 0x41200000 }
    let one := 0x3f800000
    (match triTest r [0, 0, 0] [one, 0, 0] [0, one, 0], triTest r [one, 0, 0] [one, one, 0] [0, one, 0] with
     | .miss, .hit t u v face => decide (t = some one ∧ u = some 0 ∧ v = some 0x3f000000 ∧ face = false)
     | _, _ => false) = true := by decide +kernel

/-- Chapter 13, a rectangle on a 4 × 2 target: the additions of its two level lines. -/
theorem test_rectangle :
    [(0, 0), (1, 0), (2, 0), (3, 0)].map (fun (p : Int × Int) => (Shape.line (128, 64) (640, 64)).add p.1 p.2) = [some 393216, some 786432, some 393216, none]
    ∧ [(0, 1), (1, 1), (2, 1)].map (fun (p : Int × Int) => ((Shape.line (128, 64) (640, 64)).add p.1 p.2, (Shape.line (640, 256) (128, 256)).add p.1 p.2))
      = [(some 524288, some (-524288)), (some 1048576, some (-1048576)), (some 524288, some (-524288))] := by decide +kernel

/-- Chapter 14, one lease: B may raise its cap by 300 of 400 W. -/
theorem test_lease :
    (ran (State.reset.setTokens ⟨1500, 1500, 1100, 0⟩) (.tokenGrant 0 400 40)).tokens.cap = 1800 ∧ (ran (State.reset.setTokens ⟨1500, 1500, 1100, 0⟩) (.tokenGrant 0 300 501)).tokens.cap = 1500 := by
  decide +kernel

/-- R201 and R372: a software trap goes to the handler of the context with the trap state saved. -/
theorem test_trap :
    let x := (ran (let s := bench [] fun x => { x with pc := 8 }
                   { s with grids := s.grids.put 1 { testGrid with record := List.replicate 34 0 ++ [1, 4] ++ List.replicate 28 0 } }) (.trap 9)).thread 0
    x.pc = 0x400 ∧ x.trap.tpc = 12 ∧ x.trap.inh = true ∧ x.run = .ready ∧ x.wb = 64 ∧ x.trap.twb = 0 := by decide +kernel

/-- The word where a step fetches is the instruction that the step runs: EXIT of a core thread. -/
theorem test_placed_exit :
    (match step (State.reset.withFetchWord 32 0x76a00000) with
     | .next s => decide ((s.thread 0).run = .exited)
     | _ => false) = true := by decide +kernel
/-- The word where a step fetches is the instruction that the step runs: QSIG of a queue program. -/
theorem test_placed_qsig :
    (match step (State.reset.withFetchWord 32 (encode (.qsig 113)).toNat) with
     | .next s => decide ((s.queue 0).sigCount = 1) && decide ((s.queue 0).sigValue = 1)
     | _ => false) = true := by decide +kernel

/-! ### Witnesses: for every statement, states and operands that meet its hypotheses -/

/-- `Computes` (integer, immediate, floating, conversion, packing): each instruction issues on clean operands, at −1, at a count of the full width, and at the ends of its immediate. -/
def computing0 : List Instr := [.add false 32 0 2, .sub false 32 0 2, .minI32 false 32 0 2, .minN32 false 32 0 2, .maxI32 false 32 0 2, .maxN32 false 32 0 2, .abs false 32 0, .neg false 32 0, .and false 32 0 2, .or false 32 0 2, .xor false 32 0 2, .andn false 32 0 2, .shl false 32 0 2, .shr false 32 0 2, .sar false 32 0 2, .addI64 false 32 0 2, .subI64 false 32 0 2, .minI64 false 32 0 2, .minN64 false 32 0 2, .maxI64 false 32 0 2, .maxN64 false 32 0 2, .absI64 false 32 0, .negI64 false 32 0, .andI64 false 32 0 2, .orI64 false 32 0 2, .xorI64 false 32 0 2, .andnI64 false 32 0 2, .shlI64 false 32 0 2, .shrI64 false 32 0 2, .sarI64 false 32 0 2]
def computing1 : List Instr := [.mulI64 false 32 0 2, .fshl false 32 0 2, .fshr false 32 0 2, .popc false 32 0, .clz false 32 0, .ctz false 32 0, .brev false 32 0, .prmb false 32 0 2, .mul false 32 0 2, .mulhI32 false 32 0 2, .mulhN32 false 32 0 2, .mad false 32 0 2, .sel false 32 0 2, .seteq false 32 0 2, .setne false 32 0 2, .setltI false 32 0 2, .setleI false 32 0 2, .setgtI false 32 0 2, .setgeI false 32 0 2, .setltN false 32 0 2, .setleN false 32 0 2, .setgtN false 32 0 2, .setgeN false 32 0 2, .seteq64 false 32 0 2, .setne64 false 32 0 2, .setltI64 false 32 0 2, .setleI64 false 32 0 2, .setgtI64 false 32 0 2, .setgeI64 false 32 0 2, .setltN64 false 32 0 2]
def computing2 : List Instr := [.setleN64 false 32 0 2, .setgtN64 false 32 0 2, .setgeN64 false 32 0 2, .addi false 32 0 2047, .andi false 32 0 2047, .ori false 32 0 2047, .xori false 32 0 2047, .leai false 32 0 2047, .shli false 32 0 31, .shri false 32 0 31, .sari false 32 0 31, .bfx false 32 0 1 31 31, .bfi false 32 0 31 31, .limm false 32 0x3ffff, .lhi false 32 0x3ffff, .lea false 8 32 0 2, .fadd false 32 0 2, .fsub false 32 0 2, .fmul false 32 0 2, .fma false 32 0 2, .faddRm false 1 32 0 2, .fsubRm false 1 32 0 2, .fmulRm false 1 32 0 2, .fmaRm false 1 32 0 2, .fmin false 32 0 2, .fmax false 32 0 2, .dadd false 32 0 2, .dsub false 32 0 2, .dmul false 32 0 2, .dfma false 32 0 2]
def computing3 : List Instr := [.daddRm false 1 32 0 2, .dsubRm false 1 32 0 2, .dmulRm false 1 32 0 2, .dfmaRm false 1 32 0 2, .dmin false 32 0 2, .dmax false 32 0 2, .fseteq false 32 0 2, .fsetne false 32 0 2, .fsetlt false 32 0 2, .fsetle false 32 0 2, .fsetgt false 32 0 2, .fsetge false 32 0 2, .fsetun false 32 0 2, .fsetor false 32 0 2, .dseteq false 32 0 2, .dsetne false 32 0 2, .dsetlt false 32 0 2, .dsetle false 32 0 2, .dsetgt false 32 0 2, .dsetge false 32 0 2, .dsetun false 32 0 2, .dsetor false 32 0 2, .hadd2F16 false 32 0 2, .hmul2F16 false 32 0 2, .hfma2F16 false 32 0 2, .hadd2Bf16 false 32 0 2, .hmul2Bf16 false 32 0 2, .hfma2Bf16 false 32 0 2, .rcpF32 false 32 0, .rsqF32 false 32 0]
def computing4 : List Instr := [.sqrtF32 false 32 0, .exp2 false 32 0, .log2 false 32 0, .sin false 32 0, .cos false 32 0, .rcpF64 false 32 0, .rsqF64 false 32 0, .sqrtF64 false 32 0, .idivI32 false 32 0 2, .iremI32 false 32 0 2, .idivN32 false 32 0 2, .iremN32 false 32 0 2, .cvt false 32 0 2 10 4, .cvtd false 32 0 11 2 7, .pkbxBx2 false 32 0, .pkbxBx4 false 32 0, .pkbxBx7 false 32 0, .upbxBx2 false 32 0, .upbxBx4 false 32 0, .upbxBx7 false 32 0, .pkmxMxi8 false 32 0, .pkmxMxf8e4 false 32 0, .pkmxMxf8e5 false 32 0, .upmxMxi8 false 32 0, .upmxMxf8e4 false 32 0, .upmxMxf8e5 false 32 0, .rngk false 32 0 2]
/-- Conversions of each pair of kinds: integers, integer to float, float to integer, one format, two formats. -/
def computing5 : List Instr := [.cvt false 32 0 1 6 0, .cvt false 32 0 10 3 5, .cvt false 32 0 6 9 7, .cvt false 32 0 10 10 0, .cvt false 32 0 8 10 4, .cvt false 32 0 3 2 0,
  .cvtd false 32 0 11 7 0, .cvtd false 32 0 7 11 0, .cvtd false 32 0 11 11 0, .cvtd false 32 0 10 11 0]
def computing : List Instr := computing0 ++ computing1 ++ computing2 ++ computing3 ++ computing4 ++ computing5
theorem witness_computes : computing.all (computesMeets [(0, 0xffffffff), (1, 0xffffffff), (2, 32), (32, 0x80000000)]) = true := by decide +kernel
theorem witness_computes_zero : computing.all (computesMeets []) = true := by decide +kernel

theorem witness_roundingModes : (∃ e q : Int, q ≤ e) ∧ (∃ e q : Int, e < q)
    ∧ ∀ f ∈ [f16, bf16, f32, f64], (2 : Int) ^ (f.e - 1) ≤ 2 ^ (f.e - 1) + (Nat.log2 1 : Int) ∧ 0 < 2 * f.signBit ∧ f.mag 0 < f.infBits
      ∧ (f.round .rup true 3 (f.eulp - 1)).2.ovf = false ∧ f.infBits - 1 < 2 * f.signBit ∧ (f.decode (f.infBits - 1)).isFinite = true :=
  ⟨⟨0, 0, by decide⟩, ⟨-1, 0, by decide⟩, by decide +kernel⟩

/-- The square root of 2 and of the smallest subnormal: an even and an odd exponent. -/
theorem witness_squareRoot : ([(f32, 0x40000000), (f32, 1), (f64, 1)].all fun (q : Fmt × Nat) =>
    match q.1.decode q.2 with
    | .fin false m e =>
      let big := (if e % 2 = 0 then m else 2 * m) * 2 ^ 140
      decide (0 < m) && decide (isqrt big * isqrt big ≤ big) && decide (big < (isqrt big + 1) * (isqrt big + 1))
    | _ => false) = true := by decide +kernel

theorem witness_nanAndApproximationResults :
    (∀ f ∈ [f16, bf16, f32, f64], f.isNaN f.defaultNaN = true ∧ f.isNaN 0 = false ∧ f.isNaN f.infBits = false)
    ∧ (∀ f ∈ [f32, f64], let x := f.signBit + 1; f.neg x = true ∧ 0 < f.mag x ∧ f.mag x ≤ f.infBits ∧ x < 2 * f.signBit)
    ∧ f32.isNaN 0x7f800001 = true := by decide +kernel

/-- Threads 0 and 1 of core 0 at one cross-thread instruction, each naming both in v8 to v11. -/
def pairBench : State :=
  let s := bench [(2, 0xffffffff), (4, 7), (8, 3)]
  let s := s.setThread 1 { s.thread 0 with regs := [(2, ⟨1, false⟩), (4, ⟨9, false⟩), (8, ⟨3, false⟩)] }
  { s with cur := { tids := [0, 1], pipe := 0 } }

/-- The same with equal sources, for the uniform form. -/
def sharedBench : State := pairBench.setThread 1 { pairBench.thread 0 with regs := (pairBench.thread 0).regs }
/-- The hypotheses of `Joins`. -/
def joinsMeets (i : Instr) (u : Bool) (f : List Party → Party → XtResult) (s : State) (t : Nat) : Bool :=
  let s1 := s.cur.tids.foldl (fun (s : State) t => s.arrive i t) s
  decide (s.lead = some t) && decide (i.check s.onQueue = none) &&
  match s1.xtGroup i (waveOf t) (s.thread t).pc with
  | none => false
  | some g =>
    let s2 := g.foldl (fun (s : State) t => s.leave t) s1
    match s2.members i u none g with
    | (m :: ms, []) =>
      (m :: ms).all (fun x => !(x.val 1).psn) && (s1.disagree i g (m :: ms)).isEmpty && (dissent u (m :: ms)).isEmpty && decide (ms.length = 1) &&
      g.all (fun x => (s1.thread x).latent.isEmpty) && (m :: ms).all fun x => match x.dst, f (m :: ms) (if u then m else x) with
        | .scratch .., some v => !v.1.psn
        | _, _ => true
    | _ => false

theorem witness_crossThreadResults :
    (joinsMeets (.shflIdx true 64 8 4) true (fun ms m => (ms.find? fun (x : Party) => decide ((x.lane : Int) = m.b.toNat)).map fun (x : Party) => (x.val 2, {})) sharedBench 0
    && joinsMeets (.shflIdx false 4 8 2) false (fun ms m => (ms.find? fun (x : Party) => decide ((x.lane : Int) = m.b.toNat)).map fun (x : Party) => (x.val 2, {})) pairBench 0
    && joinsMeets (.shflUp false 4 8 2) false (fun ms m => (ms.find? fun (x : Party) => decide ((x.lane : Int) = m.lane - m.b.toNat)).map fun (x : Party) => (x.val 2, {})) pairBench 0
    && joinsMeets (.shflDown false 4 8 2) false (fun ms m => (ms.find? fun (x : Party) => decide ((x.lane : Int) = m.lane + m.b.toNat)).map fun (x : Party) => (x.val 2, {})) pairBench 0
    && joinsMeets (.shflXor false 4 8 2) false (fun ms m => (ms.find? fun (x : Party) => decide ((x.lane : Int) = (m.lane ^^^ m.b.toNat : Nat))).map fun (x : Party) => (x.val 2, {})) pairBench 0
    && joinsMeets (.voteAll false 4 8 2) false (fun ms _ => some (⟨if ms.all (fun (m : Party) => decide (m.b ≠ 0)) then 1 else 0, false⟩, {})) pairBench 0
    && joinsMeets (.voteAny false 4 8 2) false (fun ms _ => some (⟨if ms.any (fun (m : Party) => decide (m.b ≠ 0)) then 1 else 0, false⟩, {})) pairBench 0
    && joinsMeets (.voteEq false 4 8 2) false (fun ms _ => some (⟨if ms.all (fun (m : Party) => ms.all fun (n : Party) => decide (m.b = n.b)) then 1 else 0, false⟩, {})) pairBench 0
    && joinsMeets (.ballot false 4 8 2) false (fun ms _ => some (⟨(ms.map fun (m : Party) => if m.b = 0 then 0 else 2 ^ m.lane).sum, false⟩, {})) pairBench 0
    && joinsMeets (.wredAddI32 false 4 8 2) false (fun ms _ => some (⟨(ms.map fun (m : Party) => m.b.toNat).sum % 2 ^ 32, false⟩, {})) pairBench 0
    && joinsMeets (.wredMinI32 false 4 8 2) false (fun ms _ => some (⟨trunc ((ms.map fun (m : Party) => m.b.toInt).foldl min (2 ^ 31 - 1)) 32, false⟩, {})) pairBench 0
    && joinsMeets (.wredMaxI32 false 4 8 2) false (fun ms _ => some (⟨trunc ((ms.map fun (m : Party) => m.b.toInt).foldl max (-(2 ^ 31))) 32, false⟩, {})) pairBench 0
    && joinsMeets (.wredAnd false 4 8 2) false (fun ms _ => some (⟨((ms.map fun (m : Party) => m.b).foldl (· &&& ·) 0xffffffff).toNat, false⟩, {})) pairBench 0
    && joinsMeets (.wredOr false 4 8 2) false (fun ms _ => some (⟨((ms.map fun (m : Party) => m.b).foldl (· ||| ·) 0).toNat, false⟩, {})) pairBench 0
    && joinsMeets (.wredXor false 4 8 2) false (fun ms _ => some (⟨((ms.map fun (m : Party) => m.b).foldl (· ^^^ ·) 0).toNat, false⟩, {})) pairBench 0
    && joinsMeets (.wredAddF32 false 4 8 2) false (fun ms _ => some (⟨(wredF32 (ms.map (·.b))).1, false⟩, (wredF32 (ms.map (·.b))).2)) pairBench 0) = true := by decide +kernel

/-- Conditions of R156, worked out by hand on the ends of each range: condition, value, whether it holds. -/
def branchCases : List (BitVec 4 × Nat × Bool) :=
  [(0, 0, true), (0, 1, false), (1, 1, true), (1, 0, false), (2, 0x80000000, true), (2, 0, false), (3, 0, true), (3, 0xffffffff, false), (4, 1, true), (4, 0, false),
   (5, 0, true), (5, 1, false), (6, 1, true), (6, 2, false), (7, 2, true), (7, 1, false)]
/-- BR reads the value and goes where the hand-worked column says. -/
theorem witness_branchResults :
    (branchCases.all fun q => meets (.br true q.1 0 0x1fff) (bench [(0, q.2.1)]) 0 fun _ vs _ => decide (wv (valsOf vs) 0 = BitVec.ofNat 32 q.2.1)) = true
    ∧ (branchCases.all fun q => decide (((ran (bench [(0, q.2.1)]) (.br false q.1 0 3)).thread 0).pc = if q.2.2 then 12 else 4)) = true
    ∧ (meets (.br false 8 0 1) (bench []) 0 (fun _ _ _ => true) && meets (.jmp 1) (bench []) 0 (fun _ _ _ => true) && meets (.brx false 0) (bench [(0, 8)]) 0 (fun _ _ _ => true)
      && meets .nop (bench []) 0 (fun _ _ _ => true) && meets .yield (bench []) 0 (fun _ _ _ => true)) = true := by decide +kernel

/-- The test thread with a load pending, and with a move of its window that reaches no absent remote line. -/
def pendingBench (f : Thread → Thread := id) : State :=
  let s := bench [] f
  { s with pend := [{ s.newOp 0 { space := 0, ptr := 0x40, pa := 0x100040, place := 0 } (.load false) 4 0 with dst := .reg 8 1 }] }
def withThread (f : Thread → Thread) (s : State) : State := s.setThread 0 (f (s.thread 0))
/-- A move of the test thread's window to `wb`: it goes (0), fails (1), needs a remote line first (2), or waits for a home (3). -/
def moves (i : Instr) (s : State) (wb : Int) (k : Nat) : Bool :=
  !s.anyPending 0 && match s.moveWindow 0 wb (encode i).toNat with
    | .error c => c.trap && decide (k = 1)
    | .ok _ => if (s.farFill 0 wb).isSome then decide (k = 2) else decide (k = if s.moveRoomy 0 wb then 0 else 3)
/-- The test thread at base `wb` with positions below 32 spilled to VA 0, or to the remote pointer 2^56 (`far`), or with the line of VA 0 held for a mapping (`held`). -/
def fillBench (wb : Nat) (far held : Bool) (l : List (Nat × Nat) := []) (f : Thread → Thread := id) : State :=
  let s := bench l fun x => f { x with wb := wb, rb := 32 }
  let s := ((s.poke 0x10020 8 0).poke 0x10028 8 0xff).poke 0x10030 8 0x4f
  let s := if far then { s with grids := s.grids.put 1 { testGrid with record := testGrid.record.set 23 1 } } else s
  if held then s.setCore 1 { s.core 1 with maps := [(0, { crew := 0, ptr := 0, pas := [0x100000, 0x100080, 0x100100], row := 0, pending := true })] } else s
def callTo (i : Instr) (h : Nat) (k : Nat) (s : State) : Bool := meets i s 0 fun s _ _ => moves i s ((s.thread 0).wb + 8 * h : Nat) k
def retTo (k : Nat) (s : State) : Bool := meets .ret s 0 fun s _ _ =>
  let x := s.thread 0
  !(x.reg 61).psn && !(x.reg 62).psn && !(x.reg 63).psn && moves .ret s ((x.wb : Int) - 8 * ((x.reg 61).val.toNat % 16 : Nat)) k
def wbaseTo (n : Int) (k : Nat) (s : State) : Bool := meets (.wbase (BitVec.ofInt 7 n)) s 0 fun s _ _ => moves (.wbase (BitVec.ofInt 7 n)) s ((s.thread 0).wb + 8 * n) k
theorem witness_callResults :
    (callTo (.call 0 1) 0 0 (bench []) && callTo (.call 15 1) 15 1 (bench [] fun x => { x with wb := 4032, rb := 4032 }) && callTo (.call 0 1) 0 2 (fillBench 0 true false)
      && callTo (.call 0 1) 0 3 (fillBench 0 false true)) = true
    ∧ (callTo (.callx false 0 0) 0 0 (bench [(0, 64)]) && callTo (.callx false 0 15) 15 1 (bench [(0, 64)] fun x => { x with wb := 4032, rb := 4032 })
      && callTo (.callx false 0 0) 0 2 (fillBench 0 true false) && callTo (.callx false 0 0) 0 3 (fillBench 0 false true)) = true
    ∧ (retTo 0 (bench []) && retTo 1 (bench [(61, 1)]) && retTo 2 (fillBench 32 true false [(93, 4)]) && retTo 3 (fillBench 32 false true [(93, 4)])) = true
    ∧ ([61, 62, 63].all (fun n => let s := bench [] fun x => { x with regs := [(n, ⟨0, true⟩)] }
        meets .ret s 0 (fun s _ _ => !s.anyPending 0 && ((s.thread 0).reg n).psn && (List.range 64).all fun j => j < 61 || n ≤ j || !((s.thread 0).reg j).psn))
      && meets .ret (pendingBench fun x => { x with regs := [(62, ⟨0, true⟩)] }) 0 fun s _ _ => s.anyPending 0 && ((s.thread 0).reg 62).psn) = true
    ∧ (wbaseTo 0 0 (bench []) && wbaseTo (-1) 1 (bench []) && wbaseTo (-4) 2 (fillBench 32 true false) && wbaseTo (-4) 3 (fillBench 32 false true)) = true
    ∧ ([Instr.call 0 1, .callx false 0 0, .ret, .wbase 0].all fun i => meets i pendingBench 0 fun s _ _ => s.anyPending 0) = true := by decide +kernel

theorem witness_windowMoves :
    (isQueueTid 0 = false ∧ (-1 : Int) < 0 ∧ (4032 : Int) < 4033) ∧ (isQueueTid Config.coreThreads = true ∧ (192 : Int) < 193 ∧ 192 ≤ 192)
    ∧ (let s := bench [] fun x => { x with wb := 4032, rb := 4032 }
       4032 ≤ 4032 ∧ (s.thread 0).rb ≤ 4032 ∧ 4032 + 64 ≤ (s.thread 0).rb + ((s.gridOf 0).map (·.depth)).getD 64) := by decide +kernel

theorem witness_exitAndTrapResults :
    (let writing (s : State) (t : Nat) : Bool := s.pend.any fun o => o.threads.contains t && !o.op.isLoad && !o.op.isPref
     meets .exit (let s := bench []; { s with pend := [s.newOp 0 { space := 0, ptr := 0x40, pa := 0x100040, place := 0 } .store 4 0] }) 0 (fun s _ _ => writing s 0)
    && meets .exit (queueBench []) Config.coreThreads (fun s _ _ => !writing s Config.coreThreads && isQueueTid Config.coreThreads)
    && meets .exit (bench []) 0 (fun s _ _ => !s.phDropWaits 0 && !writing s 0 && !isQueueTid 0 && ((s.phDropAll 0).tryRelease 3 (coreOf 0) (s.ctxOf 0)).2)
    && (let d : DualOp := { id := 9, crew := 0, lane := 0, seq := 0, op := bench [] |>.newOp 0 { space := 0, ptr := 0x40, pa := 0x100040, place := 0 } .store 4 0, since := 0 }
        meets .exit { bench [] with duals := [d] } 0 (fun s _ _ => !s.phDropWaits 0 && !writing s 0 && !((s.phDropAll 0).tryRelease 3 (coreOf 0) (s.ctxOf 0)).2))
    && meets .exit (pendingBench fun x => { x with phas := [{ key := devPhaser 0x100040, mode := 0, lp := 0, nx := 0 }] }) 0 (fun s _ _ => s.phDropWaits 0)
    && (let ok (s : State) : Bool := decide (s.cur.tids = [0]) && decide ((Instr.trap 127).check s.onQueue = none) && s.canIssue 0
        ok (bench []) && !(bench []).anyPending 0 && !(bench []).aborting 0 && ok pendingBench && pendingBench.anyPending 0)
    && (let goTo (twb k : Nat) (s : State) : Bool := meets .eret (withThread (fun x => { x with trap := { x.trap with inh := true, twb := twb } }) s) 0 fun s _ _ => moves .eret s ((s.thread 0).trap.twb : Nat) k
        goTo 0 0 (bench []) && goTo 4032 1 (bench []) && goTo 0 2 (fillBench 32 true false) && goTo 0 3 (fillBench 32 false true))
    && meets .eret (pendingBench fun x => { x with trap := { inh := true } }) 0 (fun s _ _ => s.anyPending 0)
    && (let s := bench []; decide (s.cur.tids = [0]) && decide (Instr.eret.check s.onQueue = none) && s.canIssue 0 && !(s.thread 0).trap.inh)) = true := by decide +kernel

theorem witness_trapTaking :
    (let deep (s : State) : State := { s with grids := s.grids.put 1 { testGrid with record := List.replicate 34 0 ++ [1, 4] ++ List.replicate 28 0 } }
     let s := deep (bench [] fun x => { x with rb := 0, wb := 0, pc := 8 })
     let handled (s : State) : Bool := decide (s.fateOf 0 = .handler) && decide ((s.thread 0).run ≠ .exited) && !s.aborting 0
     let r := ({ group := 1, code := 9 } : Cause).record s 0 0 1 1 false
     let logged (s : State) : State := (s.logFault (s.ctxOf 0) r).1
     let roomy (s : State) : Bool := (logged s).moveRoomy 0 ((s.thread 0).wb + 64 : Nat)
     let held := fillBench 0 false true [] fun x => { x with rb := 96 }
     handled s && !s.anyPending 0 && roomy s && okOf ((logged s).moveWindow 0 ((s.thread 0).wb + 64 : Nat) r.insn) && handled (deep pendingBench) && (deep pendingBench).anyPending 0
       && handled (bench []) && !(bench []).anyPending 0 && roomy (bench []) && !okOf ((logged (bench [])).moveWindow 0 64 r.insn) && decide ((bench []).crewIdOf 0 = some 0)
       && handled held && !held.anyPending 0 && !roomy held)
    = true
    ∧ (let s : State := { bench [] with contexts := (bench []).contexts.map fun (x : Nat × Context) => (x.1, { x.2 with thnd := 0 }) }
       let c : Cause := { group := 1, code := 9 }
       isQueueTid Config.coreThreads = true ∧ isQueueTid 0 = false ∧ (s.logFault (s.ctxOf 0) (c.record s 0 0 1 2 false)).1.crewIdOf 0 = some 0 ∧ (s.thread 0).trap.inh = false
         ∧ ((s.contexts.look (s.ctxOf 0)).map (·.thnd)).getD 0 = 0
         ∧ (let n := bench [] fun x => { x with trap := { inh := true } }
            let n1 := (n.logFault (n.ctxOf 0) (c.record n 0 0 1 1 true)).1
            (n.thread 0).trap.inh = true ∧ (n1.logFault (n.ctxOf 0) (c.record n1 0 0 1 2 true)).1.crewIdOf 0 = some 0)) := by decide +kernel

theorem witness_selectorResults :
    (meets (.mfs false 0 12) (bench []) 0 (fun _ _ _ => true) && !isQueueTid 0
    && meets (.mts 0 16) (bench []) 0 (fun _ _ _ => true)
    && [(32 : BitVec 11), 43].all (fun k => meets (.mts 0 k) (bench [] fun x => { x with trap := { inh := true } }) 0 (fun _ _ _ => true))
    && [(32 : BitVec 11), 43].all (fun k => let s := bench []
      decide (s.cur.tids = [0]) && decide ((Instr.mts 0 k).check s.onQueue = none) && s.canIssue 0 && laneReady (.mts 0 k) s 0 && (latentRead (.mts 0 k) (s.thread 0)).isEmpty && !(s.thread 0).trap.inh)) = true := by
  decide +kernel

/-! Addresses of the test context: 0x40 in the PLAIN page, 0x10000 in the APPEND page, 0x20000 in the page of registers; 4095 ends the scratchpad allocation; in a handler space 11 names registers. -/

/-- A store of the test thread pending on the last eight bytes of its scratchpad, and on bytes of the PLAIN page. -/
def storePending (s : State) : State :=
  { s with pend := [{ s.newOp 0 { space := 1, ptr := 4088, pa := (testCrew.scratchByte 0 4088), place := 1 } .store 8 0 with id := 1, grp := 1, pkt := 1 },
                    { s.newOp 0 { space := 0, ptr := 0x40, pa := 0x100040, place := 0 } .store 8 0 with id := 2, grp := 2, pkt := 2 }], uid := 3 }
/-- What `Loads` supposes of an instruction, a space and a size, for an address: pending, scratchpad at once, register and refused. -/
def loadMeets (i : Instr) (space size : Nat) (off : Int) (base : Nat) (inh : Bool) (k : Nat) (f : State → State := id) : Bool :=
  meets i (f (bench [(0, base % 2 ^ 32), (1, base / 2 ^ 32)] fun x => { x with trap := { inh := inh } })) 0 fun s vs d =>
    let p := laneAddr space (nv (valsOf vs) 0) off
    let c := s.check 0 space p size size .read
    decide ((s.thread 0).loads < 255) &&
    match k with
    | 0 => onTarget c fun _ g => decide (g.place ≠ 3) && (decide (g.space ≠ 1) || decide (8 < size))
    | 1 => onTarget c fun s1 g => decide (g.place ≠ 3) && decide (g.space = 1) && decide (size ≤ 8)
      && !s1.blocked { s1.newOp 0 g (.load false) size (encode i).toNat with dst := d }
    | 2 => onTarget c fun s1 g => decide (g.place = 3) && !s1.busy 0
    | 4 => onTarget c fun s1 g => decide (g.space = 1) && decide (size ≤ 8) && s1.blocked { s1.newOp 0 g (.load false) size (encode i).toNat with dst := d }
    | _ => refused? c
/-- Window 63 of core 0 open on row 1, for one writer core or for any. -/
def windowOn (sw : Bool) (s : State) : State :=
  s.setCore 0 { s.core 0 with windows := [(63, { v := true, sw := sw, wcore := 1, row := 1, crew := 0 })] }

theorem witness_loadResults :
    ([(0 : BitVec 3), 1, 2, 3, 4, 5].all fun w => loadMeets (.ld false 8 0 w 0 31) 0 (2 ^ w.toNat) (31 * 2 ^ w.toNat) 0 false 0
      && loadMeets (.ld false 8 0 w 1 63) 1 (2 ^ w.toNat) (-1 * 2 ^ w.toNat) 4096 false (if w.toNat ≤ 3 then 1 else 0) && loadMeets (.ld false 8 0 w 1 0) 1 (2 ^ w.toNat) 0 4096 false 3
      && loadMeets (.ld false 8 0 w 2 0) 2 (2 ^ w.toNat) 0 (63 * 128) false 0 (windowOn false) && loadMeets (.ld false 8 0 w 0 0) 0 (2 ^ w.toNat) 0 0x30000 false 3) = true
    ∧ (loadMeets (.ld false 8 0 3 3 0) 3 8 0 (Config.regBase + 0x20010) true 2 && loadMeets (.ld false 8 0 3 3 0) 3 8 0 (Config.regBase + 0x20010) false 3
      && loadMeets (.lds false 8 0 1 0 32) 0 2 (-64) 0x40 false 0 && loadMeets (.lds false 8 0 0 1 0) 1 1 0 4095 false 1 && loadMeets (.lds false 8 0 0 1 0) 1 1 0 4095 false 4 storePending && loadMeets (.lds false 8 0 0 1 0) 1 1 0 4096 false 3
      && loadMeets (.lds false 8 0 1 3 0) 3 2 0 (Config.regBase + 0x20010) true 2) = true := by
  decide +kernel

def storeMeets (w : BitVec 3) (p : BitVec 2) (base : Nat) (inh : Bool) (k : Nat) (f : State → State := id) : Bool :=
  let i : Instr := .st false 8 0 w p 0
  let size := 2 ^ w.toNat
  meets i (f (bench [(0, base % 2 ^ 32), (1, base / 2 ^ 32)] fun x => { x with trap := { inh := inh } })) 0 fun s vs _ =>
    let q := laneAddr p.toNat (nv (valsOf vs) 0) 0
    let c := s.check 0 p.toNat q size size .write
    let free (s1 : State) (g : Target) : Bool := !s1.blocked { s1.newOp 0 g .store size (encode i).toNat with data := leBytes size (nv (valsOf vs) 1) }
    decide ((s.thread 0).stores < 255) &&
    match k with
    | 0 => onTarget c fun _ g => (decide (g.place = 0) || decide (g.place = 2)) && decide (g.space ≠ 1) && decide (g.cls ≠ 1)
    | 1 => onTarget c fun s1 g => decide (g.place = 1) && decide (g.space = 1) && decide (size ≤ 8) && decide (g.cls ≠ 1) && free s1 g
    | 2 => onTarget c fun s1 g => decide (g.place = 3) && !s1.busy 0
    | 3 => onTarget c fun s1 g => decide (g.place ≠ 3) && decide (g.cls = 1) && free s1 g
    | 4 => onTarget c fun s1 g => decide (g.place = 1) && (decide (g.space ≠ 1) || decide (8 < size) || !free s1 g) && decide (g.cls ≠ 1)
    | _ => refused? c

theorem witness_storeResults :
    ([(0 : BitVec 3), 1, 2, 3, 4, 5].all fun w => storeMeets w 0 0xffe0 false 0 && storeMeets w 1 (4096 - 2 ^ w.toNat) false (if w.toNat ≤ 3 then 1 else 4) && storeMeets w 1 4096 false 5
      && storeMeets w 0 0x10000 false 3 && storeMeets w 2 (63 * 128) false 4 (windowOn false) && storeMeets w 2 (63 * 128) false 5 (windowOn true)) = true
    ∧ (storeMeets 3 3 (Config.regBase + 0x20010) true 2 && storeMeets 0 1 4095 false 4 storePending) = true := by decide +kernel

theorem witness_cacheLineResults :
    ([Instr.pref 0, .cinvCore 0, .cinvClu 0, .cinvDie 0, .cinvDev 0, .cinvSys 0].all fun i =>
      meets i (bench [(0, 0xffff)]) 0 (fun s vs _ => onTarget (s.check 0 0 (nv (valsOf vs) 0) 1 1 .read) fun _ g => decide (g.place ≠ 3))
      && meets i (bench [(0, 0x20000)]) 0 (fun s vs _ => onTarget (s.check 0 0 (nv (valsOf vs) 0) 1 1 .read) fun _ g => decide (g.place = 3))
      && meets i (bench [(0, 0x30000)]) 0 (fun s vs _ => refused? (s.check 0 0 (nv (valsOf vs) 0) 1 1 .read))) = true := by decide +kernel

/-- The test thread in an ordered grid (R147). -/
def inOrder (s : State) : State := { s with grids := s.grids.put 1 { testGrid with record := testGrid.record.set 42 1 } }
/-- A write of the test thread that the comparator holds (R298). -/
def unmatchedOf (s : State) : State :=
  { s with duals := [{ id := 9, crew := 0, lane := 0, seq := 0, op := s.newOp 0 { space := 0, ptr := 0x40, pa := 0x100040, place := 0 } .store 4 0, since := 0 }] }
/-- What `Updates` supposes: pending, at once on the scratchpad, a register, held, and refused. -/
def updateMeets (i : Instr) (ret : Bool) (regs scope space op ord base : Nat) (k : Nat) (f : State → State := id) : Bool :=
  meets i (f (bench [(0, base % 2 ^ 32), (1, base / 2 ^ 32)])) 0 fun s vs d =>
    let p := laneAddr space (nv (valsOf vs) 0) 0
    let size := 4 * regs
    let c := s.check 0 space p size size .rmw
    let made (s1 : State) (g : Target) : PendOp :=
      { s1.newOp 0 g (.atomic op ret (decide (2 ≤ ord)) (decide (ord % 2 = 1)) (if space = 3 then 4 else scope)) size (encode i).toNat with
        data := leBytes (if op = 9 then 2 * size else size) (nv (valsOf vs) 1), dst := if ret then resultDest d regs else .none }
    let rs (s1 : State) (_ : Target) : State × Bool := if 2 ≤ ord then s1.tryRelease (if space = 3 then 4 else scope) 0 0 else (s1, true)
    decide ((if ret then (s.thread 0).loads else (s.thread 0).stores) < 255) &&
    match k with
    | 0 => onTarget c fun s1 g => decide (g.place ≠ 3) && decide (g.cls ≠ 1) && (decide (g.space ≠ 1) || !s1.together || !(rs s1 g).2) && (ret || !s1.orderedGrid 0)
    | 1 => onTarget c fun s1 g => decide (g.place ≠ 3) && decide (g.cls ≠ 1) && decide (g.space = 1) && (ret || !s1.orderedGrid 0) && s1.together && (rs s1 g).2
    | 2 => onTarget c fun s1 g => decide (g.place = 3) && !s1.busy 0 && (rs s1 g).2
    | 3 => onTarget c fun s1 g => decide (g.place ≠ 3) && decide (g.cls ≠ 1) && !ret && s1.orderedGrid 0 && (decide (ord < 2) || !s1.busy 0) && (rs s1 g).2
      && match holdLane (rs s1 g).1 0 (made s1 g) op size (leNat (made s1 g).data) with
        | .done _ [] => true
        | _ => false
    | _ => refused? c

theorem witness_atomicResults :
    ([(0 : BitVec 4), 1, 2, 3, 4, 5, 6, 7, 8, 9, 10].all fun o => updateMeets (.atom32 8 0 4 0 o 3) true 1 4 0 o.toNat 3 0xfffc 0
      && updateMeets (.atom64 8 0 0 1 o 1) true 2 0 1 o.toNat 1 4088 1) = true
    ∧ (updateMeets (.atom32 8 0 4 0 0 3) true 1 4 0 0 3 2 4 && updateMeets (.atom64 8 0 4 1 9 3) true 2 4 1 9 3 4096 4 && updateMeets (.red32 8 0 4 0 10 2) false 1 4 0 10 2 0xfffc 0
      && updateMeets (.red64 8 0 3 0 0 0) false 2 3 0 0 0 0xfff8 0 && updateMeets (.red64 8 0 3 0 0 0) false 2 3 0 0 0 0x30000 4 && updateMeets (.red32 8 0 3 1 0 0) false 1 3 1 0 0 4096 4
      && updateMeets (.red32 8 0 3 1 0 0) false 1 3 1 0 0 4092 1 && updateMeets (.atom64 8 0 4 0 0 1) true 2 4 0 0 1 0x20010 2 && updateMeets (.red64 8 0 4 0 0 0) false 2 4 0 0 0 0x20010 2
      && updateMeets (.atom32 8 0 3 2 0 0) true 1 3 2 0 0 (63 * 128) 0 (windowOn false) && updateMeets (.atom64 8 0 0 1 0 3) true 2 0 1 0 3 4088 1
      && updateMeets (.atom64 8 0 0 1 0 0) true 2 0 1 0 0 4080 0 storePending && updateMeets (.atom64 8 0 4 1 0 2) true 2 4 1 0 2 4080 0 unmatchedOf
      && updateMeets (.red64 8 0 4 0 0 2) false 2 4 0 0 2 0x20010 2 && updateMeets (.red32 8 0 3 0 0 2) false 1 3 0 0 2 0xfffc 3 inOrder
      && updateMeets (.red32 8 0 3 0 0 0) false 1 3 0 0 0 0xfffc 3 inOrder && updateMeets (.red64 8 0 3 1 0 0) false 2 3 1 0 0 4088 3 inOrder) = true := by
  decide +kernel

/-- An APPEND of `n` bytes at the page of frame 0x200000, whose home holds `tail` and `shut`; `k`: it fits, it fails, its page reaches beyond its region, its thread has an operation pending. -/
def appendMeets (i : Instr) (n tail : Nat) (shut : Bool) (k : Nat) : Bool :=
  let s0 := bench [(0, 0x10000)]
  let s0 := if k = 2 then s0.poke 0x10008 8 0x10fff else s0
  let s0 := if k = 3 then storePending s0 else s0
  let s0 : State := { s0 with appended := [(0x200000, { size := 65536, leaf := 0x24010, tail := tail, shut := shut })] }
  meets i s0 0 fun s vs _ =>
    let p := nv (valsOf vs) 0
    decide ((s.thread 0).loads < 255) && onTarget (s.check 0 0 p 1 1 .append) fun s1 g =>
      let base := g.pa / g.psize * g.psize
      let f := (s1.touchHome (dieOfWho (whoOf 0) base) base).markOf base g.leaf g.psize
      let sz := 8 * ((n + 7) / 8)
      decide (g.place = 0) && decide (g.cls = 1) && match g.bounds.check (vaOf p - vaOf p % g.psize) g.psize .append with
      | some _ => decide (k = 2)
      | none => !s1.dualOf 0 && !s1.shadowOf 0 && decide (s1.together = decide (k ≠ 3)) && match k with
            | 0 => !f.shut && decide (f.tail + sz ≤ g.psize)
            | 1 => f.shut || decide (g.psize < f.tail + sz)
            | _ => decide (k = 3)

theorem witness_recordAndAppendResults :
    ([Instr.bredF32 0 2, .bredF64 0 2].all fun i => meets i (bench [(0, 0xffc0)]) 0 fun s vs _ => decide ((s.thread 0).stores < 255) &&
      onTarget (s.check 0 0 (nv (valsOf vs) 0) 64 64 .rmw) fun s1 g => decide (g.cls ≠ 1) && decide (g.place ≠ 3) && !s1.orderedGrid 0) = true
    ∧ ([(Instr.bredF32 0 2, false), (.bredF64 0 2, true)].all fun q => meets q.1 (inOrder (bench [(0, 0xffc0)])) 0 fun s vs _ =>
      onTarget (s.check 0 0 (nv (valsOf vs) 0) 64 64 .rmw) fun s1 g =>
        let o : PendOp := { s1.newOp 0 g (.bred q.2) 64 (encode q.1).toNat with data := leBytes (if q.2 then 8 else 4) (nv (valsOf vs) 1) }
        decide (g.cls ≠ 1) && decide (g.place ≠ 3) && s1.orderedGrid 0 && match holdLane s1 0 o (if q.2 then 17 else 16) (if q.2 then 8 else 4) (leNat o.data) with
          | .done _ [] => true
          | _ => false) = true
    ∧ (meets (.binfin 8 0) (bench [(0, 0xffc0)]) 0 fun s vs _ => decide ((s.thread 0).loads < 255) &&
      onTarget (s.check 0 0 (nv (valsOf vs) 0) 40 64 .read) fun _ g => decide (g.place ≠ 3)) = true
    ∧ ([(Instr.appendB32 8 0 16, 4), (.appendB64 8 0 16, 8), (.appendB128 8 0 16, 16), (.appendB256 8 0 16, 32)].all fun x =>
      appendMeets x.1 x.2 (65536 - 8 * ((x.2 + 7) / 8)) false 0 && appendMeets x.1 x.2 65536 false 1 && appendMeets x.1 x.2 0 true 1 && appendMeets x.1 x.2 0 false 2 && appendMeets x.1 x.2 0 false 3) = true
    ∧ (meets (.sealPage 0) (bench [(0, 0x1ffff)]) 0 fun s vs _ => decide ((s.thread 0).stores < 255) &&
      onTarget (s.check 0 0 (nv (valsOf vs) 0) 1 1 .append) fun _ g => decide (g.place = 0) && decide (g.cls = 1)) = true := by decide +kernel

/-- A pending operation of thread 0 on the last word of the PLAIN page. -/
def testOp (op : MemOp) : PendOp :=
  { id := 7, grp := 7, tid := 0, core := 0, ctx := 0, op := op, space := 0, ptr := 0xfffc, pa := 0x10fffc, place := 0, size := 4, data := [1, 2, 3, 4], dst := .reg 8 1,
    pc := 0, insn := 0, pkt := 0 }
/-- What the events of pending operations suppose: the operation alone, with no operation before it; after its release where it has one. -/
def pendMeets (o : PendOp) (straight : Bool := false) : Bool :=
  let s : State := { bench [] with pend := [o] }
  let s := if straight then s.setCore 0 { s.core 0 with maps := [(5, { crew := 0, ptr := 0xff80, pas := [0x10ff80], row := 31, pending := false })] } else s
  let goes (s : State) : Bool := decide (s.fencedOp o = none) && s.reachable o && !s.dualOf 0 && !s.shadowOf 0
  let released : State × Bool := match o.op with
    | .atomic _ _ true _ scope => s.tryRelease scope o.core o.ctx
    | .sealing => s.tryRelease 3 o.core o.ctx
    | _ => (s, true)
  decide (s.findPend o.id = some o) && !s.blocked o && decide (o.err = none) && decide (o.place = 0) && decide (o.space = 0) && released.2 && goes released.1
    && (!decide (o.op = .store) || decide (s.direct o = straight)) && decide (s.opGroup o = [o])
theorem witness_memoryEvents :
    ([MemOp.load false, .load true, .store, .bred false, .bred true, .binfin, .cinv 0, .cinv 1, .cinv 2, .cinv 3, .cinv 4].all fun op => pendMeets (testOp op)) = true
    ∧ pendMeets (testOp .store) true = true
    ∧ ([true, false].all fun ret => [true, false].all fun rel => [true, false].all fun acq => [0, 1, 2, 3, 4].all fun scope => pendMeets (testOp (.atomic 0 ret rel acq scope))) = true
    ∧ (let page (op : MemOp) : PendOp := { testOp op with pa := 0x200000, psize := 65536, leaf := 0x24010, size := 65536 }
       pendMeets (page .sealing) && pendMeets (page .append) && okOf ((bench []).appendAt 0x200000 0x24010 65536 [1, 2, 3, 4]).2) = true := by decide +kernel

/-- A record with EMAX 0 takes 1.0 (2^0, at the top of its range) and 0; the largest count. -/
theorem witness_atomicAndBinValues :
    ((testOp .store).size = 4 ∨ (testOp .store).size = 8) ∧ (0 : Nat) = 0 ∧ (0 : Nat) ≠ 1
    ∧ ((0 : Int) + Nat.log2 1 ≤ signExtend 0 16) ∧ (∀ x ∈ [(0 : Int), 2 ^ 39, 0], -(2 ^ 63) ≤ x ∧ x < 2 ^ 63) ∧ 2 ^ 64 - 2 + 1 < 2 ^ 64
    ∧ bit 0xffff 16 = false ∧ bit 0xffff 17 = false ∧ bit 0xffff 18 = false := by decide +kernel

/-- Core 0 with its last window slot open on row 1, single writer core 1 or any. -/
def windowBench (sw : Bool) : State := windowOn sw (bench [])
theorem witness_accessChecks :
    3 % 2 ≠ 0 ∧ ((bench []).crewOf 0 = some testCrew ∧ 4096 % 1 = 0 ∧ testCrew.alloc < 4096 + 1)
    ∧ (4095 % 1 = 0 ∧ 4095 + 1 ≤ testCrew.alloc ∧ ((bench []).core (coreOf 0)).windows = [])
    ∧ (let p := 63 * 128 + 124
       let w (s : State) := (s.core (coreOf 0 / 4 * 4 + p / 2 ^ 13 % 4)).windows.lookD (p / 2 ^ 7 % 2 ^ 6) {}
       p % 4 = 0 ∧ p < 2 ^ 15 ∧ (w (bench [])).v = false
         ∧ ((w (windowBench true)).v = true ∧ Need.write.writes = true ∧ (w (windowBench true)).sw = true ∧ (w (windowBench true)).wcore ≠ coreOf 0 % 4)
         ∧ ((w (windowBench false)).v = true ∧ Need.read.writes = false ∧ (w (windowBench false)).sw = false ∧ (windowBench false).crews.look (w (windowBench false)).crew = some testCrew))
    ∧ (let g (s : State) := (s.thread 0).trap.inh && ((s.contexts.look (s.ctxOf 0)).map (·.sys)).getD false
       g (bench []) = false ∧ g (bench [] fun x => { x with trap := { inh := true } }) = true ∧ 2 ^ 48 ≤ 2 ^ 48 ∧ reservedPa Config.hbmEnd = true) := by decide +kernel

/-- The test thread with tags of its crew done or pending, the highest tag of its crew among them. -/
def tagBench (mask : Nat) (done : Bool) : State :=
  let s := bench [(0, mask)]
  s.setCrew 0 { testCrew with tags := [(7, { pending := if done then 0 else 1, done := done })] }
def tagMeets (i : Instr) (w : TagWait) (mask : Nat) (done ready : Bool) : Bool :=
  meets i (tagBench mask done) 0 fun s vs _ =>
    !s.readsPending 0 && (s.crewIdOf 0).isSome &&
    match s.crewOf 0 with
    | some c => decide ((c.tagReturn w (nv (valsOf vs) 0)).isSome = ready)
    | none => false
/-- WAITA and WAKE on a word of the PLAIN page, and the fences. -/
def wordMeets (i : Instr) (v : Nat) (equal : Bool) (psn : Bool := false) : Bool :=
  meets i (let s := bench [(0, 0xfffc), (2, v)]; { s with phys := s.phys.mark (0x10fffc / 8) psn }) 0 fun s vs d => onTarget (s.check 0 0 (nv (valsOf vs) 0) 4 4 .read) fun s1 g =>
    let o := s1.newOp 0 g (.load false) 4 (encode i).toNat
    decide (g.place = 0) && decide (g.cls = 0) && inHbm g.pa && !s1.blocked o && !s1.mapPending (lineOf g.pa)
      && (let bs := (s1.writeBackOwn o).homeRead g.pa 4
          decide ((leNat (bs.map (·.1)) = nv (valsOf vs) 1 % 2 ^ 32) = equal) && decide (bs.any (·.2) = psn)
            && decide ((match d with
              | .scratch .. => true
              | _ => false) = decide (64 ≤ dstCode i ∧ dstCode i < 80)))

theorem witness_waitAndFenceResults :
    ([(Instr.twany 8 0, TagWait.any), (.twall 0, .all), (.tffr 8 0, .first)].all fun q =>
      tagMeets q.1 q.2 0x80 true true && tagMeets q.1 q.2 0x80 false false && tagMeets q.1 q.2 0 false true) = true
    ∧ (let c : Crew := { testCrew with tags := [(7, { pending := 1, done := false })] }
       let m (k : Nat) := (List.range c.ntags).filter fun i => bit k i
       let d (k : Nat) := (m k).filter fun i => (c.tags.lookD i {}).done
       (m 0x80 ≠ [] ∧ d 0x80 = []) ∧ d 0x81 ≠ [] ∧ m 0 = [] ∧ d 1 = m 1 ∧ d 0x80 ≠ m 0x80 ∧ d 0x81 = [0])
    ∧ (meets (.waitc 0 31 15 0) (bench [] fun x => { x with stores := 31, copies := 15 }) 0 (fun s _ _ =>
        let x := s.thread 0; decide (x.loads ≤ 0 ∧ x.stores ≤ 31 ∧ x.copies ≤ 15 ∧ x.tiles ≤ 0))
      && meets (.waitc 0 31 15 0) (bench [] fun x => { x with stores := 32 }) 0 (fun s _ _ => let x := s.thread 0; decide (¬ x.stores ≤ 31))) = true
    ∧ (wordMeets (.waita 8 0 2) 1 false && wordMeets (.waita 8 0 2) 0 true && wordMeets (.wake 8 0 2) 0xffffffff false
      && wordMeets (.waita 8 0 2) 1 false true && wordMeets (.waita 64 0 2) 1 false true) = true
    ∧ (meets (.fenceAcq 4) (bench []) 0 (fun s _ _ => !s.readsPending 0)
      && [Instr.fenceRel 4, .fenceAr 4].all fun i => meets i (bench []) 0 fun s _ _ => !s.busy 0 && (s.tryRelease 4 (coreOf 0) (s.ctxOf 0)).2) = true := by decide +kernel

/-- Core phaser 63 of core 0, or the device phaser of the record at VA 0x1000 of the PLAIN page: its key, the operand that names it, and its number in records. -/
def phKey (dev : Bool) : Nat := if dev then devPhaser 0x101000 else corePhaser 0 63
def phName (dev : Bool) : Nat := if dev then 0x1000 else 63
/-- The test thread, a member of that phaser with mode `mode`, LP and NX as given; the phaser at phase 5 with two signallers and waiters, one signal still to come, or two where LP is 5. -/
def phaserBench (dev : Bool) (mode : Nat) (lp nx : Word) (f : State → State := id) : State :=
  let s := bench [(0, phName dev)] fun x => { x with phas := [{ key := phKey dev, mode := mode, lp := lp, nx := nx }] }
  f (s.setPhaser (phKey dev) { phase := 5, nsig := 2, nwait := 2, arr := if lp = 5 then 0 else 1, crew := some 0 })
/-- The instruction comes as far as its phaser: `f` of the state there and of its destination. -/
def comesTo (dev : Bool) (i : Instr) (s : State) (f : State → Dest → Bool) : Bool := meets i s 0 fun s vs d =>
  let p := nv (valsOf vs) 0
  if dev then decide (p % 64 = 0) && onTarget (s.check 0 0 p 64 1 .rmw) fun s1 g =>
    let o := s1.newOp 0 g (.atomic 8 true false false 3) 64 (encode i).toNat
    let r := (s1.writeBackOwn o).homeFetch o 64
    decide (g.place = 0) && decide (g.cls = 0) && !s1.blocked o && !s1.mapPending (lineOf g.pa) && (r.1.drop 16).all (fun b => decide (b.1 = 0)) && decide (devPhaser g.pa = phKey true)
      && f (r.2.dropOwn o) d
  else decide (p % 2 ^ 32 = 63) && decide (corePhaser (s.phaserCore 0) 63 = phKey false) && f s d
/-- Which clause of `PhaserJoins` it meets: the reason of its refusal, or 0. -/
def joinClause (k mode : Nat) (s : State) : Nat :=
  let x := s.thread 0
  let p := s.phaser k
  if x.member k ≠ none then 1
  else if 4 ≤ x.phas.length then 2
  else if 2 < mode then 3
  else if isDevPhaser k = false ∧ ¬ (p.nsig = 0 ∧ p.nwait = 0) ∧ p.crew ≠ s.crewIdOf 0 then 4
  else 0
/-- Which clause of `PhaserActs` it meets: the reason of its refusal, held (1), no release (2), no signal (3), a wait that returns (10) or parks (11), a signal that is not the last (20) or is (30), with a wait too. -/
def actClause (k : Nat) (sig wait : Bool) (s : State) (d : Dest) : Nat :=
  match (s.thread 0).member k with
  | none => 5
  | some m =>
    if sig && decide (m.mode = 2) then 6
    else if wait && decide (m.mode = 1) then 7
    else if (sig && s.busy 0) || (wait && s.readsPending 0) then 1
    else
      let after (s : State) : Nat := if wait then (if (s.phWait 0 k d).isSome then 10 else 11) else 0
      if !sig then after s
      else match s.phRelease 0 k with
        | none => 2
        | some s1 => match s1.phSignal 0 k with
          | none => 3
          | some (s2, all) => (if all then 30 else 20) + after (if all then s2.phAdvance k else s2)
/-- A signal of a checked crew that spans two clusters waits while a write of it is unmatched (R298). -/
def unmatchedCrew (s : State) : State := (unmatchedOf s).setCrew 0 { testCrew with paired := true }

/-- PHREG in each form: it joins, is a member, is a member of four, has a mode past 2, or meets another crew's phaser; PHDROP leaves or is no member. -/
theorem witness_phaserMembership :
    ([false, true].all fun dev =>
      let i : Instr := if dev then .phregDev 8 0 2 else .phreg 8 0 2
      let q : Instr := if dev then .phdropDev 0 else .phdrop 0
      let with' (mode : Nat) (phas : List Member) : State := bench [(0, phName dev), (2, mode)] fun x => { x with phas := phas }
      let m (n : Nat) : Member := { key := n, mode := 0, lp := 0, nx := 0 }
      let joins (k mode : Nat) (s : State) : Bool := comesTo dev i s fun s _ => decide (joinClause (phKey dev) mode s = k)
      joins 0 2 (with' 2 []) && joins 1 2 (with' 2 [m (phKey dev)]) && joins 2 2 (with' 2 [m 0, m 1, m 2, m 3]) && joins 3 3 (with' 3 [])
        && (dev || joins 4 2 ((with' 2 []).setPhaser (phKey dev) { nsig := 1, crew := some 9 }))
        && comesTo dev q (phaserBench dev 0 5 5) (fun s _ => decide ((s.thread 0).member (phKey dev) ≠ none))
        && comesTo dev q (bench [(0, phName dev)]) fun s _ => decide ((s.thread 0).member (phKey dev) = none)) = true := by decide +kernel

/-- PHSIG, PHWT and PHARV in each form, in every clause. -/
theorem witness_phaserActs :
    ([false, true].all fun dev =>
      let sig (k : Nat) (s : State) : Bool := comesTo dev (if dev then .phsigDev 0 else .phsig 0) s fun s _ => decide (actClause (phKey dev) true false s .none = k)
      let wait (k : Nat) (s : State) : Bool := comesTo dev (if dev then .phwtDev 8 0 else .phwt 8 0) s fun s d => decide (actClause (phKey dev) false true s d = k)
      let both (k : Nat) (s : State) : Bool := comesTo dev (if dev then .pharvDev 8 0 else .pharv 8 0) s fun s d => decide (actClause (phKey dev) true true s d = k)
      let storing (s : State) : State := { s with pend := [s.newOp 0 { space := 0, ptr := 0x40, pa := 0x100040, place := 0 } .store 8 0] }
      let reading (s : State) : State := { s with pend := pendingBench.pend.map fun o => { o with dst := .reg 20 1 } }
      sig 5 (bench [(0, phName dev)]) && sig 6 (phaserBench dev 2 4 5) && sig 1 (phaserBench dev 0 4 5 storing) && sig 2 (phaserBench dev 0 4 5 unmatchedCrew)
        && sig 3 (phaserBench dev 0 4 6) && sig 30 (phaserBench dev 0 4 5) && sig 20 (phaserBench dev 1 5 5)
        && wait 5 (bench [(0, phName dev)]) && wait 7 (phaserBench dev 1 4 5) && wait 1 (phaserBench dev 0 4 5 reading) && wait 10 (phaserBench dev 2 4 5) && wait 11 (phaserBench dev 0 5 5)
        && both 5 (bench [(0, phName dev)]) && both 6 (phaserBench dev 2 4 5) && both 7 (phaserBench dev 1 4 5) && both 1 (phaserBench dev 0 4 5 storing)
        && both 2 (phaserBench dev 0 4 5 unmatchedCrew) && both 3 (phaserBench dev 0 4 6) && both 40 (phaserBench dev 0 4 5) && both 31 (phaserBench dev 0 5 5)) = true := by
  decide +kernel

/-- A core phaser of number 64, and a device phaser whose pointer, access, page or record fails, or whose record's line is being mapped. -/
theorem witness_phaserResults :
    ([Instr.phreg 8 0 2, .phdrop 0, .phsig 0, .phwt 8 0, .pharv 8 0].all fun i => meets i (bench [(0, 64)]) 0 fun _ vs _ => decide (63 < nv (valsOf vs) 0 % 2 ^ 32)) = true
    ∧ ([Instr.phregDev 8 0 2, .phdropDev 0, .phsigDev 0, .phwtDev 8 0, .pharvDev 8 0].all fun i =>
      let goTo (p : Nat) (f : State → State × Checked → Bool) (g : State → State := id) : Bool :=
        meets i (g (bench [(0, p)])) 0 fun s vs _ => decide (nv (valsOf vs) 0 % 64 = 0) && f s (s.check 0 0 (nv (valsOf vs) 0) 64 1 .rmw)
      let held (s : State) : State := s.setCore 1 { s.core 1 with maps := [(0, { crew := 0, ptr := 0x1000, pas := [0x101000], row := 0, pending := true })] }
      meets i (bench [(0, 0x1020)]) 0 (fun _ vs _ => decide (nv (valsOf vs) 0 % 64 ≠ 0))
        && goTo 0x30000 (fun _ c => refused? c)
        && goTo 0x1000 (fun _ c => match c with
            | (_, .hostOwned _) => true
            | _ => false) (fun s => s.poke 0x24008 8 0x22)
        && goTo 0x10000 (fun _ c => onTarget c fun _ g => decide (g.place ≠ 0) || decide (g.cls ≠ 0))
        && goTo 0x1000 (fun _ c => onTarget c fun s1 g => decide (g.place = 0) && decide (g.cls = 0) && s1.mapPending (lineOf g.pa)) held
        && goTo 0x1000 (fun _ c => onTarget c fun s1 g =>
            let o := s1.newOp 0 g (.atomic 8 true false false 3) 64 (encode i).toNat
            !s1.blocked o && !s1.mapPending (lineOf g.pa) && (((s1.writeBackOwn o).homeFetch o 64).1.drop 16).any fun b => decide (b.1 ≠ 0)) fun s => s.poke 0x10103f 1 1) = true := by
  decide +kernel

/-- The phaser's waiters where the test thread waits on it. -/
def waitingAt (lp : Word) : State := phaserBench false 0 lp 6 fun s => s.setThread 0 { s.thread 0 with run := .parked (.phaser (phKey false) false true (.reg 8 1)) }
theorem witness_phaserPhases :
    let k := phKey false
    let m (lp nx : Word) : Member := { key := k, mode := 0, lp := lp, nx := nx }
    63 < 64 ∧ (0 : Nat) < 2 ^ 40 ∧ ((phaserBench false 0 4 5).thread 0).member k = some (m 4 5) ∧ (m 4 5).nx = ((phaserBench false 0 4 5).phaser k).phase
      ∧ (m 4 5).lp ≠ ((phaserBench false 0 4 5).phaser k).phase
      ∧ ((phaserBench false 0 5 6).thread 0).member k = some (m 5 6) ∧ (m 5 6).nx ≠ ((phaserBench false 0 5 6).phaser k).phase
      ∧ ((phaserBench false 0 5 6).phaser k).phase = (m 5 6).lp
      ∧ (phaserBench false 0 5 6).flushes = [] ∧ (phaserBench false 0 5 6).phaserWaiters k = []
      ∧ (waitingAt 5).flushes = [] ∧ (waitingAt 5).phaserWaiters k = [0] ∧ isSavedTid 0 = false ∧ ((waitingAt 5).thread 0).run = .parked (.phaser k false true (.reg 8 1))
      ∧ (((waitingAt 5).phAdvanceCount k).phWait 0 k (.reg 8 1)).isSome = true := by decide +kernel

/-- A mapping of the last line of the allocation, pending or complete. -/
def mapBench (pending : Bool) (l : List (Nat × Nat)) (f : Thread → Thread := id) : State :=
  let s := bench l f
  s.setCore 0 { s.core 0 with maps := [(5, { crew := 0, ptr := 0xff80, pas := [0x10ff80], row := 31, pending := pending })] }
theorem witness_windowAndMappingResults :
    (meets (.wopen 8 0 2) (bench [(0, 3968), (2, 7)]) 0 (fun s vs _ =>
        decide (s.crewOf 0 = some testCrew) && decide (s.crewIdOf 0 = some 0) && decide (nv (valsOf vs) 0 < testCrew.alloc) && decide (testCrew.alloc < 2 ^ 32) && decide (nv (valsOf vs) 0 % 128 = 0)
          && decide (nv (valsOf vs) 1 < 8) && decide ((List.range 64).find? (fun n => !((s.core 0).windows.lookD n {}).v) = some 0))
    && meets (.wopen 8 0 2) ((bench [(0, 3968), (2, 7)]).setCore 0 { windows := (List.range 64).map fun n => (n, { v := true }) }) 0 (fun s _ _ =>
        (List.range 64).all fun n => ((s.core 0).windows.lookD n {}).v)
    && meets (.wshut 0) (let s := bench [(0, 63 * 128)]; s.setCore 0 { s.core 0 with windows := [(63, { v := true, crew := 0 })] }) 0 (fun s vs _ =>
        let w := (s.core (coreOf 0)).windows.lookD 63 {}
        decide (nv (valsOf vs) 0 = coreOf 0 % 4 * 2 ^ 13 + 63 * 2 ^ 7) && w.v && decide (s.crewIdOf 0 = some w.crew))
    && meets (.spmap 8 0 2) (bench [(0, 0xff80), (2, 31)]) 0 (fun s vs _ =>
        let p := nv (valsOf vs) 0
        let f := nv (valsOf vs) 1
        let n := f / 2 ^ 16 + 1
        let e := s.boundsOf 0x10000 (regionOf p)
        decide (s.crewOf 0 = some testCrew) && (s.contexts.look (s.ctxOf 0)).isSome && !s.busy 0 && decide (p % 128 = 0) && decide (f < 2 ^ 25) && decide (bits f 15 13 = 0)
          && decide ((f % 2 ^ 13 + n) * 128 ≤ testCrew.alloc) && bit e.ctl 0 && decide (e.base ≤ vaOf p) && e.permits .readWrite && decide (vaOf p + 128 * n - 1 ≤ e.limit)
          && !bit e.ctl 6 && (match s.mapLines 0 p p n with
            | (s1, .ok _) => decide ((List.range 64).find? (fun j => ((s1.core (coreOf 0)).maps.look j).isNone) = some 0)
            | _ => false))
    && meets (.spunmap 0) (mapBench false [(0, 5)]) 0 (fun s vs _ =>
        decide (nv (valsOf vs) 0 = 5) && !s.busy 0 && ((s.core (coreOf 0)).maps.look 5).any fun m => decide (s.crewIdOf 0 = some m.crew))
    && (let s := mapBench true []; ((s.core 0).maps.look 5).any fun m => m.pending && (s.crews.look m.crew).isSome)
    && (let s := mapBench false [] fun x => { x with run := .parked (.spunmap 5) }
        s.threads.any fun y => decide (y.2.run = .parked (.spunmap 5)) && decide (coreOf y.1 = 0) && !isQueueTid y.1)) = true := by decide +kernel

/-! Engine commands: structures in the PLAIN page, at VA 0x1000 (command) and 0x2000, 0x3000 (descriptors). -/

/-- The lines at VA 0x1000, 0x1080, 0x2000 and 0x3000, mapped by crew 0 to the first rows of its allocation. -/
def testMap : SpMapping := { crew := 0, ptr := 0x1000, pas := [0x101000, 0x101080, 0x102000, 0x103000], row := 0, pending := false }
/-- The test thread with v0 at a structure in the mapped lines, whose fields are given as VA, length and value. -/
def structBench (p : Nat) (l : List (Nat × Nat × Nat)) (f : State → State := id) : State :=
  let s := bench [(0, p)]
  let at' (va : Nat) : Nat := va % 256 + (if va < 0x2000 then 0 else if va < 0x3000 then 256 else 384)
  let s := s.setCore 0 { s.core 0 with maps := [(0, testMap)] }
  f { s with scratch := l.foldl (fun (m : PMem) (c : Nat × Nat × Nat) => m.write 4 (at' c.1) (leBytes c.2.1 c.2.2) false) s.scratch }
/-- The bytes of a structure and the state after its read. -/
def structOf (s : State) (p n : Nat) (i : Instr) (f : State → List Byte → Bool → Bool → Bool) : Bool :=
  match s.readStruct 0 p n (encode i).toNat with
  | .ok s1 b psn w => f s1 b psn w
  | .out _ => false
/-- A record of core 0 for crew 0: number, format and rows, with the block and source fields of the format. -/
def testRec (num fmt blk base rows : Nat) : TileRec := { fmt := fmt, blk := blk, sc := 0, soff := 0, xrow := 0, align := 0, base := base, rows := rows, crew := 0, num := num }
def withRecs (l : FMap TileRec) (s : State) : State := s.setCore 0 { s.core 0 with recs := l }
/-- Crew 0 holds the banks of core 0, of which bank 0 is current. -/
def withBanks (s : State) : State := (s.setCore 0 { s.core 0 with bankCrew := some 0, bankCtx := some 0 }).setCrew 0 { testCrew with holdsBanks := [0] }
def withOps (n : Nat) (k : EngKind) (f : EngOp → EngOp := id) (s : State) : State :=
  { s with ops := List.replicate n (f { s.newEng 0 k 0 0 0 [] with ptr := 0 }) }

theorem witness_engineQueuesAndRefusals :
    ([Instr.bload 82 0 0, .copy 83 0 0, .gath 84 0 0, .scat 85 0 0].all fun i =>
      meets i (structBench 1 [] (withThread fun x => { x with copies := 255 })) 0 (fun s _ _ => s.copyFull 0 0)
      && meets i (structBench 0xffff [] (withThread fun x => { x with copies := 254 })) 0 (fun s vs _ => !s.copyFull 0 (copyQueue 82) && decide (nv (valsOf vs) 0 % 32 ≠ 0))) = true
    ∧ (meets (.mxop 0 0 true) (structBench 0 [] (withThread fun x => { x with tiles := 255 })) 0 (fun s _ _ => decide (255 ≤ (s.thread 0).tiles))
      && meets (.mxop 0 0 true) (structBench 32 []) 0 (fun s vs _ => decide ((s.mxSlots 0).length < 16) && decide ((s.thread 0).tiles < 255) && decide (nv (valsOf vs) 0 % 64 ≠ 0))
      && meets (.trace 0 0 true) (structBench 0 [] (withOps 2048 .trace)) 0 (fun s _ _ => decide (2048 ≤ s.raysOn 0))
      && meets (.trace 0 0 true) (structBench 128 []) 0 (fun s vs _ => decide (s.raysOn 0 < 2048) && decide (nv (valsOf vs) 0 % 256 ≠ 0))
      && meets (.march 0 0) (structBench 0 [] (withOps 8 .march)) 0 (fun s _ _ => decide (8 ≤ (s.ops.filter fun o => o.core = 0 && o.kind = .march).length))
      && meets (.march 0 0) (structBench 1 [] (withOps 7 .march)) 0 (fun s vs _ =>
        decide ((s.ops.filter fun o => o.core = 0 && o.kind = .march).length < 8) && decide ((s.thread 0).tiles < 255) && decide (nv (valsOf vs) 0 % 64 ≠ 0))
      && meets (.tres 8 0 false) (structBench 8 []) 0 (fun _ vs _ => decide (nv (valsOf vs) 0 % 16 ≠ 0))) = true
    ∧ (∀ x ∈ [((98 : Nat), noField), (3, 0)], x.1 < 99 ∧ x.2 ≤ noField) := by decide +kernel

/-- A request for rows of FMT 0 at a multiple of 4096. -/
def tresMeets (f : Bool) (rows : Nat) (l : FMap TileRec) (k : Nat) : Bool :=
  let i : Instr := .tres 8 0 f
  meets i (structBench 0x1000 [(0x1000, 2, rows), (0x1009, 1, 12)] (withRecs l)) 0 fun s vs _ =>
    decide (nv (valsOf vs) 0 % 16 = 0) && structOf s (nv (valsOf vs) 0) 16 i fun s1 b psn _ =>
      let offs := s1.commandOffences 0 none psn ++ tresOffences b
      decide (s1.crewIdOf 0 = some 0) && match k with
      | 0 => offs.isEmpty && (s1.tryTres 0 0 (s1.ctxOf 0) b).isSome
      | 1 => offs.isEmpty && (s1.tryTres 0 0 (s1.ctxOf 0) b).isNone
      | _ => (refusal 4 0x1000 offs).isSome

theorem witness_tileReservationResults :
    (tresMeets false 1 [] 0 && tresMeets true 1 [(0, testRec 5 0 0 0 4096)] 0 && tresMeets false 4097 [(0, testRec 5 0 0 0 4096)] 1 && tresMeets true 4097 [(0, testRec 5 0 0 0 4096)] 1
      && tresMeets false 0 [] 2 && tresMeets true 8193 [] 2) = true
    ∧ (meets (.trel 0) (structBench 5 []) 0 (fun s vs _ => (s.resOf 0 0 (nv (valsOf vs) 0 % 2 ^ 32)).isNone)
      && meets (.trel 0) (structBench 5 [] (withRecs [(0, testRec 5 0 0 0 1)])) 0 (fun s vs _ =>
        (s.resOf 0 0 (nv (valsOf vs) 0 % 2 ^ 32)).isSome && !s.busy 0 && !s.resBusy 0 0 5)
      && meets (.trel 0) (structBench 5 [] fun s => withOps 1 .march (fun o => { o with cmd := List.replicate 34 0 ++ [5] }) (withRecs [(0, testRec 5 0 0 0 1)] s)) 0 (fun s vs _ =>
        (s.resOf 0 0 (nv (valsOf vs) 0 % 2 ^ 32)).isSome && !s.busy 0 && s.resBusy 0 0 5)) = true
    ∧ (let b := leBytes 16 (1 + 12 * 2 ^ 72)
       let s := withThread (fun x => { x with run := .parked (.tres b (.reg 8 1)) }) (bench [])
       let s := s.setCore 0 { s.core 0 with tresQ := [0] }
       (s.core 0).tresQ = [0] ∧ coreOf 0 = 0 ∧ (s.crewOf 0).all (fun c => c.run = .running) = true ∧ (s.thread 0).run = .parked (.tres b (.reg 8 1))
         ∧ s.crewIdOf 0 = some 0 ∧ (s.tryTres 0 0 (s.ctxOf 0) b).isSome = true)
    ∧ (let s := fun rows => (withRecs [(0, testRec 5 0 0 0 8192)] (bench [])).setThread 0 { (bench []).thread 0 with run := .parked (.tres (leBytes 16 rows) (.reg 8 1)) }
       let line : State := (s 1).setCore 0 { (s 1).core 0 with tresQ := [0, 1, 2] }
       (line.core 0).tresQ = [0, 1, 2] ∧ (line.crewOf 0).all (fun c => c.run = .running) = true ∧ (line.thread 0).run = .parked (.tres (leBytes 16 1) (.reg 8 1))
         ∧ (line.tryTres 0 0 (line.ctxOf 0) (leBytes 16 1)).isNone = true ∧ ((bench []).core 0).tresQ = [])
    ∧ (let s := withRecs [(0, testRec 5 0 0 0 4096)] (bench [])
       FMap.rising (s.core 0).recs = true ∧ s.crews.look 0 = some testCrew ∧ testCrew.cores.contains 0 = true ∧ (s.tryTres 0 0 0 (leBytes 16 (1 + 12 * 2 ^ 72))).isSome = true)
    ∧ (let s := withThread (fun x => { x with run := .parked (.trel 5) }) (bench [])
       (s.thread 0).run = .parked (.trel 5) ∧ s.crewIdOf 0 = some 0 ∧ s.resBusy (coreOf 0) 0 5 = false ∧ isSavedTid 0 = false) := by decide +kernel

/-- An integer operation of one row, one column and K = 4: A is record 5, the output record 6. -/
def mxCells : List (Nat × Nat × Nat) := [(0x1000, 1, 1), (0x1004, 1, 1), (0x1005, 1, 1), (0x1006, 1, 4), (0x1008, 2, 5), (0x100c, 2, 6)]
def mxRecs : FMap TileRec := [(0, testRec 5 0 0 0 1), (1, testRec 6 9 0 1 1)]
def mxMeets (l : List (Nat × Nat × Nat)) (f : State → State) (k : Nat) : Bool :=
  let i : Instr := .mxop 0 7 true
  meets i (structBench 0x1000 (mxCells ++ l) f) 0 fun s vs _ =>
    let p := nv (valsOf vs) 0
    decide ((s.mxSlots 0).length < 16) && decide ((s.thread 0).tiles < 255) && decide (p % 64 = 0) && structOf s p 64 i fun s1 b psn _ =>
      let offs := s1.commandOffences 0 (some 7) psn ++ s1.mxOffences 0 0 b
      decide (s1.crewIdOf 0 = some 0) && match k with
      | 0 => offs.isEmpty && s1.holdsBanks 0 (some 0) && decide (s1.pbank 0 (some 0) = (parseMx b).bank)
      | 1 => offs.isEmpty && s1.holdsBanks 0 (some 0) && decide (s1.pbank 0 (some 0) ≠ (parseMx b).bank)
      | 2 => offs.isEmpty && !s1.holdsBanks 0 (some 0)
      | _ => (refusal 4 p offs).isSome

theorem witness_matrixIssueResults :
    (mxMeets [] (fun s => withRecs mxRecs (withBanks s)) 0 && mxMeets [(0x1010, 1, 1)] (fun s => withRecs mxRecs (withBanks s)) 1 && mxMeets [] (withRecs mxRecs) 2
      && mxMeets [(0x1003, 1, 5)] (fun s => withRecs mxRecs (withBanks s)) 3) = true
    ∧ (meets .mxswap (bench []) 0 (fun s _ _ => decide ((s.mxSlots 0).length < 16) && !s.busy 0 && !s.holdsBanks 0 (s.crewIdOf 0))
      && meets .mxswap (withBanks (bench [])) 0 (fun s _ _ => decide ((s.mxSlots 0).length < 16) && !s.busy 0 && s.holdsBanks 0 (s.crewIdOf 0))) = true := by decide +kernel

/-- A copy of 4 bytes from VA 0x4000 to VA 0x8000, and one into bank 0; `l` overwrites fields. -/
def copyMeets (i : Instr) (bload : Bool) (l : List (Nat × Nat × Nat)) (f : State → State) (k : Nat) : Bool :=
  let cells := if bload then [(0x1000, 8, 0x4000), (0x1010, 4, 4), (0x1014, 4, 0x6000)] else [(0x1000, 8, 0x4000), (0x1008, 8, 0x8000), (0x1010, 4, 4)]
  meets i (structBench 0x1000 (cells ++ l) f) 0 fun s vs _ =>
    let p := nv (valsOf vs) 0
    decide (p % 32 = 0) && !s.copyFull 0 (copyQueue 82) && structOf s p 32 i fun s1 b psn _ =>
      let offs := s1.commandOffences 0 (some 0) psn ++ s1.copyOffences 0 0 (s1.ctxOf 0) bload b
      decide (s1.crewIdOf 0 = some 0) && match k with
      | 0 => offs.isEmpty && (!bload || (match s1.takeBanks 0 0 with
        | .taken _ => true
        | .wait | .misuse => false))
      | 1 => offs.isEmpty && (match s1.takeBanks 0 0 with
        | .misuse => true
        | .taken _ | .wait => false)
      | 3 => offs.isEmpty && (match s1.takeBanks 0 0 with
        | .wait => true
        | .taken _ | .misuse => false)
      | _ => (refusal 5 p offs).isSome
/-- A gather or scatter of one row of 4 bytes. -/
def tableMeets (i : Instr) (gath : Bool) (nrow : Nat) (good : Bool) : Bool :=
  meets i (structBench 0x1000 [(0x1000, 8, 0x2000), (0x1008, 8, 0x3000), (0x1010, 8, 0x4000), (0x2000, 8, 0x5000), (0x2008, 4, 1), (0x200c, 4, nrow)]) 0 fun s vs _ =>
    let p := nv (valsOf vs) 0
    !s.copyFull 0 (copyQueue 82) && structOf s p 32 i fun s1 b psn _ => decide (s1.crewIdOf 0 = some 0) && decide (fld b 0 8 % 32 = 0) &&
      structOf s1 (fld b 0 8) 32 i fun s2 e psn' w' =>
        let offs := s1.commandOffences 0 (some 0) psn ++ offends psn' 5 noField ++ s2.tableOffences 0 0 (s2.ctxOf 0) gath b e w'
        if good then offs.isEmpty else (refusal 5 p offs).isSome

theorem witness_copyIssueResults :
    (copyMeets (.copy 82 0 0) false [] id 0 && copyMeets (.copy 82 0 0) false [(0x1010, 4, 6)] id 2 && copyMeets (.bload 82 0 0) true [] id 0
      && copyMeets (.bload 82 0 0) true [] withBanks 0 && copyMeets (.bload 82 0 0) true [(0x100e, 1, 1)] id 2
      && copyMeets (.bload 82 0 0) true [] (fun s => (s.setCore 0 { s.core 0 with bankCrew := some 1 }).setCrew 1 { testCrew with holdsBanks := [0] }) 1
      && copyMeets (.bload 82 0 0) true [] (fun s => s.setCore 0 { s.core 0 with bankCrew := some 1, bankTaker := some 1 }) 3) = true
    ∧ (tableMeets (.gath 82 0 0) true 4 true && tableMeets (.scat 82 0 0) false 4 true && tableMeets (.gath 82 0 0) true 2 false && tableMeets (.scat 82 0 0) false 0 false) = true
    ∧ (let s := bench []; s.overlapped (s.newEng 0 (.copy false) 0 0 0 []) = none ∧ (s.core 0).mxc = []) := by decide +kernel

def rayMeets (ctl : Nat) (good : Bool) : Bool :=
  let i : Instr := .trace 0 7 true
  meets i (structBench 0x1000 [(0x1028, 4, ctl)]) 0 fun s vs _ =>
    let p := nv (valsOf vs) 0
    decide (s.raysOn 0 < 2048) && decide (p % 256 = 0) && structOf s p 256 i fun s1 b psn w =>
      let offs := s1.commandOffences 0 (some 7) psn ++ rayOffences b w
      if good then offs.isEmpty else (refusal 6 p offs).isSome
/-- A ray of the test thread at 0x1000, suspended on a candidate of a kind; its record at 0x1040 holds t. -/
def tdecMeets (i : Instr) (kind t p : Nat) (f : State → EngOp → List Byte → Bool) : Bool :=
  let s := structBench p [(0x1040, 4, t)] fun s => { s with ops := [{ s.newEng 0 .trace 0 0x1000 0 [] with ray := { cand := some (kind, { t := 0, leaf := 0 }) } }] }
  meets i s 0 fun s vs _ =>
    let p := nv (valsOf vs) 0
    !s.busy 0 && decide (p % 64 = 0) && match s.suspendedRay 0 p with
    | some o => structOf s p 4 i fun s b psn _ => !psn && f s o b
    | none => false
def inRange (o : EngOp) (b : List Byte) : Bool :=
  let tb := fld b 0 4
  !f32.isNaN tb && decide (key32 (rayOf o.cmd).tmin ≤ key32 tb) && decide (key32 tb ≤ key32 o.ray.tmax)
/-- A march of one ray and one level: the command, the two descriptors and record 5. -/
def marchCells : List (Nat × Nat × Nat) :=
  [(0x1000, 8, 0x4000), (0x1008, 8, 0x2000), (0x1010, 8, 0x3000), (0x101c, 4, 0x3f800000), (0x1020, 2, 1), (0x1022, 1, 5), (0x1023, 1, 1),
   (0x2014, 4, 0x3f800000), (0x2018, 1, 1), (0x2019, 1, 1), (0x3014, 4, 0x3f800000), (0x3018, 1, 10), (0x3020, 2, 1)]
def marchMeets (n : Nat) (good : Bool) : Bool :=
  let i : Instr := .march 0 7
  meets i (structBench 0x1000 ((0x1018, 4, n) :: marchCells) (withRecs [(0, testRec 5 7 4 0 2)])) 0 fun s vs _ =>
    let p := nv (valsOf vs) 0
    decide ((s.thread 0).tiles < 255) && decide (p % 64 = 0) && structOf s p 64 i fun s1 b psn _ =>
      let c := parseMarch b
      decide (s1.crewIdOf 0 = some 0) && decide (c.occ % 64 = 0) && decide (c.grid % 64 = 0) && structOf s1 c.occ 64 i fun s2 e psn1 w1 =>
        structOf s2 c.grid 64 i fun s3 g psn2 w2 =>
          let offs := s1.commandOffences 0 (some 7) psn ++ offends (psn1 || psn2) 5 noField ++ s3.marchOffences 0 0 b ++ occOffences e
            ++ gridOffences c.levels g ++ offends w1 8 8 ++ offends w2 8 16
          if good then offs.isEmpty else (refusal 7 p offs).isSome
/-- An open stream of the test thread over one pixel at VA 0x8000, with vertices 0 to 2 set. -/
def testStream : Stream :=
  { tid := 0, crew := 0, core := 0, ctx := 0, recPtr := 0x1000, pc := 0, insn := 0,
    recBytes := leBytes 8 0x8000 ++ leBytes 4 1 ++ leBytes 4 1 ++ leBytes 4 4 ++ leBytes 4 4096 ++ leBytes 4 1 ++ List.replicate 36 0,
    verts := [(0, (0, 0)), (1, (256, 0)), (2, (0, 256))] }
/-- An EMIT of the record `l` with `st` open and `n` records in prm: an OPEN accepted, another record accepted, refused by its record, an OPEN whose structure is not aligned, one that is refused once its structure is read, a full queue or (`f`) a thread with operations pending. -/
def emitMeets (l : List (Nat × Nat)) (st : Option Stream) (k : Nat) (n : Nat := 0) (out : List (Nat × Nat × Nat) := []) (f : State → State := id) : Bool :=
  let i : Instr := .emit 0 true
  let s := structBench 0 ([(0x1008, 4, 1), (0x100c, 4, 1), (0x1010, 4, 4), (0x1014, 4, 1), (0x1018, 4, 1)] ++ out) (withOps n .emit fun o => { o with flag := st.isNone })
  let s : State := { withThread (fun x => { x with regs := l.map fun (r : Nat × Nat) => (r.1, ⟨BitVec.ofNat 32 r.2, false⟩) }) s with
    streams := (st.map fun y => ((0 : Nat), y)).toList }
  meets i (f s) 0 fun s vs _ =>
    let b := leBytes 16 (nv (valsOf vs) 0)
    let offs := emitOffences b (s.emitOpen 0)
    let aligned := decide (fld b 0 1 = 0) && decide (fld b 4 8 % 64 = 0)
    let more (e : List Byte) (psn w : Bool) : List Offence := offs ++ outOffences e ++ offends psn 5 noField ++ offends w 8 4
    decide ((64 ≤ s.prmCount 0 ∨ s.busy 0 = true) ↔ k = 5) && match k with
    | 0 => aligned && structOf s (fld b 4 8) 64 i fun _ e psn w => (more e psn w).isEmpty
    | 1 => decide (fld b 0 1 ≠ 0) && offs.isEmpty
    | 2 => decide (fld b 0 1 ≠ 0) && (refusal 7 0 offs).isSome
    | 3 => decide (fld b 0 1 = 0) && decide (fld b 4 8 % 64 ≠ 0)
    | 4 => aligned && structOf s (fld b 4 8) 64 i fun _ e psn w => (refusal 7 0 (more e psn w)).isSome
    | _ => true

theorem witness_rayAndStreamIssueResults :
    (rayMeets 0x4f true && rayMeets 0x80 false && rayMeets 0x50 false) = true
    ∧ ([(Instr.tdecCont 0, false), (.tdecAcc 0, true), (.tdecTerm 0, true)].all fun q =>
      tdecMeets q.1 1 0 0x1040 (fun _ _ _ => true) && (!q.2 || tdecMeets q.1 2 0 0x1040 (fun _ o b => inRange o b)) && (!q.2 || tdecMeets q.1 2 0x3f800000 0x1040 fun _ o b => !inRange o b)
      && meets q.1 (bench [(0, 0x1020)]) 0 (fun s vs _ => !s.busy 0 && decide (nv (valsOf vs) 0 % 64 ≠ 0))
      && meets q.1 (bench [(0, 0x1040)]) 0 (fun s vs _ => !s.busy 0 && decide (nv (valsOf vs) 0 % 64 = 0) && (s.suspendedRay 0 (nv (valsOf vs) 0)).isNone)) = true
    ∧ (marchMeets 1024 true && marchMeets 0 false) = true
    ∧ (emitMeets [(0, 0), (1, 0x1000)] none 0 63 && emitMeets [(0, 1)] none 2 && emitMeets [(0, 6)] none 2 && emitMeets [(0, 1), (1, 5)] (some testStream) 1
      && emitMeets [(0, 2), (1, 0x10000), (2, 2)] (some testStream) 1 63 && emitMeets [(0, 0), (1, 0x1000)] (some testStream) 4 && emitMeets [(0, 0), (1, 0x1020)] none 3
      && emitMeets [(0, 0), (1, 0x1000)] none 4 0 [(0x1008, 4, 0)] && emitMeets [(0, 0), (1, 0x1000)] none 5 64
      && emitMeets [(0, 1), (1, 5)] (some testStream) 5 0 [] storePending) = true := by decide +kernel

/-- Queue program 0 bound to core 0 by its slot-table entry, with v0 and v1 as given. -/
def launchBench (l : List (Nat × Nat)) (waves : Nat) (launches : Nat) : State :=
  let s := queueBench l
  let s := ((s.poke 0x101022 1 waves).poke 0x101023 1 2).setQueue 0 { s.queue 0 with launches := launches }
  { s with slots := [(0, 1), (26, 64), (27, 1)] }
def launchMeets (waves : Nat) (good : Bool) : Bool :=
  let t := Config.coreThreads
  let i : Instr := .launch 8 0
  meets i (launchBench [(0, 0x1000)] waves 0) t fun s vs _ =>
    !s.launchStalled (queueOf t) && !s.busy t && onTarget (s.check t 0 (nv (valsOf vs) 0) 64 64 .read) fun s1 g =>
      let o := s1.issueRead t g 64 (encode i).toNat
      let r := s1.readOp o
      decide (g.place ≠ 3) && decide (g.place ≠ 2) && s1.reachable o && decide ((launchCause (firstPoisoned r.1) (r.2.launchOffences (queueOf t) (r.1.map (·.1)))).isNone = good)
def gwaitMeets (h : Nat) (mine live : Bool) : Bool :=
  let t := Config.coreThreads
  meets (.gwait 0) { launchBench [(0, h)] 1 1 with grids := if live then [(h, testGrid)] else [] } t fun s vs _ =>
    let h := nv (valsOf vs) 0 % 2 ^ 32
    decide (decide (h / 2 ^ 26 = queueOf t ∧ h % 2 ^ 26 ≠ 0 ∧ h % 2 ^ 26 ≤ (s.queue (queueOf t)).launches) = mine) && !s.readsPending t && decide ((s.grids.look h).isSome = live)

/-- A LAUNCH whose record lies in another place: in device registers, in a remote region whose line the L1 holds, or behind a full line. -/
def launchElse (k : Nat) : Bool :=
  let t := Config.coreThreads
  let p := if k = 3 then 0x20000 else 2 ^ 56
  let s := launchBench [(0, p % 2 ^ 32), (1, p / 2 ^ 32)] 1 0
  let s := ((s.poke 0x10020 8 0).poke 0x10028 8 0xff).poke 0x10030 8 0x4f
  let s : State := { s with l1 := (List.range 64).foldl (fun m i => m.put (l1Key (coreOf t) 0 (remoteAddr p + i)) ⟨0, false, false⟩) s.l1 }
  meets (.launch 8 0) s t fun s vs _ => !s.launchStalled 0 && !s.busy t && onTarget (s.check t 0 (nv (valsOf vs) 0) 64 64 .read) fun s1 g =>
    let o := s1.issueRead t g 64 (encode (.launch 8 0)).toNat
    decide (g.place = k) && (k = 3 || s1.l1Has o.core o.ctx o.pa 64)

theorem witness_queueProgramResults :
    (launchElse 2 && launchElse 3 && meets (.launch 8 0) (let s := launchBench [(0, 0x1000)] 1 0
      { s with pend := [s.newOp Config.coreThreads { space := 0, ptr := 0x40, pa := 0x100040, place := 0 } .store 4 0] }) Config.coreThreads (fun s _ _ => s.busy Config.coreThreads)
      && (let s := launchBench [(0, 0x1000)] 1 0
      meets (.launch 8 0) (s.setQcore 0 { s.qcore 0 with lch := List.replicate 16 1 }) Config.coreThreads fun s _ _ => s.launchStalled 0)) = true
    ∧ (launchMeets 1 true && launchMeets 32 true && launchMeets 33 false && launchMeets 0 false) = true
    ∧ (gwaitMeets 1 true true && gwaitMeets 1 true false && gwaitMeets 0 false false && gwaitMeets 2 false false && gwaitMeets (2 ^ 26 + 1) false false) = true
    ∧ (meets (.qsig 0) (queueBench [(0, 5)]) Config.coreThreads fun s _ _ => !s.busy Config.coreThreads &&
      (s.tryRelease 4 (coreOf Config.coreThreads) (s.ctxOf Config.coreThreads)).2) = true
    ∧ ((bench []).hostUp = false ∧ ({ launchBench [] 1 0 with bootStep := 6 } : State).hostUp = true ∧ (4 : Dword).getLsbD 0 = false ∧ (5 : Dword).getLsbD 0 = true)
    ∧ (let s := (launchBench [] 1 0).setQueue 0 {}
       (s.queue 0).run = false ∧ s.gridsOf 0 = 0 ∧ (s.slot 0).valid = true)
    ∧ (((queueBench []).queue 0).run = true ∧ (State.reset.slot 63).valid = false)
    ∧ (let s : State := { (bench []).setQcore 7 { lch := [1] } with grids := [(1, testGrid)] }; (s.qcore 7).lch = [1] ∧ s.grids.look 1 = some testGrid ∧ testGrid.aborted = false)
    ∧ (let s := queueBench []
       let s1 := s.setQcore 0 { s.qcore 0 with cyc := (s.qcore 0).cyc + 1 }
       s.picks.any (fun p => p.tids.any fun t => isQueueTid t && queueOf t / 8 = 0) = false ∧
       ((List.range 8).map fun j => ((s.qcore 0).last + 1 + j) % 8).find? (fun j => s1.programReady (8 * 0 + j)) = some 0) := by decide +kernel

/-! Events. -/

/-- A matrix operation on records 5 and 6 of core 0, at a stage, of a lane. -/
def testMx (op tid stage : Nat) (swap : Bool) : MxCmd :=
  { op := op, swap := swap, tid := tid, crew := 0, ctx := 0, pb := [1, 0, 0, 0, 1, 1, 4, 0, 5, 0, 0, 0, 6] ++ List.replicate 51 0, tag := 0, stat := false, seq := 1,
    pc := 0, insn := 0, stage := stage }
def mxBench (l : List MxCmd) : State :=
  let s := withRecs mxRecs (withBanks (bench []))
  s.setCore 0 { s.core 0 with mxc := l }

theorem witness_matrixEvents :
    (let s := mxBench [testMx 7 0 0 false, testMx 8 32 0 false]; (arbitrate ((s.core 0).mxc.filter (s.eligible 0))).isSome = true)
    ∧ (let c := (mxBench [testMx 7 32 1 false, testMx 8 0 0 true]).core 0
       c.mxc.find? (·.swap) = some (testMx 8 0 0 true) ∧ isHead c.mxc (testMx 8 0 0 true) = true ∧ (mxBefore c.mxc (testMx 8 0 0 true)).all (fun x => x.stage ≠ 0) = true
         ∧ c.bankCrew = some 0)
    ∧ (let m := testMx 9 0 1 false
       let s := mxBench [testMx 7 32 2 false, testMx 8 32 0 true, m]
       s.cores.findSome? (fun x => (x.2.mxc.find? fun y => y.op = 9 && y.stage = 1).map fun y => (x.1, y)) = some (0, m)
         ∧ s.mxFree 0 m 0 = true ∧ (s.tryRelease 0 0 0).2 = true ∧ s.mxPlace 0 m 0 ≠ none
         ∧ (let d := { testMx 6 64 1 false with pb := m.pb.set 12 7 }
            (mxBench [d, m]).mxFree 0 m 0 = true ∧ (mxBench [testMx 6 64 1 false, m]).mxFree 0 m 0 = false)
         ∧ s.resOf 0 0 5 = some (0, testRec 5 0 0 0 1) ∧ s.resOf 0 0 6 = some (1, testRec 6 9 0 1 1))
    ∧ (let s := withBanks (bench [])
       let s := s.setCore 0 { s.core 0 with bankTaker := some 1 }
       (s.core 0).bankTaker = some 1 ∧ (s.core 0).bankCrew = some 0 ∧ s.namesBanks 0 0 = false ∧ (s.crews.look 0).isSome = true
         ∧ ((s.setCore 0 { s.core 0 with bankCrew := none }).core 0).bankCrew = none) := by decide +kernel

/-- One engine operation of the test thread, number 7. -/
def engBench (k : EngKind) (cmd : List Byte) (f : EngOp → EngOp) (g : State → State := id) : State :=
  let s := structBench 0 []
  g { s with ops := [f { s.newEng 0 k 0 0x1000 0 cmd with id := 7 }] }
def withEng (s : State) (f : EngOp → Bool) : Bool :=
  match s.findEng 7 with
  | some o => f o
  | none => false
def copyBytes : List Byte := leBytes 8 0x4000 ++ leBytes 8 0x8000 ++ leBytes 16 4
/-- The node at VA 0x2000 with one procedural child, and a ray along x that meets it. -/
def testNode (s : State) : State :=
  { s with scratch := ((((s.scratch.write 4 272 (leBytes 8 0x3000) false).write 4 299 [255, 255, 255] false).write 4 344 [3] false)) }
def rayBytes (dx root : Nat) : List Byte := leBytes 16 0 ++ leBytes 12 dx ++ leBytes 4 0x3f800000 ++ leBytes 8 root ++ leBytes 24 0

theorem witness_engineEvents :
    (withEng (engBench (.copy false) copyBytes (fun o => { o with step := 1 })) (fun o => (engBench (.copy false) copyBytes fun o => { o with step := 1 }).copyTurn o && decide (o.step = 1))
      && (let s := engBench (.copy false) copyBytes fun o => { o with overlap := some (0, 0) }; withEng s fun o => s.copyTurn o && decide (o.step ≠ 1) && o.overlap.isSome)
      && (let s := engBench (.copy false) copyBytes id; withEng s fun o => s.copyTurn o && decide (o.step ≠ 1) && o.overlap.isNone && (s.engRun o).perform.stop.isNone)
      && (let s := engBench (.copy false) copyBytes id fun s => s.setCore 0 { s.core 0 with maps := [(0, { testMap with pas := [0x104000], pending := true })] }
          withEng s fun o => s.copyTurn o && decide (o.step ≠ 1) && o.overlap.isNone && (s.engRun o).perform.stop.isSome)) = true
    ∧ (let s := engBench .trace (rayBytes 0x3f800000 0x2000) id testNode
       withEng s fun o => s.rayGoes o && match s.rayRun o with
         | (r, .candidate kind h) => r.stop.isNone && (r.write o.hitPtr (clean (hitRecord o kind h.t h.u h.v h.leaf))).stop.isNone
         | _ => false) = true
    ∧ (let s := engBench .trace (rayBytes 0 0x2000) (fun o => { o with ray := { o.ray with spill := some [] } }) fun s => s.setCrew 0 { testCrew with run := .aborted }
       withEng s fun o => decide (o.kind = .trace) && !o.ray.done && o.ray.spill.isSome && (s.crews.look o.crew).any (·.run = .aborted)) = true
    ∧ (let s := engBench .trace (rayBytes 0 0x2000) id
       withEng s fun o => s.rayGoes o && decide (o.kind = .trace) && !o.ray.done && match s.rayRun o with
         | (r, .ended) => r.stop.isNone
         | _ => false) = true
    ∧ (let s := engBench .trace (rayBytes 0x3f800000 0x2001) id
       withEng s fun o => s.rayGoes o && decide (o.kind = .trace) && !o.ray.done && match s.rayRun o with
         | (r, .lost _ _ _) => r.stop.isNone
         | _ => false) = true
    ∧ (let cmd : List Byte := leBytes 24 0 ++ leBytes 8 1 ++ leBytes 2 1 ++ leBytes 30 0
       [(({ ray := 1, batch := 2 } : MarchState), true, true), ({ active := true, tend := 1, rows := 1 }, true, false)].all fun q =>
         let s := engBench .march cmd fun o => { o with march := q.1, popped := 2 }
         withEng s fun o => decide (o.kind = .march) && !o.march.done && s.marchTurn o &&
           let x := (s.beginMarch o).1.marchOn (s.beginMarch o).2
           x.1.stop.isNone && decide (x.2 = q.2.1) && decide (decide ((parseMarch (s.beginMarch o).2.cmd).nrays ≤ x.1.o.march.ray) = q.2.2)) = true
    ∧ (withEng (engBench .trace [] fun o => { o with ray := { o.ray with done := true } }) fun o => decide (o.kind = .trace) && o.ray.done) = true
    ∧ (withEng (engBench .march [] fun o => { o with march := { o.march with done := true } }) fun o => decide (o.kind = .march) && o.march.done) = true
    ∧ (let open' : State := engBench .emit (0 :: List.replicate 15 0) fun o => { o with desc := testStream.recBytes }
       let next : State := { engBench .emit (1 :: List.replicate 15 0) id with streams := [(0, testStream)] }
       let done : State := { engBench .emit (1 :: List.replicate 15 0) fun o => { o with step := 1 } with streams := [(0, testStream)] }
       ((open'.recordsOf 0).head?.filter open'.takesRecord).isSome && ((next.recordsOf 0).head?.filter next.takesRecord).isSome
         && ((done.recordsOf 0).head?.filter done.takesRecord).isNone && decide (done.streams.look 0 = some testStream)
         && (done.ops.find? fun o => o.kind = .emit && o.tid = 0 && o.step = 1).isSome) = true
    ∧ (let x := { testStream with closing := true }
       let st (copy : Nat) : State := { (bench []).setCrew 0 { testCrew with copy := copy } with streams := [(0, x)] }
       (((st 0).recordsOf 0).head?.filter (st 0).takesRecord).isNone = true ∧ (st 0).streams.look 0 = some x ∧ (st 0).streamDone 0 x = true ∧ (st 0).shadowOf 0 = false
         ∧ (st 0).dualOf 0 = false ∧ (st 2).shadowOf 0 = true ∧ (st 2).streamDone 0 x = true ∧ (st 1).dualOf 0 = true ∧ (st 1).shadowOf 0 = false ∧ (st 1).streamDone 0 x = true)
    ∧ (let h : HeldPop := { id := 5, tid := 0, q := 7, ent := { val := 1 } }
       let s : State := { bench [] with heldPops := [h] }
       s.heldPops.find? (·.id = 5) = some h ∧ (s.heldPops.find? fun x => x.tid = h.tid && x.q = h.q) = some h ∧ s.viewRoom 0 7 = true)
    ∧ ([1, 7, 9].all (fun q => (bench [] fun x => { x with mxs := List.replicate 3 { val := 0 }, trh := List.replicate 3 { val := 0 }, sms := List.replicate 3 { val := 0 } }).viewRoom 0 q)
        && (queueBench []).viewRoom Config.coreThreads 12
        && [1, 7, 9].all fun q => !(bench [] fun x => { x with mxs := List.replicate 4 { val := 0 }, trh := List.replicate 4 { val := 0 }, sms := List.replicate 4 { val := 0 } }).viewRoom 0 q) = true
    ∧ ((bench []).thread 0).run ≠ .exited := by decide +kernel

/-- Core 0 with one entry of the convergence table. -/
def entryBench (e : Entry) : State := let s := bench []; s.setCore 0 { s.core 0 with entries := [e] }
theorem witness_coreEvents :
    (((bench []).core 191).runs = true ∧ (bench []).issuingOn 191 = false ∧ (let s := bench []; (s.setCore 191 { s.core 191 with held := true }).core 191).runs = false
      ∧ ({ bench [] with picks := [{ tids := [191 * 12288], pipe := 0 }] } : State).issuingOn 191 = true)
    ∧ (let e : Entry := { slot := 0, pc := 0, hold := true, holdAge := 4096 }; entryAt ((entryBench e).core 0).entries 0 (0 : Dword).toNat = some e)
    ∧ (let e : Entry := { slot := 0, pc := 0, hold := true, holdAge := 4095 }; entryAt ((entryBench e).core 0).entries 0 (0 : Dword).toNat = some e)
    ∧ (let e : Entry := { slot := 0, pc := 0, age := 4096 }; ((entryBench e).core 0).entries = [e])
    ∧ ((bench []).wavesOn 191 = [] ∧ (bench []).engineOn 191 = false ∧ ((bench []).core 191).held = false ∧ ((bench []).core 191).fenced = false)
    ∧ (let s := bench [] fun x => { x with run := .converging 0 }
       let s := (s.setRegVal offWdcfg (2 ^ 32)).setCore 0 { s.core 0 with etime := 1000000 }
       ((s.threadsOn 0).filter fun y => slotOf y.1 = 0 && y.2.pc = 0 && y.2.run.isConverging) = [(0, s.thread 0)] ∧ (s.thread 0).run = .converging 0
         ∧ s.convLimit (s.ctxOf 0) = 1 ∧ 1 * 10 ^ 6 ≤ elapsed (s.etimeOf 0) 0) := by decide +kernel

/-- A grid of one crew of one wave of depth 2, bound to core 0: its record's fields as offset and value. -/
def recordOf (l : List (Nat × Nat)) : List Byte := ([(34, 1), (35, 2)] ++ l).foldl (fun (r : List Byte) (x : Nat × Nat) => r.set x.1 (BitVec.ofNat 8 x.2)) (List.replicate 64 0)
def gridBench (s : State) (l : List (Nat × Nat)) (ranges : List (Nat × Nat × Nat)) : State :=
  { s with grids := s.grids.put 2 { testGrid with record := recordOf l, ranges := ranges, started := 0 }, slots := [(0, 1), (25, 63), (26, 64), (27, 1)] }
/-- Crew 0, pre-empted or placed again, with all of its work done. -/
def stoppedBench (run : CrewRun) (etime : Nat) : State :=
  let s := (bench []).setCrew 0 { testCrew with run := run }
  s.setCore 0 { s.core 0 with etime := BitVec.ofNat 64 etime }

theorem witness_crewEvents :
    (let s := gridBench State.reset [] [(0, 0, 1)]; ((s.waiting 0).findSome? fun w => s.placeOne 0 w.2).isSome = true)
    ∧ (let s := gridBench State.reset [] [(11, 0, 1)]
       s.waiting 0 = [] ∧ s.largest (((List.range 12).map (12 * (0 / 12) + ·)).filter (· ≠ 0)) = some (2, 11) ∧ s.hasRoom 2 0 = true)
    ∧ ([CrewRun.running, .aborted].all fun r =>
       let c : Crew := { testCrew with run := r }
       let s := (bench [] fun x => { x with run := .exited }).setCrew 0 c
       let s0 := if c.run = .aborted then s.endAborted 0 else s
       let s1 := (s0.cores.map (·.1)).foldl (fun (s : State) x => s.freeOn 0 x) s0
       let s2 := s1.removeWaves 0
       decide (s.crews.look 0 = some c) && decide (c.run ≠ .ended) && !s.crewBusy 0 && decide (c.copy = 0) && s1.duals.all (fun d => d.crew ≠ 0)
         && decide (({ s2 with crews := s2.crews.del 0 } : State).grids.look c.grid = some testGrid)) = true
    ∧ (let p : Crew := { testCrew with copy := 3, twin := some 1, run := .ended, waves := 0 }
       let s := ((bench []).setCrew 0 p).setCrew 1 { p with copy := 2 }
       s.crews.look 0 = some p ∧ s.crews.look 1 = some { p with copy := 2 })
    ∧ (let c : Crew := { testCrew with begun := true }
       let s := ((bench []).setCrew 0 c).setRegVal offWdcfg 1
       let s := s.setCore 0 { s.core 0 with etime := 1000000 }
       s.crews.look 0 = some c ∧ c.run = .running ∧ s.crewLimit (s.crewCtx c) = 1 ∧ 1 * 10 ^ 6 ≤ elapsed (s.crewTime c) c.began)
    ∧ (let s := gridBench ((bench []).setCrew 0 { testCrew with ntags := 64 }) [(40, 1), (41, 8)] [(0, 0, 1)]
       let due (n : Nat) :=
         let s := s.setQcore 0 { s.qcore 0 with cyc := BitVec.ofNat 64 n }
         (((s.waiting 0).filter fun w => 20 * 10 ^ 6 ≤ s.waited w.2 && (s.placeOne 0 w.2).isNone).map fun w => s.removal 0 w.1 w.2).find? (· ≠ [])
       due 20000 = some [0] ∧ due 19999 = none
         ∧ (let s := s.setQcore 0 { s.qcore 0 with cyc := BitVec.ofNat 64 20000 }; ((s.waiting 0).head?.any fun w => decide (0 ∈ s.removal 0 w.1 w.2)) = true))
    ∧ ((bench []).crews.look 0 = some testCrew ∧ testCrew.run = .running)
    ∧ (let s := stoppedBench .stopping (10 ^ 9)
       let f := { s with contexts := s.contexts.map fun (x : Nat × Context) => (x.1, { x.2 with save := 0 }), dies := [(0, { fenced := true })] }
       s.crews.look 0 = some { testCrew with run := .stopping } ∧ s.crewThreads 0 ≠ [] ∧ s.draining 0 { testCrew with run := .stopping } = false
         ∧ s.saveFenced { testCrew with run := .stopping } = false ∧ f.saveFenced { testCrew with run := .stopping } = true
         ∧ 10 ^ 9 ≤ elapsed (s.core 0).etime.toNat 0 ∧ elapsed ((stoppedBench .stopping (10 ^ 9 - 1)).core 0).etime.toNat 0 < 10 ^ 9)
    ∧ (let s := stoppedBench .resuming 0
       let c : Crew := { testCrew with run := .resuming }
       decide (s.crews.look 0 = some c) && !s.savePoisoned c &&
         match (((s.restoreRecs 0 c).bind fun s => c.holdsBanks.foldl (fun (r : Restore) par => r.bind fun s => s.restoreBank 0 par) (.ok s)).bind
           fun s => (s.restorePhasers 0).bind fun s => s.restoreViews c).bind (fun s => s.restoreMaps 0) with
         | .ok s1 => !(s1.ops.any fun o => o.crew = 0 && s1.refillHeld o)
         | .wait _ => false
         | .fail _ => false) = true := by decide +kernel

/-- Copies of a DUAL crew, crews 0 and 1, that have each sent one write. -/
def dualBench (v : Byte) (etime : Nat) (op : MemOp := .store) : State :=
  let d (id crew : Nat) (v : Byte) : DualOp :=
    { id := id, crew := crew, lane := 0, seq := 0, since := 0, op := { testOp op with id := id, grp := id, pkt := id, tid := crew * 128, data := [1, 2, 3, v] } }
  let s := ((bench []).setCrew 0 { testCrew with twin := some 1 }).setCrew 1 { testCrew with copy := 1, twin := some 0 }
  let s := { s with waves := s.waves.put 1 { crew := 1, index := 0, spillX := 0, since := 0 } }
  let s := (s.setCore 0 { s.core 0 with etime := BitVec.ofNat 64 etime }).setThread 128 { s.thread 0 with run := .ready }
  { s with duals := [d 5 0 4, d 6 1 v], pend := if op = .store then [] else [(d 5 0 4).op, (d 6 1 v).op] }
/-- The two writes meet and agree or not; `k`: an operation already in the views (0), one that waits for the comparator and finds room (1) or does not (2), as its line is being mapped. -/
def pairMeets (v : Byte) (same : Bool) (k : Nat := 0) : Bool :=
  let s := dualBench v 0 (if k = 0 then .store else .atomic 0 true false false 3)
  let s := if k = 2 then s.setCore 1 { s.core 1 with maps := [(5, { crew := 0, ptr := 0xff80, pas := [0x10ff80], row := 31, pending := true })] } else s
  match s.duals.find? (·.id = 5), s.duals.find? (·.id = 6) with
  | some p, some d =>
    ((s.crews.look p.crew).any fun c => decide (c.copy = 0) && decide (c.twin = some d.crew)) && decide (p.lane = d.lane) && decide (p.seq = d.seq) && !p.shadow
      && decide (p.op.id - p.op.grp = d.op.id - d.op.grp) && !(s.duals.any fun x => x.id < p.id && x.op.core = p.op.core && x.op.ctx = p.op.ctx && x.op.overlaps p.op)
      && decide (p.agrees d = same) && decide (s.duals.find? (s.partners p) = some d) && decide (s.compared p.op = decide (k ≠ 0)) && decide (s.dualGroup p = [p])
      && decide ((s.opGroup p.op).length = 1 ∨ k = 0) && (decide (k = 0) || decide (s.pairRoom p.op d.op = decide (k = 1)))
  | _, _ => false

/-- A held contribution of the test thread to the PLAIN word at frame offset `a`. -/
def contributionAt (a : Nat) : Contribution :=
  { grid := 2, index := 0, copy := 0, tid := 0, order := 0, lane := 0, wave := 0, ctx := 0, pc := 0, insn := 0, core := 0, ptr := a, pa := 0x100000 + a, op := 0, size := 4, val := 1 }
/-- A flush of grid 2 whose last contribution cannot be performed yet where `wait`, as its line is being mapped. -/
def flushBench (ph : Option Nat) (wait : Bool) : State :=
  let s : State := { bench [] with flushes := [{ grid := 2, phaser := ph, left := [contributionAt 0xff00, contributionAt 0xff80] }] }
  s.setCore 0 { s.core 0 with maps := if wait then [(5, { crew := 0, ptr := 0xff80, pas := [0x10ff80], row := 31, pending := true })] else [] }
def flushMeets (ph : Option Nat) (left : Bool) (dual : Bool := false) : Bool :=
  let s := { flushBench ph left with grids := [(2, { testGrid with record := if dual then testGrid.record.set 42 4 else testGrid.record })] }
  match s.flushes.find? (fun f => f.grid = 2), s.grids.look 2 with
  | some f, some g =>
    let y := if f.compared = false ∧ g.flag 2 = true then s.compareDrained f.left else (s, f.left)
    let x := drainAll 2 y.2 [] y.1
    decide (f.phaser = ph) && decide (g.flag 2 = dual) && decide (decide (x.2 ≠ []) || decide (x.1.drainSent 2 ≠ []) || (f.cores.any fun c => x.1.unmatched c g.ctx) ↔ left)
  | _, _ => false
/-- One dirty byte, the last of a frame's 64 KiB. -/
def dirtyBench (f : State → State := id) : State :=
  f { bench [] with l1 := [(l1Key 0 0 0x10ffff, { val := 7, dirty := true })] }

theorem witness_orderingAndComparatorEvents :
    (2 ^ 64 - 1 < 2 ^ 64 ∧ 2 ^ 64 ≤ 2 ^ 64)
    ∧ (let a := 0x10ffff
       let held : State := { dirtyBench with duals := [{ id := 9, crew := 0, lane := 0, seq := 0, since := 0, op := { testOp .store with pa := 0x10fffc } }] }
       let gone : State := { dirtyBench with dies := [(dieOfPa a, { fenced := true })] }
       ((bench []).l1.look (l1Key 0 0 a)).any (·.dirty) = false ∧ held.withheld 0 0 a = true
         ∧ dirtyBench.l1.look (l1Key 0 0 a) = some { val := 7, dirty := true } ∧ dirtyBench.withheld 0 0 a = false ∧ dirtyBench.refuses a = none
         ∧ dirtyBench.l1psn.lookD (l1Key 0 0 a / 8) false = false ∧ (gone.refuses a).isSome = true ∧ gone.homeHolds a = false ∧ dirtyBench.homeHolds a = false
         ∧ (let s := dirtyBench; (s.setCore 1 { s.core 1 with maps := [(5, { crew := 0, ptr := 0xff80, pas := [0x10ff80], row := 31, pending := true })] }).homeHolds a = true)
         ∧ ({ dirtyBench with l1psn := [(l1Key 0 0 a / 8, true)] } : State).l1psn.lookD (l1Key 0 0 a / 8) false = true)
    ∧ (flushMeets none true && flushMeets (some (corePhaser 0 63)) true && flushMeets none false && flushMeets (some (corePhaser 0 63)) false) = true
    ∧ flushMeets none false true = true
    ∧ (let s := bench []
       let r := contributionAt 0xff80
       (s.drainSent 2).contains r.spot = false ∧ r.copy ≠ 2 ∧ ({ r with copy := 2 } : Contribution).copy = 2 ∧ [r.spot].contains r.spot = true ∧ (match s.performContribution r with
         | .done _ => true
         | .later _ => false) = true)
    ∧ (({ bench [] with slews := [{ first := 47, left := [0, 191 * 12288] }] } : State).slews = [{ first := 47, left := [0, 191 * 12288] }])
    ∧ (let r : Contended := { owner := some 0, core := 191, time := 0 }
       let s (n : Nat) : State := let s : State := { bench [] with contention := [(0, r)] }; s.setCore 191 { s.core 191 with etime := BitVec.ofNat 64 n }
       (bench []).contention.look 0 = none ∧ (s 0).contention.look 0 = some r ∧ elapsed ((s (2 * 10 ^ 6 - 1)).core r.core).etime.toNat r.time < 2 * 10 ^ 6
         ∧ 2 * 10 ^ 6 ≤ elapsed ((s (2 * 10 ^ 6)).core r.core).etime.toNat r.time)
    ∧ (pairMeets 4 true && pairMeets 5 false && pairMeets 4 true 1 && pairMeets 4 true 2) = true
    ∧ (let ready (s : State) (d : DualOp) : Bool :=
         let gone := match (s.crews.look d.crew).bind (·.twin) with
           | some j => (s.crewThreads j).isEmpty && !(s.duals.any fun x => x.crew = j) && !(s.pend.any fun o => s.crewIdOf o.tid = some j)
           | none => true
         gone || decide (d.since + 10 ^ 9 ≤ s.etimeOf d.op.tid)
       [(10 ^ 9, true), (10 ^ 9 - 1, false)].all (fun q => ((dualBench 4 q.1).duals.find? (·.id = 5)).any fun d => !d.shadow && decide (ready (dualBench 4 q.1) d = q.2))
         && (let s : State := { dualBench 4 0 with duals := (dualBench 4 0).duals.filter (fun d => d.crew = 0), threads := (dualBench 4 0).threads.del 128 }
             (s.duals.find? (·.id = 5)).any fun d => !d.shadow && ready s d)) = true := by decide +kernel

/-- The host port open. -/
def hostBench : State := { bench [] with bootStep := 6 }
def testEntry (seq kind since : Nat) : HsEntry := { seq := seq, kind := kind, ctx := 0, va := 0, page := 0x100000, psize := 65536, leaf := 0x24000, tid := 0, since := since }

theorem witness_hostEvents :
    (inRegs (Config.regBase - 1) = false ∧ inRegs Config.regBase = true ∧ inRegs (Config.regEnd - 1) = true ∧ hostBench.bootStep = 6 ∧ (bench []).bootStep ≠ 6)
    ∧ ((bench []).invBusy = none ∧ 2 < 3 ∧ 255 < 256 ∧ (bench []).toHost = [])
    ∧ (let c : InvCmd := { upto := 8, scope := 2, ctx := 0, va := 0, reclaim := false, bounds := false }
       let s : State := { bench [] with invBusy := some c }
       s.invBusy = some c ∧ s.toHost = [] ∧ s.invWaits c = false ∧ ({ s with pend := [testOp .store] } : State).invWaits c = true)
    ∧ (let s : State := { bench [] with hsRing := [testEntry 4095 1 0, testEntry 4096 2 0] }
       let s := s.setCore 0 { s.core 0 with etime := BitVec.ofNat 64 (10 ^ 11) }
       s.hsRing.find? (fun e => e.seq % 4096 = 4095 % 4096) = some (testEntry 4095 1 0) ∧ s.hsRing.find? (fun e => e.seq % 4096 = 0 % 4096) = some (testEntry 4096 2 0)
         ∧ s.hsRing.find? (fun e => e.seq = 4095 && e.kind = 1) = some (testEntry 4095 1 0) ∧ 10 ^ 11 ≤ elapsed (s.etimeOf 0) 0)
    ∧ ((1 : Dword).getLsbD 0 = true ∧ (2 : Dword).getLsbD 0 = false ∧ bits (hostBench.regVal offAttreq) 3 2 ≠ 1)
    ∧ (191 < 192 ∧ (16 : Dword).toNat % 32 = 16 ∧ (32 : Dword).toNat % 32 = 0 ∧ (17 : Dword).toNat % 32 = 17)
    ∧ (let pa := Config.hbmEnd - 4
       pa % 128 + 4 ≤ 128 ∧ inHbm pa = true ∧ pa + 4 ≤ Config.hbmEnd ∧ hostBench.mapPending (lineOf pa) = false ∧ hostBench.fencedErr pa = none ∧ hostBench.marked pa = false
         ∧ ({ hostBench with dies := [(3, { fenced := true })] } : State).fencedErr pa ≠ none
         ∧ pa % 8 + 4 ≤ 8 ∧ hostBench.outside = []
         ∧ ({ hostBench with appended := [(0x200000, { size := 65536, leaf := 0x24010, tail := 0, shut := false })] } : State).marked 0x200000 = true
         ∧ ({ pa := pa, size := 4, write := true, data := [] } : OutAccess).units.length = 1 ∧ 1 < ({ pa := pa - 4, size := 8, write := true, data := [] } : OutAccess).units.length + 1
         ∧ 1 < ({ pa := pa - 8, size := 12, write := true, data := [] } : OutAccess).units.length)
    ∧ (let x : OutAccess := { pa := 0x100004, size := 12, write := true, data := List.replicate 12 (1, false), id := 9, left := [0, 1] }
       let s : State := { hostBench with outside := [x], uid := 11 }
       s.findPend 10 = none ∧ 10 < 2 ^ 62 ∧ s.outside.find? (fun y => y.id ≤ 10 && y.left.contains (10 - y.id)) = some x ∧ x.who = 0 ∧ x.write = true ∧ s.hostWaits x = false
         ∧ x.units.getD 1 (0, 0) = (4, 8) ∧ s.mapPending (lineOf 0x100008) = false ∧ s.fencedErr 0x100008 = none ∧ s.marked 0x100008 = false ∧ x.left.erase 1 ≠ [])
    ∧ (inHbm Config.hbmEnd = false ∧ inHost Config.hbmEnd = false ∧ inRegs Config.hbmEnd = false ∧ inHost Config.hostBase = true)
    ∧ ((bench []).bootStep < 6 ∧ 6 ≤ hostBench.bootStep)
    ∧ (65 < 66 ∧ (bench []).msixOpen.contains 65 = false ∧ ({ bench [] with msixOpen := [65] } : State).msixOpen.contains 65 = true
      ∧ ({ bench [] with msixPending := [65] } : State).msixPending.contains 65 = true ∧ (bench []).msixPending.contains 65 = false) := by decide +kernel

def serveKind (s : State) (va kind : Nat) (n : Nat := 4) : Nat :=
  match s.serveRequest 0 va kind n [] with
  | .ok _ _ _ _ => 0
  | .bad _ _ => 1
  | .wait _ => 2
  | .divided _ _ => 3
def testReq (since : Nat) : RemReq := { id := 9, op := testOp (.load false), dev := 5, tctx := 0, wb := false, since := since, link := 11, psn := false }

theorem eraseDups_of_nodup (l : List Nat) (h : l.Nodup) : l.eraseDups = l := by
  induction l with
  | nil => rfl
  | cons a r ih =>
    obtain ⟨h1, h2⟩ := List.nodup_cons.1 h
    have h3 : r.filter (fun b => !b == a) = r := List.filter_eq_self.2 fun b hb => by
      have : b ≠ a := fun e => h1 (e ▸ hb)
      simp [this]
    rw [List.eraseDups_cons, h3, ih h2]
theorem filterMap_some {α β : Type} {f : α → Option β} {g : α → β} (l : List α) (h : ∀ x ∈ l, f x = some (g x)) : l.filterMap f = l.map g := by
  induction l with
  | nil => rfl
  | cons a r ih => simp [h a, ih fun x hx => h x (List.mem_cons_of_mem _ hx)]
/-- Core 0's L1 with a dirty byte of a remote region in each of `n` frames (R15): lines that must stay until their bytes have been sent back. -/
def fullBench (n : Nat) : State := { bench [] with l1 := (List.range n).map fun i => (2 ^ 64 + 128 * i, { val := 0, dirty := true }) }
theorem full_lines {n : Nat} (h : n ≤ 2 ^ 16) : (fullBench n).l1Lines 0 = (List.range n).map fun i => 2 ^ 57 + i := by
  unfold State.l1Lines fullBench
  rw [List.filterMap_map, filterMap_some (g := fun i => 2 ^ 57 + i), eraseDups_of_nodup]
  · exact List.pairwise_map.2 (List.nodup_range.imp fun h e => h (by omega))
  · intro i hi
    have := List.mem_range.1 hi
    have h1 : (2 ^ 64 + 128 * i) / 2 ^ 88 = 0 := by omega
    have h2 : (2 ^ 64 + 128 * i) / 128 = 2 ^ 57 + i := by omega
    simp only [Function.comp, h1, h2, if_true]
theorem full_isFull {n : Nat} (h : n ≤ 2 ^ 16) (h1 : Config.l1Lines ≤ n) : (fullBench n).l1Full 0 = true := by
  unfold State.l1Full
  have h3 : (fullBench n).l1.length = n := by simp [fullBench]
  simp [h3, h1, full_lines h]
theorem full_stays {n : Nat} (h : n ≤ 2 ^ 16) : (fullBench n).evictable 0 = [] := by
  unfold State.evictable
  rw [List.filter_eq_nil_iff]
  intro g hg
  rw [full_lines h, List.mem_map] at hg
  obtain ⟨i, hi, rfl⟩ := hg
  have hr := List.mem_range.1 hi
  have hm : (2 ^ 64 + 128 * i, ({ val := 0, dirty := true } : L1Cell)) ∈ (fullBench n).l1 := List.mem_map.2 ⟨i, hi, rfl⟩
  intro ha
  have h2 : (2 ^ 64 + 128 * i) / 128 = 2 ^ 57 + i := by omega
  have h3 : decide (2 ^ 64 ≤ (2 ^ 64 + 128 * i) % 2 ^ 80) = true := decide_eq_true (by omega)
  have h4 : (fullBench n).staysDirty 0 (2 ^ 64 + 128 * i) = true := by rw [State.staysDirty, h3]; rfl
  have h5 : (decide ((2 ^ 64 + 128 * i) / 128 ≠ 2 ^ 57 + i) || !true || !(fullBench n).staysDirty 0 (2 ^ 64 + 128 * i)) = true :=
    List.all_eq_true.1 ha _ hm
  rw [h4, decide_eq_false (not_not_intro h2)] at h5
  exact absurd h5 (by decide)
theorem full_lacks {n : Nat} (h : n ≤ 2 ^ 16) (a : Nat) (ha : a < 2 ^ 64) : (fullBench n).l1HasLine 0 0 a = false := by
  unfold State.l1HasLine
  rw [List.any_eq_false]
  intro x hx
  obtain ⟨i, hi, rfl⟩ := List.mem_map.1 hx
  have := List.mem_range.1 hi
  have e : l1Key 0 0 a = a := by simp [l1Key]
  simp only [decide_eq_true_eq, e]
  omega
theorem full_roomy (a : Nat) (ha : a < 2 ^ 64) : (fullBench Config.l1Lines).l1Roomy 0 0 a = false := by
  unfold State.l1Roomy
  rw [full_isFull (by decide) (Nat.le_refl _), full_stays (by decide), full_lacks (by decide) a ha]
  rfl

theorem witness_remoteAndLinkEvents :
    (let s : State := { hostBench with imports := [(0, 1)] }
     let t : State := { s with served := [((0, 1), [])] }
     5 ≤ s.bootStep ∧ t.served.find? (fun (x : (Nat × Nat) × List Byte) => x.1 = (0, 1)) = some ((0, 1), []) ∧ s.served.find? (fun (x : (Nat × Nat) × List Byte) => x.1 = (0, 1)) = none
       ∧ bit (s.imports.lookD 0 0) 1 = false ∧ bit (s.imports.lookD 0 0) 0 = true
       ∧ serveKind s 0xffc0 4 = 0 ∧ serveKind s 0x40000 0 = 1 ∧ serveKind s 0xff80 0 16 = 3 ∧ s.outside = []
       ∧ (∃ x ∈ [({ who := 1, seq := 1, pa := 0, size := 4, write := false, data := [] } : OutAccess)], x.who = 0 + 1 ∧ x.seq = 1)
       ∧ serveKind (s.setCore 0 { s.core 0 with maps := [(0, { testMap with pas := [0x10ff80], pending := true })] }) 0xfffc 0 = 2)
    ∧ (let s : State := { bench [] with remotes := [testReq 0] }
       s.remotes.find? (·.id = 9) = some (testReq 0) ∧ (testReq 0).link < 12 ∧ s.fillRoomy (testReq 0) = true ∧ (remoteErr 7 0).code ≠ 0xe ∧ (remoteErr ({ code := 0xe } : MemErr).word 0).code = 0xe
         ∧ elapsed (s.etimeOf 0) 0 < 10 ^ 9 ∧ 10 ^ 9 ≤ elapsed ((s.setCore 0 { s.core 0 with etime := BitVec.ofNat 64 (10 ^ 9) }).etimeOf 0) 0)
    ∧ (let s (f : Nat) (r c : Bool) : State := { bench [] with links := [(11, { fails := f, retraining := r, fenced := c })] }
       isLink 11 = true ∧ ((s 6 false false).links.lookD 11 {}).fails + 1 < 8 ∧ 8 ≤ ((s 7 false false).links.lookD 11 {}).fails + 1
         ∧ ((s 7 false false).links.lookD 11 {}).fenced = false ∧ ((s 7 false false).links.lookD 11 {}).alien = false ∧ ((s 7 false false).links.lookD 11 {}).retraining = false
         ∧ (({ bench [] with links := [(11, { alien := true })] } : State).links.lookD 11 {}).alien = true
         ∧ ((s 0 false true).links.lookD 11 {}).fenced = true ∧ ((s 0 true false).links.lookD 11 {}).retraining = true)
    ∧ (let s := (bench []).setRegVal offRoute 0xfff
       (offRoute, BitVec.ofNat 64 0x7ff) ∈ (s.unroute 11).regs ∧ offRoute ≤ offRoute ∧ offRoute < offRoute + 16384) := by decide +kernel

/-- A fill of a line for which no frame of the L1 can be had. -/
def lineReq : RemReq := { testReq 0 with op := { testOp (.load false) with size := 128, pa := 0x10ff80 } }
theorem witness_fillWaits : (fullBench Config.l1Lines).fillRoomy lineReq = false := by
  unfold State.fillRoomy
  rw [show lineReq.op.core = 0 from rfl, show lineReq.op.ctx = 0 from rfl, full_roomy _ (by decide)]
  rfl

theorem witness_tokenEvents :
    (let s : State := { (bench []).setTokens ⟨0, 151, 0, 0⟩ with demands := [(3, 1)] }
     let b : Tokens := { s.tokens with draw := min 100 65535 }
     b.draw + 50 < b.cap ∧ 0 < 51 ∧ 51 ≤ b.cap - b.draw ∧ 0 < s.demands.lookD 3 0)
    ∧ (let b : Tokens := { ((bench []).setTokens ⟨0, 150, 0, 0⟩).tokens with draw := min 100 65535 }; b.cap ≤ b.draw + 50)
    ∧ (500 < 501 ∧ 500 ≤ 500 ∧ ((bench []).setTokens ⟨0, 1800, 0, 0⟩).tokens.cap ≤ 1800)
    ∧ (let at' (n : Nat) (lent : Bool) : State :=
         let s := bench []
         s.setCore 0 { s.core 0 with etime := BitVec.ofNat 64 n } |> fun s => { s with leases := [{ id := 4, peer := 3, tokens := 1, lent := lent }] }
       let l : Lease := { id := 4, peer := 3, tokens := 1, lent := false }
       (at' 0 false).leases.find? (fun x => x.id = 4 && !x.lent) = some l ∧ (at' (10 ^ 10 - 1) false).clock < l.since + 10 ^ 10 ∧ l.since + 10 ^ 10 ≤ (at' (10 ^ 10) false).clock
         ∧ (at' 0 true).leases.find? (fun x => x.id = 4 && x.lent) = some { l with lent := true } ∧ (bench []).leases.find? (fun x => x.id = 4 && x.lent) = none
         ∧ l.since + 11 * 10 ^ 9 ≤ (at' (11 * 10 ^ 9) true).clock ∧ (at' (11 * 10 ^ 9 - 1) true).clock < l.since + 11 * 10 ^ 9) := by decide +kernel

/-- Every core of die 3 at cadence 16. -/
def slowBench : State := (dieCores 3).foldl (fun (s : State) c => s.setCore c { cadence := 16 }) State.reset
/-- A die's cap is opaque: 0 W is never above it, and one watt more than it is. -/
theorem witness_powerAndHeatEvents :
    (∀ s : State, 0 ≤ Config.dieCap s.tokens.cap 3 ∧ Config.dieCap s.tokens.cap 3 < Config.dieCap s.tokens.cap 3 + 1)
    ∧ (3 < 4 ∧ (dieCores 3).filter (fun c => (slowBench.core c).cadence < 16) = [] ∧ (dieCores 3).filter (fun c => ((bench []).core c).cadence < 16) ≠ [])
    ∧ ((((bench []).setCore 191 { held := true, holdPs := 7 }).core 191).held = true ∧ (((bench []).setCore 191 { held := true, holdPs := 7 }).core 191).holdPs = 7
      ∧ ((bench []).core 191).held = false ∧ (((bench []).setCore 191 { held := true, holdPs := 7 }).core 191).holdPs ≠ 6)
    ∧ ((({ bench [] with dies := [(3, { alerts := 3 })] } : State).die 3).alerts = 3 ∧ ((bench []).die 3).alerts < 3)
    ∧ ((({} : Core).lastHold.all fun e => e + 10 ^ 6 ≤ 0) = true ∧ (({ lastHold := some 1 } : Core).lastHold.any fun e => 10 ^ 6 < e + 10 ^ 6) = true
      ∧ ((bench []).core 191).held = false)
    ∧ (inHbm Config.hbmEnd = false ∧ (6 ≠ 4 ∧ 6 ≠ 5))
    ∧ (191 / 48 = 3 ∧ 191 < 192 ∧ inHbm (Config.hbmEnd - 1) = true) :=
  ⟨fun _ => ⟨Nat.zero_le _, Nat.lt_succ_self _⟩, by decide +kernel⟩

/-- Context 255 may be created, with the system grant. -/
def createBench : State := { bench [] with boot := { pool := [255], grants := [255] } }
/-- A link's peer group is opaque: a device of another group exists. -/
theorem witness_startUpEvents :
    (∀ l, Config.peerGroup l ≠ ({ bench [] with boot := { group := Config.peerGroup l + 1 } } : State).boot.group)
    ∧ (255 < 256 ∧ 8192 % 8192 = 0 ∧ 4096 % 4096 = 0 ∧ 6 ≤ 6 ∧ 16 ≤ 16 ∧ createBench.boot.pool.contains 255 = true ∧ createBench.boot.grants.contains 255 = true
      ∧ let s := createBench.purgeContext 255
        (s.views.any fun (v : Nat × Nat) => v.2 = 255) = false ∧ (s.pend.any fun o => o.ctx = 255) = false ∧ (s.remotes.any fun r => r.op.ctx = 255) = false
        ∧ (s.contributions.any fun r => r.ctx = 255) = false ∧ s.unperformed s.uid (fun c _ _ => c = 255) = false)
    ∧ (inHost (Config.hostBase - 1) = false ∧ inHost Config.hostEnd = false)
    ∧ (let s : State := { bench [] with attesting := some 0x4000 }
       s.attesting = some 0x4000 ∧ ({ s with fuses := 4096 } : State).takeIndex.2 = none ∧ ({ s with signIndex := some 0 } : State).takeIndex.2 = some 0)
    ∧ ((wordFault (bench []).onQueue 0).isSome = true ∧ (wordFault (bench []).onQueue 0x03e0_0000).isSome = true)
    ∧ (let s := bench [] fun x => { x with pc := 2 }
       s.lead = some 0 ∧ match (s.fetch 0).2 with | .fail _ => True | _ => False) := by
  refine ⟨fun l => Nat.ne_of_lt (Nat.lt_succ_self _), by decide +kernel, by decide +kernel, by decide +kernel, by decide +kernel, by decide +kernel, ?_⟩
  have e : (match ((bench [] fun x => { x with pc := 2 }).fetch 0).2 with | .fail _ => true | _ => false) = true := by decide +kernel
  revert e; split <;> simp

/-! Operands, results, poison and faults. -/

/-- An operand fault of the instruction, of a thread of a core (`core`) or of queue program 0. -/
def faultMeets (i : Instr) (s : State) (t : Nat) : Bool :=
  decide (s.cur.tids = [t]) && decide (i.check s.onQueue = none) && s.canIssue t && laneReady i s t && match laneOperands i s t with
    | .error c => c.trap
    | .ok _ => false

theorem witness_specialAndAddressRegisters :
    (isQueueTid 0 = false ∧ ((bench []).waves.look (waveOf 0)).isSome = true ∧ (bench []).crewOf 0 = some testCrew ∧ (bench []).gridOf 0 = some testGrid)
    ∧ (isQueueTid Config.coreThreads = true ∧ 96 ≤ 111 ∧ 111 < 112)
    ∧ (let p : Pos := ⟨0, 72, 7, .i32, .src⟩
       let q : Pos := ⟨1, 64, 0, .i32, .src⟩
       let x (a : Nat) : Thread := { areg := [(0, ⟨BitVec.ofNat 32 a, false⟩)] }
       p.isScratch = true ∧ 4092 % p.size = 0 ∧ 4092 + p.size ≤ 4096 ∧ 2 % p.size ≠ 0 ∧ 4096 < 4096 + p.size ∧ okOf (resolveScratch (x 4092) 4096 0 [p]) = true
         ∧ okOf (resolveScratch (x 4092) 4096 0 [p, q]) = false)
    ∧ ((meets (.add false 8 72 65) (bench []) 0 fun _ _ _ => true) && (Instr.add false 8 72 65).positions.all fun p =>
        !(p.isScratch && decide (72 ≤ p.code)) || decide ((p.code - 64) % 8 ≠ 7)) = true := by decide +kernel

theorem witness_resultFrame :
    (meets (.add false 8 0 2) (bench []) 0 (fun _ _ d => match d with | .reg 8 1 => true | _ => false)
      && meets (.add false 79 0 2) (bench [] fun x => { x with areg := [(7, ⟨4092, false⟩)] }) 0 (fun _ _ d => match d with | .scratch 4092 4 => true | _ => false)
      && meets .nop (bench []) 0 (fun _ _ d => match d with | .none => true | _ => false)) = true := by decide +kernel

/-- v0 and v1 poisoned. -/
def poisonBench : State := bench [] fun x => { x with regs := [(0, ⟨1, true⟩), (1, ⟨1, true⟩)] }
def poisonedMeets (i : Instr) (place : Bool) : Bool :=
  meets i poisonBench 0 fun _ vs d => vs.any (·.2.psn) && decide (place = match d with | .scratch _ _ => true | _ => false)

theorem witness_poison : ([(8 : BitVec 7), 64].all fun d =>
    [Instr.add false d 0 2, .mulI64 false d 0 2, .mad false d 0 2, .sel false d 0 2, .seteq false d 0 2, .setltI64 false d 0 2, .addi false d 0 1, .shli false d 0 1,
      .bfi false d 0 1 1, .lea false 1 d 0 2, .fadd false d 0 2, .fmaRm false 1 d 0 2, .fsetlt false d 0 2, .hfma2F16 false d 0 2, .dfma false d 0 2, .dsetun false d 0 2,
      .sqrtF32 false d 0, .exp2 false d 0, .idivI32 false d 0 2, .cvt false d 0 0 1 0, .rngk false d 0 2].all fun i => poisonedMeets i (d = 64)) = true
    ∧ poisonedMeets (.pkbxBx2 false 8 0) false = true := by
  decide +kernel

/-- A scratchpad operand is a word fault on a queue core, and an operand fault on a core where a0 is beyond the allocation and the position takes one; other operands fault where their register is poisoned and the instruction consumes it. LAUNCH is a word fault on a core. UPBX takes registers and propagates poison: its operands fault in no state. -/
theorem witness_faults :
    (let l : List Instr := [.add false 8 64 2, .mul false 8 64 2, .addi false 8 64 1, .mova 0 64 1, .fma false 8 64 2, .dadd false 8 64 2, .dseteq false 8 64 2, .sin false 8 64,
        .iremN32 false 8 64 2, .upbxBx4 false 8 64, .bredF32 64 2, .binfin 8 64, .waita 8 64 2, .twall 64, .phreg 8 64 2, .wopen 8 64 2, .tres 8 64 false, .trace 64 0 false,
        .br false 0 64 1, .callx false 64 0, .mts 64 16]
     let r : List Instr := [.bredF32 0 2, .binfin 8 0, .waita 8 0 2, .phreg 8 0 2, .wopen 8 0 2, .tres 8 0 false, .trace 0 0 false, .callx false 0 0]
     (l.all fun i => (i.check (queueBench []).onQueue).isSome)
      && (l.all fun i => (i.check false).isSome || faultMeets i (bench [] fun x => { x with areg := [(0, ⟨4096, false⟩)] }) 0) && (r.all fun i => faultMeets i poisonBench 0)
      && ((Instr.launch 8 0).check (bench []).onQueue).isSome
      && faultMeets (.launch 8 0) (let s := queueBench []; s.setThread Config.coreThreads { s.thread Config.coreThreads with regs := [(1, ⟨0, true⟩)] }) Config.coreThreads) = true := by
  decide +kernel

theorem witness_pairPositions :
    63 < 64 ∧ 63 % 2 = 1 ∧ 62 % 2 = 0 ∧ Kind.i64.wide = true ∧ Kind.f64.wide = true ∧ 96 ≤ 111 ∧ 111 < 112 ∧ 112 ≤ 127 ∧ 127 < 128
    ∧ ((Instr.addI64 false 8 63 2).positions.any fun p => p.kind.wide && decide (p.code < 64) && decide (p.code % 2 = 1)) = true := by decide +kernel

theorem witness_pointerArithmetic : 2 ^ 64 - 1 < 2 ^ 64 ∧ ptrAdd (2 ^ 64 - 1) 1 = 2 ^ 64 - 2 ^ 56 ∧ computesMeets [] (.lea false 8 8 0 2) = true ∧ computesMeets [] (.leai false 8 0 1024) = true := by
  decide +kernel

theorem witness_encoding :
    (Instr.add true 127 127 127).wellFormed = false ∧ (Instr.add true 63 127 127).wellFormed = true ∧ encode (.add true 63 127 127) ≠ 0 ∧ encode .slewGroupRelease = 0
    ∧ decode (encode (.add true 63 127 127)) = some (.add true 63 127 127) := by decide +kernel

/-- The test thread at a word of the PLAIN page, chosen to issue. -/
def fetchBench (w pc : Nat) (f : State → State := id) : State :=
  f { ((bench []).poke 0x100000 4 w).setThread 0 { (bench []).thread 0 with pc := BitVec.ofNat 64 pc } with picks := [{ tids := [0] }] }
def fetches (s : State) (k : Nat) : Bool :=
  decide (s.agenda = []) && match s.picks with
  | p :: r => decide (p.tids.head? = some 0) && match (({ s with picks := r, cur := p } : State).fetch 0).2 with
    | .word w => decide (k = if (decode w).isSome then 0 else 1)
    | .fail _ => decide (k = 2)
    | .wait => decide (k = 3)
  | [] => false

/-- Whether the instruction that the packet fetches moves a thread of it. -/
def issuesAs (s : State) (moved : Bool) : Bool :=
  match s.picks with
  | p :: r => match ({ s with picks := r, cur := p } : State).fetch 0 with
    | (s1, .word w) => match (match decode w with
        | some i => exec i s1
        | none => execIllegalInstruction w s1) with
      | .next s2 => decide ((s1.cur.tids.any fun u => s1.movedBy s2 u) = moved)
      | .fault _ => false
      | .refused _ => false
    | (_, .fail _) => false
    | (_, .wait) => false
  | [] => false
/-- EXIT of a thread with a store pending waits. -/
def waitingBench : State := fetchBench 0x76a00000 0 fun s => { s with pend := [testOp .store] }

theorem witness_stepRunsDecoded :
    (issuesAs (fetchBench 0x76a00000 0) true && issuesAs (fetchBench 0 0) true && issuesAs waitingBench false) = true
    ∧ (let p : Packet := { tids := [191 * 12288], pipe := 3, pipes := [3], pc := some 0 }; p.pc = some 0 ∧ p.tids.head? = some (191 * 12288) ∧ isQueueTid (191 * 12288) = false)
    ∧ (fetches (fetchBench 0x76a00000 0) 0 && fetches (fetchBench 0 0) 1 && fetches (fetchBench 0 2) 2
      && fetches (fetchBench 0 0 fun s => s.poke 0x24008 8 0x22) 3) = true
    ∧ (({ bench [] with agenda := [.slewGroupRelease] } : State).agenda = [.slewGroupRelease] ∧ (bench []).agenda = [] ∧ (bench []).picks = []
      ∧ ({ bench [] with picks := [{ tids := [], pipe := 0 }] } : State).picks = [{ tids := [], pipe := 0 }])
    ∧ (let s := fetchBench 0x76a00000 0
       match s.translateEngine (whoOf 0) (s.ctxOf 0) (s.thread 0).pc.toNat 4 .fetch with
       | (s1, .ok tr) => decide ((s.thread 0).pc.toNat % 4 = 0) && tr.remote.isNone && !s1.mapPending (lineOf tr.pa) && !inRegs tr.pa && (s1.fencedErr tr.pa).isNone && decide (tr.cls ≠ 1) && decide (tr.cls ≠ 2)
       | _ => false) = true :=
  ⟨by decide +kernel, by decide +kernel, by decide +kernel, ⟨rfl, rfl, rfl, rfl⟩, by decide +kernel⟩

theorem witness_memoryFrames :
    ((testOp .store).place = 0 ∧ (bench []).direct (testOp .store) = false ∧ dirtyBench.l1HasLine 0 0 0x10fffc = true ∧ (bench []).l1Full 191 = false)
    ∧ ((bench []).cores.all fun x => decide (x.2.maps = [])) = true ∧ (bench []).frames = []
    ∧ (testOp (.load false)).dst = .reg 8 1 ∧ (testOp (.load false)).bcast = [] := by decide +kernel

theorem witness_constantCodes : 112 ≤ 127 ∧ (⟨0, 127, 7, .i32, .src⟩ : Pos).code = 127 := ⟨by decide, rfl⟩

end Sys2Proof.Machine
end

section
/-! PROOF. Special registers and address registers as operands (R26, R59, R63). -/

namespace Sys2Proof.Machine

/-! ### Completion bits (R63, R225) -/

/-- A number built by adding the powers of two that a test selects is below the next power, and its bits are the test. -/
theorem sumOfBits_lt_and_testBit (p : Nat → Bool) (n : Nat) :
    let m := (List.range n).foldl (fun m i => if p i then m + 2 ^ i else m) 0
    m < 2 ^ n ∧ ∀ i, m.testBit i = (decide (i < n) && p i) := by
  induction n with
  | zero => simp
  | succ n ih =>
    simp only [List.range_succ, List.foldl_append, List.foldl_cons, List.foldl_nil] at ih ⊢
    obtain ⟨hlt, hbits⟩ := ih
    generalize (List.range n).foldl (fun m i => if p i then m + 2 ^ i else m) 0 = m at hlt hbits ⊢
    cases hp : p n with
    | false =>
      refine ⟨by simp only [Bool.false_eq_true, if_false]; omega, fun i => ?_⟩
      rw [if_neg Bool.false_ne_true, hbits]
      rcases Nat.lt_trichotomy i n with h | rfl | h
      · simp [h, Nat.lt_succ_of_lt h]
      · simp [hp]
      · simp [Nat.not_lt.2 (Nat.le_of_lt h), Nat.not_lt.2 (Nat.succ_le_of_lt h)]
    | true =>
      refine ⟨by simp only [if_true]; omega, fun i => ?_⟩
      rw [if_pos rfl, Nat.add_comm]
      rcases Nat.lt_trichotomy i n with h | rfl | h
      · simp [Nat.testBit_two_pow_add_gt h, hbits, h, Nat.lt_succ_of_lt h]
      · simp [Nat.testBit_two_pow_add_eq, hbits, hp]
      · rw [Nat.testBit_lt_two_pow (Nat.lt_of_lt_of_le (by omega) (Nat.pow_le_pow_right (by omega) (Nat.succ_le_of_lt h)))]
        simp [Nat.not_lt.2 (Nat.succ_le_of_lt h)]

/-- Bit `i` of 32 completion bits from `lo` says whether the crew has a tag `lo + i` that is done. -/
theorem doneBits_testBit (k : Crew) (lo n i : Nat) (hi : i < n) :
    (k.doneBits lo n).testBit i = (decide (lo + i < k.ntags) && (k.tags.lookD (lo + i) {}).done) := by
  have h := (sumOfBits_lt_and_testBit (fun i => decide (lo + i < k.ntags) && (k.tags.lookD (lo + i) {}).done) n).2 i
  simpa [Crew.doneBits, hi] using h

/-! ### Special registers (R63) -/

/-- A crew's index is rebuilt from its three grid coordinates. -/
theorem index_of_coordinates (n gx gy : Nat) : n % gx + gx * (n / gx % gy + gy * (n / gx / gy)) = n := by
  rw [Nat.mod_add_div, Nat.mod_add_div]

/-- The codes that name a wave, a thread and its counters, on a core thread. -/
theorem special_thread {s : State} {t : Nat} {w : Wave} {k : Crew} {g : Grid} (hq : isQueueTid t = false)
    (hw : s.waves.look (waveOf t) = some w) (hk : s.crewOf t = some k) (hg : s.gridOf t = some g) :
    s.special t 96 = w.index * 128 + laneOf t ∧ s.special t 97 = laneOf t ∧ s.special t 98 = w.index ∧ s.special t 99 = k.index % 2 ^ 32
    ∧ s.special t 104 = (s.core (coreOf t)).cyc.toNat % 2 ^ 32 ∧ s.special t 105 = (s.core (coreOf t)).etime.toNat / 16 % 2 ^ 32
    ∧ s.special t 106 = k.doneBits 0 32 ∧ s.special t 107 = k.doneBits 32 32
    ∧ s.special t 108 = (s.thread t).slb.toNat ∧ s.special t 110 = g.field 8 8 := by
  simp [State.special, hq, hw, hk, hg]

/-- The codes that name a crew's coordinates in its grid, on a core thread. -/
theorem special_coordinates {s : State} {t : Nat} {k : Crew} {g : Grid} (hq : isQueueTid t = false)
    (hk : s.crewOf t = some k) (hg : s.gridOf t = some g) :
    let gx := g.field 24 4 + 1
    let gy := g.field 28 2 + 1
    s.special t 100 = k.index % gx ∧ s.special t 101 = k.index / gx % gy ∧ s.special t 102 = k.index / gx / gy := by
  simp [State.special, hq, hk, hg]

/-- On a queue program %core and %cyc read the queue core's, and every code but %etime beside them 0. -/
theorem special_queue {s : State} {t c : Nat} (hq : isQueueTid t = true) :
    (c = 103 → s.special t c = 0x3f8 + queueOf t / 8) ∧ (c = 104 → s.special t c = (s.qcore (queueOf t / 8)).cyc.toNat % 2 ^ 32)
    ∧ (c ≠ 103 → c ≠ 104 → c ≠ 105 → s.special t c = 0) := by
  refine ⟨?_, ?_, fun h3 h4 h5 => ?_⟩
  · rintro rfl; simp [State.special, hq]
  · rintro rfl; simp [State.special, hq]
  · simp [State.special, hq, h3, h4, h5]

/-- A source position with a special register's code reads it at the position's width. -/
theorem source_special (s : State) (t : Nat) (p : Pos) (h : 96 ≤ p.code) (h' : p.code < 112) :
    s.source t p none = ⟨if p.kind.wide then s.special t p.code else s.special t p.code % 2 ^ 32, false⟩ := by
  simp only [State.source]
  rw [if_neg (by omega), if_neg (by omega), if_pos h']

/-! ### Scratchpad operands move address registers (R59) -/

/-- The thread after one position has been resolved: a post-increment has added the operand's size to its address register. -/
def Thread.past (x : Thread) (p : Pos) : Thread :=
  if p.isScratch = true ∧ 72 ≤ p.code then
    x.setAreg ((p.code - 64) % 8) ⟨BitVec.ofNat 32 ((x.areg' ((p.code - 64) % 8)).val.toNat + p.size), (x.areg' ((p.code - 64) % 8)).psn⟩
  else x

/-- A scratchpad operand whose address is not a multiple of its size, or not within the allocation, ends the resolution with its cause. -/
theorem resolveScratch_invalid {x : Thread} {alloc base : Nat} {p : Pos} (r : List Pos) (hp : p.isScratch = true) :
    let a := (x.areg' ((p.code - 64) % 8)).val.toNat
    a % p.size ≠ 0 ∨ alloc < a + p.size →
    resolveScratch x alloc base (p :: r) = .error { group := 1, code := 9, d0 := a, d1 := p.code + p.size * 256 } := by
  intro a h
  simp only [resolveScratch, hp, if_true]
  rw [if_pos (by simpa using h)]

/-- A valid one names its byte, and the positions after it find the address register moved on. -/
theorem resolveScratch_valid {x : Thread} {alloc base : Nat} {p : Pos} (r : List Pos) (hp : p.isScratch = true) :
    let a := (x.areg' ((p.code - 64) % 8)).val.toNat
    a % p.size = 0 → a + p.size ≤ alloc →
    resolveScratch x alloc base (p :: r) = (resolveScratch (x.past p) alloc base r).map fun y => (y.1, some (base + a) :: y.2) := by
  intro a h h'
  simp only [resolveScratch, Thread.past, hp, if_true, true_and]
  rw [if_neg (by simpa [a] using ⟨h, h'⟩)]
  cases resolveScratch _ alloc base r <;> rfl

/-- Any other position names no byte and leaves the thread as it is. -/
theorem resolveScratch_other {x : Thread} {alloc base : Nat} {p : Pos} (r : List Pos) (hp : p.isScratch = false) :
    resolveScratch x alloc base (p :: r) = (resolveScratch (x.past p) alloc base r).map fun y => (y.1, none :: y.2) := by
  simp only [resolveScratch, Thread.past, hp, Bool.false_eq_true, if_false, false_and]
  cases resolveScratch x alloc base r <;> rfl

/-- Positions that resolve: so do those after the first, from the thread past it. -/
theorem resolveScratch_tail {x z : Thread} {alloc base : Nat} {p : Pos} {r : List Pos} {l : List (Option Nat)}
    (h : resolveScratch x alloc base (p :: r) = .ok (z, l)) : ∃ l', resolveScratch (x.past p) alloc base r = .ok (z, l') := by
  have tail (b : Option Nat) (e : resolveScratch x alloc base (p :: r) = (resolveScratch (x.past p) alloc base r).map fun y => (y.1, b :: y.2)) :
      ∃ l', resolveScratch (x.past p) alloc base r = .ok (z, l') := by
    rw [e] at h
    cases hr : resolveScratch (x.past p) alloc base r with
    | error c => rw [hr] at h; cases h
    | ok y => rw [hr] at h; cases h; exact ⟨y.2, rfl⟩
  cases hp : p.isScratch with
  | false => exact tail none (resolveScratch_other r hp)
  | true =>
    by_cases hv : (x.areg' ((p.code - 64) % 8)).val.toNat % p.size = 0 ∧ (x.areg' ((p.code - 64) % 8)).val.toNat + p.size ≤ alloc
    · exact tail _ (resolveScratch_valid r hp hv.1 hv.2)
    · rw [resolveScratch_invalid r hp (by omega)] at h
      cases h

/-- An address register that no post-increment of a position names stays as it was. -/
theorem areg_past {x : Thread} {p : Pos} {k : Nat} (h : p.isScratch = true → 72 ≤ p.code → (p.code - 64) % 8 ≠ k) : (x.past p).areg' k = x.areg' k := by
  simp only [Thread.past]
  split
  · next hp =>
    obtain ⟨hs, hc⟩ := hp
    exact FMap.lookD_put_ne _ _ _ (h hs hc).symm
  · rfl

theorem areg_resolveScratch {alloc base k : Nat} {ps : List Pos} {x z : Thread} {l : List (Option Nat)}
    (h : resolveScratch x alloc base ps = .ok (z, l)) (hk : ∀ p ∈ ps, p.isScratch = true → 72 ≤ p.code → (p.code - 64) % 8 ≠ k) :
    z.areg' k = x.areg' k := by
  induction ps generalizing x l with
  | nil =>
    simp only [resolveScratch, Except.ok.injEq, Prod.mk.injEq] at h
    rw [h.1]
  | cons p r ih =>
    obtain ⟨l', h'⟩ := resolveScratch_tail h
    rw [ih h' fun q hq => hk q (by simp [hq]), areg_past (hk p (by simp))]

/-- Moving past a position whose address register holds no error still to be found changes address registers alone. -/
theorem past_frame {x : Thread} {p : Pos} (h : p.isScratch = true → 4096 + (p.code - 64) % 8 ∉ x.latent) :
    x.past p = { x with areg := (x.past p).areg } := by
  simp only [Thread.past]
  split
  · rename_i hp
    have : x.latent.filter (· ≠ 4096 + (p.code - 64) % 8) = x.latent := by
      simp only [List.filter_eq_self, decide_eq_true_eq]
      rintro k hk rfl
      exact h hp.1 hk
    simp only [Thread.setAreg, this]
  · rfl

theorem resolveScratch_frame {alloc base : Nat} {ps : List Pos} {x z : Thread} {l : List (Option Nat)}
    (h : resolveScratch x alloc base ps = .ok (z, l)) (hl : ∀ p ∈ ps, p.isScratch = true → 4096 + (p.code - 64) % 8 ∉ x.latent) :
    z = { x with areg := z.areg } := by
  induction ps generalizing x l with
  | nil =>
    simp only [resolveScratch, Except.ok.injEq, Prod.mk.injEq] at h
    rw [← h.1]
  | cons p r ih =>
    obtain ⟨l', h'⟩ := resolveScratch_tail h
    have hp := past_frame (hl p (by simp))
    have hz := ih h' (by rw [hp]; exact fun q hq => hl q (by simp [hq]))
    rw [hp] at hz
    exact hz

/-- Operands that are read come from a resolution of the instruction's positions. -/
theorem operands_resolve {i : Instr} {s : State} {t : Nat} {lead : Option (List OpVal)} {x' : Thread} {vs : List (Pos × OpVal)} {d : Dest}
    {notes : List Cause} (h : operands i s t lead = .ok (x', vs, d, notes)) :
    ∃ l, resolveScratch (s.thread t) (s.allocOf t).1 (s.allocOf t).2 i.positions = .ok (x', l) := by
  simp only [operands] at h
  repeat' split at h
  all_goals cases h
  all_goals exact ⟨_, ‹_›⟩

theorem Solo.resolves {i : Instr} {s : State} {t : Nat} {x' : Thread} {vs : List (Pos × OpVal)} {d : Dest} (h : Solo i s t x' vs d) :
    ∃ l, resolveScratch (s.thread t) (s.allocOf t).1 (s.allocOf t).2 i.positions = .ok (x', l) := by
  have hr := h.reads
  simp only [laneOperands] at hr
  split at hr
  · cases hr
  · exact operands_resolve hr

/-- The address registers that a sound instruction's scratchpad operands name hold no error still to be found (R375). -/
theorem Solo.areg_sound {i : Instr} {s : State} {t : Nat} {x' : Thread} {vs : List (Pos × OpVal)} {d : Dest} (h : Solo i s t x' vs d)
    {p : Pos} (hp : p ∈ i.positions) (hs : p.isScratch = true) : 4096 + (p.code - 64) % 8 ∉ (s.thread t).latent := by
  intro hk
  have hread : (readKeys i (s.thread t).wb).contains (4096 + (p.code - 64) % 8) = true := by
    simp only [readKeys, List.contains_eq_mem, List.mem_append, List.mem_flatMap, decide_eq_true_eq]
    exact .inl ⟨p, hp, by simp [hs]⟩
  have := List.filter_eq_nil_iff.1 h.sound _ hk
  exact this hread

/-- Settles O47: the special registers by code, then the address registers by induction over the positions. -/
theorem specialAndAddressRegisters : Obligations.SpecialAndAddressRegisters := by
  refine ⟨⟨?_, fun s t c hq => special_queue hq, source_special⟩, ?_, ?_, ?_⟩
  · intro s t w k g hq hw hk hg gx gy
    obtain ⟨h96, h97, h98, h99, h104, h105, h106, h107, h108, h110⟩ := special_thread hq hw hk hg
    obtain ⟨h100, h101, h102⟩ := special_coordinates hq hk hg
    refine ⟨h96, h97, h98, h99, ?_, ?_, ?_, h104, h105, h108, h110, fun i hi => ?_, fun i hi => ?_⟩
    · rw [h100]; exact Nat.mod_lt _ (Nat.succ_pos _)
    · rw [h101]; exact Nat.mod_lt _ (Nat.succ_pos _)
    · rw [h100, h101, h102]; exact index_of_coordinates _ _ _
    · rw [h106, doneBits_testBit _ _ _ _ hi, Nat.zero_add]
    · rw [h107, doneBits_testBit _ _ _ _ hi]
  · intro x alloc base p r hp k a y
    have hy : y = x.past p := by simp only [y, k, a, Thread.past, hp, true_and]
    refine ⟨resolveScratch_invalid r hp, fun h h' => ?_⟩
    rw [resolveScratch_valid r hp h h', hy]
    exact ⟨fun c hc => by rw [hc]; rfl, fun z l hl => by rw [hl]; rfl⟩
  · intro i s t x' vs d k h hk
    obtain ⟨l, hl⟩ := h.resolves
    exact areg_resolveScratch hl hk
  · intro i s t x' vs d h
    obtain ⟨l, hl⟩ := h.resolves
    exact resolveScratch_frame hl fun p hp hs => h.areg_sound hp hs

end Sys2Proof.Machine
end

section
/-! PROOF. The state after reset: every storage reads 0 and every table its default (R44, R67, R230, R258, R284, R309, R338, R345, R346). -/

namespace Sys2Proof.Machine

/-! ### Reads of an empty table -/

theorem byte_empty (a : Nat) : ({} : PMem).byte a = 0 := rfl
theorem poisoned_empty (a : Nat) : ({} : PMem).poisoned a = false := rfl
theorem thread_reset (t : Nat) : State.reset.thread t = {} := rfl
theorem core_reset (k : Nat) : State.reset.core k = {} := rfl
theorem queue_reset (q : Nat) : State.reset.queue q = {} := rfl

/-- No slot is valid: its CTL is 0. -/
theorem slot_reset_valid (q : Nat) : (State.reset.slot q).valid = false := rfl

/-- No budget has been set and no token lent. -/
theorem tokens_reset : State.reset.tokens = ⟨0, 0, 0, 0⟩ := rfl

theorem inv_reset : State.reset.Inv := ⟨memWf_reset, rfl, rfl⟩

/-- Settles O59: each read of the state after reset is the default of an empty table. -/
theorem resetState : Obligations.ResetState := by
  refine ⟨fun a => ?_, fun t => ?_, fun k => ?_, fun q => ?_, tokens_reset, rfl, rfl, rfl, rfl, rfl, rfl, rfl, inv_reset⟩
  · exact ⟨byte_empty a, poisoned_empty a, byte_empty a, byte_empty a, byte_empty a⟩
  · rw [thread_reset]
    exact ⟨rfl, rfl, rfl, rfl, rfl, rfl⟩
  · rw [core_reset]
    exact ⟨rfl, rfl, rfl, rfl, rfl, rfl, rfl, rfl, rfl, rfl, rfl⟩
  · rw [queue_reset]
    exact ⟨rfl, rfl, rfl, rfl, slot_reset_valid q⟩

end Sys2Proof.Machine
end

section
/-! PROOF. What the events of a core come to, by the condition each tests: its cycle, join-hold, saturation, gating and the convergence watchdog (R33, R35, R41 to R44, R291, R427). -/

namespace Sys2Proof.Machine

/-! ### ISSUE_CYCLE (R41, R291) -/

/-- What the choice of a core's packets looks at once its cycle has begun. -/
def State.issueView (s : State) (core : Nat) : View :=
  let ts := s.threadsOn core
  let es := (s.core core).entries
  let cs := streamed (es.flatMap fun e => if e.pc = ovfPc then s.overflowCand core ts es e else s.entryCands core ts e) (s.core core).blocks
  { core := s.core core, cands := cs.1 ++ s.groups core ts, blocks := cs.2, now := (s.core core).cyc.toNat,
    last := fun w k => ((s.waves.look (core * 96 + w)).map fun x => x.last.lookD k 0).getD 0 }

theorem execIssueCycle_runs {core : Nat} {s : State} (hc : core < 192) (hr : (s.core core).runs = true) (hi : s.issuingOn core = false) :
    execIssueCycle core s = .next ((s.beginCycle core).issue core ((s.beginCycle core).issueView core) ((s.beginCycle core).issueView core).choice) := by
  have hlt : ¬ Config.cores ≤ core := Nat.not_le.2 hc
  simp only [execIssueCycle, hr, hi, hlt, decide_false, Bool.not_true, Bool.or_self, Bool.false_eq_true, if_false]
  rfl

theorem execIssueCycle_stands {core : Nat} {s : State} (h : (s.core core).runs = false ∨ s.issuingOn core = true) : execIssueCycle core s = .next s := by
  simp only [execIssueCycle]
  rw [if_pos (by rcases h with h | h <;> simp [h])]

/-- A core's cycle adds one to CYC and its length, by the slowest class in its execute stages, to ETIME (R41, R43). -/
theorem cycle_counters (c : Core) : let k := c.stages.foldl (fun m x => max m x.2.2.1) 0
    c.cycle.cyc = c.cyc + 1 ∧ c.cycle.htime = c.htime ∧ c.cycle.entries = c.entries
      ∧ c.cycle.etime = c.etime + BitVec.ofNat 64 (if k = 0 then 450 else if k = 1 then 571 else if k = 2 then 700 else 1000) :=
  ⟨rfl, rfl, rfl, rfl⟩

/-! ### JOIN_HOLD_TIMEOUT (R35), AGE_SATURATION (R33), CLOCK_GATE (R44) -/

theorem execJoinHoldTimeout_held {core slot : Nat} {pc : Dword} {e : Entry} {s : State} (he : entryAt (s.core core).entries slot pc.toNat = some e)
    (hh : e.hold = true) : execJoinHoldTimeout core slot pc s = .next (if 4096 ≤ e.holdAge then s.clearHold core slot pc.toNat else s) := by
  simp only [execJoinHoldTimeout, he, hh, Bool.true_and, decide_eq_true_eq]
  split <;> rfl

/-- The only entry of a core, its age at 4096, takes the next place among the saturated ones. -/
theorem saturate_single {c : Core} {e : Entry} {p : Entry → Bool} (hc : c.entries = [e]) (ha : e.age = 4096) (hs : e.sat = none) (hp : p e = true) :
    c.saturate p = { c with entries := [{ e with sat := some c.satNext }], satNext := c.satNext + 1 } := by
  simp [Core.saturate, hc, ha, hs, hp]

theorem execClockGate_idle {core : Nat} (ps : Nat) {s : State} (hc : core < 192) (hw : s.wavesOn core = []) (he : s.engineOn core = false)
    (hh : (s.core core).held = false) (hf : (s.core core).fenced = false) : execClockGate core ps s = .next (s.setCore core ((s.core core).stand ps)) := by
  have hlt : ¬ Config.cores ≤ core := Nat.not_le.2 hc
  simp [execClockGate, hlt, hw, he, hh, hf]

/-! ### CONV_WATCHDOG (R427) -/

/-- A group of one thread that has waited its context's limit leaves its place and traps. -/
theorem execConvWatchdog_single {core slot t : Nat} {pc : Dword} {x : Thread} {since : Nat} {s : State}
    (hg : ((s.threadsOn core).filter fun y => slotOf y.1 = slot && y.2.pc = pc && y.2.run.isConverging) = [(t, x)]) (hx : x.run = .converging since)
    (h0 : 0 < s.convLimit (s.ctxOf t)) (hd : s.convLimit (s.ctxOf t) * 10 ^ 6 ≤ elapsed (s.etimeOf t) since) :
    execConvWatchdog core slot pc s =
      .next ((s.leave t).report 2 [(t, { group := 8, code := 4, d0 := s.convLimit (s.ctxOf t), whole := true })] (s.peek t).toNat 0) := by
  simp only [execConvWatchdog, hg, List.any_cons, List.any_nil, hx, hd, decide_true, Bool.or_false, Bool.not_true, (Nat.ne_of_gt h0), decide_false,
    Bool.false_eq_true, if_false]
  rfl

/-- Settles O38, one event at a time. -/
theorem coreEvents : Obligations.CoreEvents := by
  refine ⟨fun core s hc hr hi => ?_, fun core s h => ?_, cycle_counters, fun core slot pc e s he hh => ?_, fun core slot pc e s hes hsl hpc ha hs => ?_,
    fun core ps s hc hw he hh hf => ?_, fun core slot t pc x since lim s hg hx hlim h0 hd => ?_⟩
  · rw [exec_issueCycle]
    exact execIssueCycle_runs hc hr hi
  · rw [exec_issueCycle]
    exact execIssueCycle_stands h
  · rw [exec_joinHoldTimeout, execJoinHoldTimeout_held he hh]
    exact ⟨fun h => by rw [if_pos h], fun h => by rw [if_neg (Nat.not_le.2 h)]⟩
  · rw [exec_ageSaturation, execAgeSaturation, saturate_single hes ha hs (by simp [hsl, hpc])]
  · rw [exec_clockGate, execClockGate_idle ps hc hw he hh hf]
    rfl
  · subst hlim
    rw [exec_convWatchdog, execConvWatchdog_single hg hx h0 hd]

end Sys2Proof.Machine
end

section
/-! PROOF. What the events of crews come to: placement, stealing, ends, comparison of copies, pre-emption and the crew watchdog (R28, R282, R289, R290, R296, R297, R299, R407, R426, R427). -/

namespace Sys2Proof.Machine

/-! ### CREW_PLACE and CREW_STEAL (R289, R290) -/

theorem execCrewPlace_found {cluster : Nat} {s s1 : State} (h : (s.waiting cluster).findSome? (fun w => s.placeOne cluster w.2) = some s1) :
    execCrewPlace cluster s = .next s1 := by
  rw [execCrewPlace, h, Option.getD_some]

theorem execCrewSteal_sibling {cluster h v : Nat} {s : State} (hc : cluster < 48) (hw : s.waiting cluster = [])
    (hl : s.largest (((List.range 12).map (12 * (cluster / 12) + ·)).filter (· ≠ cluster)) = some (h, v)) (hr : s.hasRoom h cluster = true) :
    execCrewSteal cluster s = .next (s.stealFrom h v cluster fun f n => [(cluster, f, n)]) := by
  have hc' : ¬ 48 ≤ cluster := Nat.not_le.2 hc
  simp only [execCrewSteal, hc', hw, hl, hr, List.isEmpty_nil, decide_false, Bool.not_true, Bool.or_self, Bool.false_eq_true, if_false, if_true]

/-! ### CREW_END (R28) -/

/-- How a crew leaves the machine once its cores are free: what is still to be compared of it is dropped, its waves go, and it counts for its grid. -/
def State.dropCrew (s : State) (k : Nat) (c : Crew) : State :=
  let s := (s.duals.filter fun d => d.crew = k).foldl
    (fun (s : State) d => if d.op.op = .store then s.l1Remove d.op.core d.op.ctx d.op.pa d.op.size else s) s
  let s := ({ s with duals := s.duals.filter fun d => d.crew ≠ k } : State).removeWaves k
  let s := if 2 ≤ c.copy then s.setCrew k { c with run := .ended, saved := {} } else { s with crews := s.crews.del k }
  let s := match s.grids.look c.grid with
    | none => s
    | some g => if c.copy = 0 || c.copy = 3 then { s with grids := s.grids.put c.grid { g with ended := g.ended + 1 } } else s
  (s.endOfGrid c.grid).switchOff (dieOfCore c.core)

theorem execCrewEnd_free {k : Nat} {c : Crew} {s : State} (hk : s.crews.look k = some c) (hr : c.run ≠ .ended) (hb : s.crewBusy k = false) :
    let s0 := if c.run = .aborted then s.endAborted k else s
    execCrewEnd k s = .next (((s0.cores.map (·.1)).foldl (fun (s : State) x => s.freeOn k x) s0).dropCrew k c) := by
  simp only [execCrewEnd, hk, hr, hb, decide_false, Bool.or_self, Bool.false_eq_true, if_false]
  rfl

/-- A crew that is no copy and has nothing left to be compared is removed and counts as ended for its grid. -/
theorem dropCrew_plain {k : Nat} {c : Crew} {g : Grid} {s : State} (hc : c.copy = 0) (hd : s.duals.all (fun d => d.crew ≠ k) = true)
    (hg : (s.removeWaves k).grids.look c.grid = some g) :
    let s3 : State := { s.removeWaves k with crews := (s.removeWaves k).crews.del k }
    s.dropCrew k c = (State.endOfGrid { s3 with grids := s3.grids.put c.grid { g with ended := g.ended + 1 } } c.grid).switchOff (dieOfCore c.core) := by
  have hnone : s.duals.filter (fun d => d.crew = k) = [] := by simpa [List.filter_eq_nil_iff] using hd
  have hall : ({ s with duals := s.duals.filter fun d => d.crew ≠ k } : State) = s := by rw [List.filter_eq_self.2 (List.all_eq_true.1 hd)]
  simp only [State.dropCrew, hnone, List.foldl_nil]
  rw [hall]
  simp only [hc, hg, Nat.reduceLeDiff, if_false, decide_true, Bool.true_or, if_true]

/-! ### SAMPLED_DIGEST_COMPARE (R299, R430) -/

/-- The two copies of a crew that have both ended are removed with their digests and samples. -/
def State.withoutCopies (s : State) (k j : Nat) : State :=
  { s with
    crews := (s.crews.del k).del j
    digests := s.digests.filter fun x => x.1 / 2 ^ 16 ≠ k && x.1 / 2 ^ 16 ≠ j
    samples := s.samples.filter fun x => x.1.1 ≠ k }

theorem execSampledDigestCompare_ended {k j : Nat} {p d : Crew} {s : State} (hk : s.crews.look k = some p) (ht : p.twin = some j)
    (hj : s.crews.look j = some d) (hc : p.copy = 3) (hp : p.run = .ended) (hd : d.run = .ended) :
    let gone := s.withoutCopies k j
    let r := s.crewRec k 0 8 3 (leNat ((s.crewDigest k p.waves).take 8)) (leNat ((s.crewDigest j d.waves).take 8))
    execSampledDigestCompare k s = .next (if s.crewDigest k p.waves = s.crewDigest j d.waves then gone.endOfGrid p.grid
      else (({ r with crews := gone.crews, digests := gone.digests, samples := gone.samples } : State).noteMismatch p.core d.core).endOfGrid p.grid) := by
  intro gone r
  simp only [execSampledDigestCompare, hk, ht, hj, hc, hp, hd, ne_eq, not_true, decide_false, Bool.or_self, Bool.false_eq_true, if_false]
  split <;> rfl

/-! ### CREW_WATCHDOG (R427) -/

theorem execCrewWatchdog_due {k : Nat} {c : Crew} {s : State} (hk : s.crews.look k = some c) (hb : c.begun = true)
    (hr : c.run = .running ∨ c.run = .stopping) (h0 : 0 < s.crewLimit (s.crewCtx c))
    (hd : s.crewLimit (s.crewCtx c) * 10 ^ 6 ≤ elapsed (s.crewTime c) c.began) :
    execCrewWatchdog k s =
      .next ((s.crewRec k 2 8 5 (elapsed (s.crewTime c) c.began / 10 ^ 6) (s.crewLimit (s.crewCtx c))).abortCrew k) := by
  simp only [execCrewWatchdog, hk]
  refine if_pos ?_
  simp only [hb, Nat.ne_of_gt h0, hd, ne_eq, not_false_eq_true, decide_true, Bool.and_true, Bool.true_and, Bool.or_eq_true, decide_eq_true_eq]
  exact hr

/-! ### The dispatcher's pre-emption (R296) -/

/-- The crews whose wait is over and that still have no room, with what their placement would remove. -/
theorem execPreemptDispatcher_eq (cl : Nat) (s : State) :
    execPreemptDispatcher cl s =
      match (((s.waiting cl).filter fun w => 20 * 10 ^ 6 ≤ s.waited w.2 && (s.placeOne cl w.2).isNone).map fun w => s.removal cl w.1 w.2).find? (· ≠ []) with
      | none => .next s
      | some ks => .next (ks.foldl (fun s k => s.beginPreempt k) s) := rfl

/-- The shortest part of a list has no other members than the list. -/
theorem mem_of_shortest {test : List Nat → Bool} {acc l m : List Nat} {k : Nat} (h : shortest test acc l = some m) (hk : k ∈ m) : k ∈ acc ∨ k ∈ l := by
  induction l generalizing acc with
  | nil =>
    simp only [shortest] at h
    split at h
    · exact .inl (Option.some.inj h ▸ hk)
    · cases h
  | cons x r ih =>
    simp only [shortest] at h
    split at h
    · exact .inl (Option.some.inj h ▸ hk)
    · rcases ih h with hm | hm
      · rcases List.mem_append.1 hm with hm | hm
        · exact .inl hm
        · exact .inr (List.mem_cons.2 (.inl (List.mem_singleton.1 hm)))
      · exact .inr (List.mem_cons_of_mem _ hm)

/-- A crew that a priority may remove runs, is at least 8 priorities below it, and holds no open window. -/
theorem mem_victims {s : State} {cores : List Nat} {p k : Nat} (h : k ∈ s.victims cores p) :
    ∃ c, (k, c) ∈ s.crews ∧ c.run = .running ∧ c.prio + 8 ≤ p ∧ s.holdsWindow k = false := by
  simp only [State.victims, List.mem_map, List.mem_mergeSort, List.mem_filter, Bool.and_eq_true, decide_eq_true_eq, Bool.not_eq_true'] at h
  obtain ⟨⟨k', c⟩, ⟨hmem, ⟨⟨hrun, -⟩, hprio⟩, hwin⟩, rfl⟩ := h
  exact ⟨c, hmem, hrun, hprio, hwin⟩

theorem mem_removal {s : State} {cl : Nat} {r : Rank} {w : Waiting} {k : Nat} (h : k ∈ s.removal cl r w) : ∃ cores, k ∈ s.victims cores r.prio := by
  simp only [State.removal] at h
  split at h
  · cases h
  · split at h
    · cases h
    · next g _ _ =>
      cases hf : (s.boundCores (s.slot g.queue)).findSome? fun core =>
          shortest (fun skip => s.fits cl w g core (s.leaving (s.boundCores (s.slot g.queue)) ++ skip)) []
            (s.victims (if g.flag 4 then [core, core + 1] else [core]) r.prio) with
      | none => rw [hf] at h; cases h
      | some m =>
        rw [hf] at h
        obtain ⟨core, -, hs⟩ := List.exists_of_findSome?_eq_some hf
        exact ⟨_, (mem_of_shortest hs h).resolve_left (by simp)⟩

/-! ### A pre-emption begins (R297, R407) -/

/-- Windows of a crew are closed on every core. -/
theorem closeWindows_eq (s : State) (k : Nat) : s.closeWindows k = { s with cores := s.cores.map fun (x : Nat × Core) =>
    (x.1, { x.2 with windows := x.2.windows.map fun y => if y.2.crew = k then (y.1, { y.2 with v := false }) else y }) } := rfl

theorem execPreemptLacewing_running {k : Nat} {c : Crew} {s : State} (hk : s.crews.look k = some c) (hr : c.run = .running) :
    execPreemptLacewing k s = .next ((s.closeWindows k).beginPreempt k) := by
  simp only [execPreemptLacewing, hk, hr, ne_eq, not_true, if_false]

theorem beginPreempt_running {k : Nat} {c : Crew} {s : State} (hk : s.crews.look k = some c) (hr : c.run = .running) :
    s.beginPreempt k = s.setCrew k { c with run := .stopping, stopAt := (s.core c.core).etime.toNat } := by
  simp only [State.beginPreempt, hk, hr, if_true, State.crewTime]

/-! ### The save and the restoration (R297, R426) -/

theorem execPreemptSave_drained {k : Nat} {c : Crew} {s : State} (hk : s.crews.look k = some c) (hr : c.run = .stopping) (ht : s.crewThreads k ≠ [])
    (hd : s.draining k c = false) : execPreemptSave k s = .next (if s.saveFenced c then s.failPreempt k 2 else s.saveCrew k c) := by
  have ht' : (s.crewThreads k).isEmpty = false := List.isEmpty_eq_false_iff.2 ht
  simp only [execPreemptSave, hk, hr, ht', hd, ne_eq, not_true, decide_false, Bool.or_self, Bool.false_eq_true, if_false]
  split <;> rfl

theorem execPreemptSaveTimeout_stopping {k : Nat} {c : Crew} {s : State} (hk : s.crews.look k = some c) (hr : c.run = .stopping) :
    execPreemptSaveTimeout k s = .next (if 10 ^ 9 ≤ elapsed (s.core c.core).etime.toNat c.stopAt then s.failPreempt k 1 else s) := by
  simp only [execPreemptSaveTimeout, hk, hr, decide_true, Bool.true_and]
  by_cases h : 10 ^ 9 ≤ elapsed (s.core c.core).etime.toNat c.stopAt
  · rw [if_pos h]
    exact if_pos (decide_eq_true h)
  · rw [if_neg h]
    exact if_neg (mt of_decide_eq_true h)

theorem execCrewResume_restored {k : Nat} {c : Crew} {s s1 : State} (hk : s.crews.look k = some c) (hr : c.run = .resuming)
    (hp : s.savePoisoned c = false)
    (h : (((s.restoreRecs k c).bind fun s => c.holdsBanks.foldl (fun (r : Restore) par => r.bind fun s => s.restoreBank k par) (.ok s)).bind
      fun s => (s.restorePhasers k).bind fun s => s.restoreViews c).bind (fun s => s.restoreMaps k) = .ok s1)
    (hf : (s1.ops.any fun o => o.crew = k && s1.refillHeld o) = false) : execCrewResume k s = .next (s1.finishResume k) := by
  simp only [execCrewResume, hk, hr, hp, h, hf, ne_eq, not_true, Bool.false_eq_true, if_false]

/-- Settles O39, one event at a time. -/
theorem crewEvents : Obligations.CrewEvents := by
  refine ⟨⟨fun cluster s s1 h => ?_, fun cluster h v s hc hw hl hr => ?_, fun k c g s hk hr hb hc hd hg => ?_,
      fun k j p d s hk ht hj hc hp hd => ?_, fun k lim c s hk hb hr hlim h0 hd => ?_⟩,
    fun cl s => ⟨fun ks h => ?_, fun h => ?_⟩, fun cl r w s k h => ?_, fun k c s hk hr => ?_, fun k c s hk hr => beginPreempt_running hk hr,
    fun k c s hk hr ht hd => ⟨fun hf => ?_, fun hf => ?_⟩, fun k c s hk hr => ⟨fun h => ?_, fun h => ?_⟩, fun k c s s1 hk hr hp h hf => ?_⟩
  · rw [exec_crewPlace, execCrewPlace_found h]
  · rw [exec_crewSteal, execCrewSteal_sibling hc hw hl hr]
  · rw [exec_crewEnd, execCrewEnd_free hk hr hb, dropCrew_plain hc hd hg]
  · rw [exec_sampledDigestCompare]
    exact execSampledDigestCompare_ended hk ht hj hc hp hd
  · subst hlim
    rw [exec_crewWatchdog, execCrewWatchdog_due hk hb hr h0 hd]
  · rw [exec_preemptDispatcher, execPreemptDispatcher_eq, h]
  · have hn : (((s.waiting cl).filter fun w => 20 * 10 ^ 6 ≤ s.waited w.2 && (s.placeOne cl w.2).isNone).map fun w => s.removal cl w.1 w.2).find? (· ≠ [])
        = none := by
      refine List.find?_eq_none.2 fun ks hks hne => ?_
      obtain ⟨w, hw, rfl⟩ := List.mem_map.1 hks
      exact of_decide_eq_true hne (h w hw)
    rw [exec_preemptDispatcher, execPreemptDispatcher_eq, hn]
  · obtain ⟨cores, hv⟩ := mem_removal h
    exact mem_victims hv
  · rw [exec_preemptLacewing, execPreemptLacewing_running hk hr, closeWindows_eq]
  · rw [exec_preemptSave, execPreemptSave_drained hk hr ht hd, hf]
    rfl
  · rw [exec_preemptSave, execPreemptSave_drained hk hr ht hd, hf]
    rfl
  · rw [exec_preemptSaveTimeout, execPreemptSaveTimeout_stopping hk hr, if_pos h]
  · rw [exec_preemptSaveTimeout, execPreemptSaveTimeout_stopping hk hr, if_neg (Nat.not_le.2 h)]
  · rw [exec_crewResume, execCrewResume_restored hk hr hp h hf]

end Sys2Proof.Machine
end

section
/-! PROOF. Power and heat: what the die manager's events come to (R43, R344, R375, R431, R435, R436). -/

namespace Sys2Proof.Machine

/-! ### The die manager's holds (R344) -/

/-- A loop whose step changes one core as a function of that core alone changes each core of its list once. -/
theorem core_foldl {f : State → Nat → State} {g : Core → Core} (hs : ∀ s c, (f s c).core c = g (s.core c))
    (hn : ∀ s c k, k ≠ c → (f s c).core k = s.core k) {l : List Nat} (hl : l.Nodup) (s : State) (k : Nat) :
    (l.foldl f s).core k = if k ∈ l then g (s.core k) else s.core k := by
  induction l generalizing s with
  | nil => simp
  | cons c r ih =>
    obtain ⟨hc, hr⟩ := List.nodup_cons.1 hl
    rw [List.foldl_cons, ih hr]
    by_cases hk : k = c
    · subst hk
      simp [hc, hs]
    · simp [hk, hn _ _ _ hk]

theorem dieCores_nodup (d : Nat) : (dieCores d).Nodup :=
  List.Pairwise.map (48 * d + ·) (fun _ _ hne heq => hne (Nat.add_left_cancel heq)) List.nodup_range

theorem mem_dieCores (core : Nat) : core ∈ dieCores (core / 48) :=
  List.mem_map.2 ⟨core % 48, List.mem_range.2 (Nat.mod_lt _ (by omega)), Nat.div_add_mod core 48⟩

/-- The die manager holds a core for 1 µs where its clock runs and its last such hold ended 1 µs ago or more. -/
def Core.holdAgain (x : Core) : Core :=
  if x.held || x.lastHold.any (fun e => x.etime.toNat < e + 10 ^ 6) then x else x.hold (10 ^ 6)

theorem core_holdDie (s : State) (core : Nat) : (s.holdDie (core / 48)).core core = (s.core core).holdAgain := by
  rw [State.holdDie, core_foldl (g := Core.holdAgain) (fun s c => ?_) (fun s c k hk => ?_) (dieCores_nodup _), if_pos (mem_dieCores core)]
  · simp only [Core.holdAgain]
    split
    · rfl
    · exact core_setCore_self _ _ _
  · dsimp only
    split
    · rfl
    · exact core_setCore_ne _ _ hk

/-- No hold has ended too recently where every one has ended long enough ago. -/
theorem any_early_of_all_due (o : Option Nat) (n now : Nat) (h : o.all (fun e => e + n ≤ now) = true) : o.any (fun e => now < e + n) = false := by
  cases o with
  | none => rfl
  | some e => simpa using h

theorem holdAgain_due {x : Core} (hh : x.held = false) (h : x.lastHold.all (fun e => e + 10 ^ 6 ≤ x.etime.toNat) = true) :
    x.holdAgain.held = true ∧ x.holdAgain.holdPs = 10 ^ 6 := by
  have hn := any_early_of_all_due _ _ _ h
  have e : x.holdAgain = x.hold (10 ^ 6) := if_neg (by rw [hh, hn]; exact Bool.false_ne_true)
  rw [e]
  exact ⟨rfl, by simp only [Core.hold, hh, Bool.false_eq_true, if_false]⟩

theorem holdAgain_early {x : Core} (hh : x.held = false) (h : x.lastHold.any (fun e => x.etime.toNat < e + 10 ^ 6) = true) : x.holdAgain.held = false := by
  have e : x.holdAgain = x := if_pos (by rw [h, Bool.or_true])
  rw [e, hh]

/-! ### The die's events -/

section
variable {die : Nat} (hd : die < 4) (s : State)
include hd

/-- A die above its cap raises the cadence of the cores that have room, and holds where none has. -/
theorem execPowerAverage_die (w : Nat) :
    let s1 := s.setDie die { s.die die with alerts := 0 }
    let slow := (dieCores die).filter fun c => (s1.core c).cadence < 16
    execPowerAverage die w s = .next (if w ≤ Config.dieCap s1.tokens.cap die then s1 else if slow = [] then s1.holdDie die
      else slow.foldl (fun s c => s.setCore c { s.core c with cadence := min 16 ((s.core c).cadence + 1 + Config.cadenceRise s1.free) }) s1.tick.2) := by
  intro s1 slow
  have hd' : ¬ 4 ≤ die := Nat.not_le.2 hd
  by_cases hw : w ≤ Config.dieCap s1.tokens.cap die
  · simp only [execPowerAverage, hd', if_false, if_pos hw]
    exact if_pos hw
  · by_cases hs : slow = []
    · simp only [execPowerAverage, hd', if_false, if_neg hw, if_pos hs]
      exact (if_neg hw).trans (if_pos (List.isEmpty_iff.2 hs))
    · simp only [execPowerAverage, hd', if_false, if_neg hw, if_neg hs]
      exact (if_neg hw).trans (if_neg (mt List.isEmpty_iff.1 hs))

theorem execRailCurrentAlert_die : execRailCurrentAlert die s =
    .next ((dieCores die).foldl (fun s c => s.setCore c ((s.core c).hold (2 * 10 ^ 5))) (s.setDie die { s.die die with alerts := (s.die die).alerts + 1 })) :=
  if_neg (Nat.not_le.2 hd)

theorem execJunction100c_die : execJunction100c die s =
    .next ((((dieCores die).foldl (fun s c => s.setCore c { s.core c with cadence := 16 }) s).holdDie die).manage 0x436 die) :=
  if_neg (Nat.not_le.2 hd)

end

/-! ### HOLD_END, CORE_SELF_TEST, BACKGROUND_SCRUB -/

/-- A hold that ends after its length passes in ETIME and HTIME and not in CYC, and changes no other part of the machine. -/
theorem execHoldEnd_held {core ps : Nat} {s : State} (hh : (s.core core).held = true) (hp : (s.core core).holdPs = ps) :
    ∃ s', execHoldEnd core ps s = .next s' ∧ (s'.core core).held = false ∧ (s'.core core).cyc = (s.core core).cyc
      ∧ (s'.core core).etime = (s.core core).etime + BitVec.ofNat 64 ps ∧ (s'.core core).htime = (s.core core).htime + BitVec.ofNat 64 ps
      ∧ s'.phys = s.phys ∧ s'.threads = s.threads := by
  refine ⟨_, if_neg (by simp [hh, hp]), ?_⟩
  simp only [core_setCore_self, setCore_phys, setCore_threads, Core.stand, and_self]

theorem execHoldEnd_other {core ps : Nat} {s : State} (h : (s.core core).held = false ∨ (s.core core).holdPs ≠ ps) : execHoldEnd core ps s = .next s :=
  if_pos (by rcases h with h | h <;> simp [h, Ne.symm])

theorem execCoreSelfTest_pass (core : Nat) (s : State) : execCoreSelfTest core true s = .next s := rfl

theorem execCoreSelfTest_fail {core : Nat} (hc : core < 192) (s : State) : execCoreSelfTest core false s = .next (s.fenceCore core 1) :=
  if_neg (by rw [Bool.false_or, decide_eq_true_eq]; exact Nat.not_le.2 hc)

theorem execBackgroundScrub_good (p : StoragePlace) (s : State) : execBackgroundScrub p false s = .next s := rfl

theorem execBackgroundScrub_memory {store : Nat} (pa : Nat) (s : State) (h : store = 4 ∨ store = 5) :
    execBackgroundScrub ⟨store, pa⟩ true s =
      .next (if inHbm pa then (({ s with phys := s.phys.mark (pa / 8) true } : State).manage 0x375 pa).abortPoisoned else s) := by
  have hs : (decide (store = 4) || decide (store = 5)) = true := by simpa using h
  simp only [execBackgroundScrub, hs, Bool.not_true, Bool.false_eq_true, if_false, if_true]
  cases inHbm pa <;> rfl

theorem execBackgroundScrub_other {store : Nat} (pa : Nat) (s : State) (h4 : store ≠ 4) (h5 : store ≠ 5) :
    execBackgroundScrub ⟨store, pa⟩ true s = .next (s.upset store pa) := by
  simp [execBackgroundScrub, h4, h5]

/-! ### HDIE_OVERTEMP (R436) -/

@[simp] theorem powerOff_dies (s : State) (d : Nat) : (s.powerOff d).dies = s.dies.put d { s.die d with off := true } := rfl

/-- A die is fenced and switched off. -/
def State.loseDie (s : State) (d : Nat) : State := (s.setDie d { s.die d with fenced := true }).powerOff d

theorem fenced_loseDie (s : State) (d k : Nat) : ((s.loseDie d).die k).fenced = (decide (k = d) || (s.die k).fenced) := by
  simp only [State.loseDie, State.die, powerOff_dies, setDie_dies, FMap.lookD_put]
  by_cases h : k = d
  · simp [h]
  · simp [h]

/-- Each die of a list of dies that are lost is fenced. -/
theorem fenced_foldl_loseDie (l : List Nat) (s : State) (k : Nat) : ((l.foldl State.loseDie s).die k).fenced = (decide (k ∈ l) || (s.die k).fenced) := by
  induction l generalizing s with
  | nil => simp
  | cons d r ih =>
    rw [List.foldl_cons, ih, fenced_loseDie]
    by_cases h : k = d <;> simp [h]

theorem execHdieOvertemp_loses (s : State) :
    ∃ s1, execHdieOvertemp s = .next { (List.range 4).foldl State.loseDie s1 with bootStep := 0, picks := [] } := ⟨_, rfl⟩

/-- Settles O44, one event at a time. -/
theorem powerAndHeatEvents : Obligations.PowerAndHeatEvents := by
  refine ⟨fun die w s hd => ?_, fun core ps s => ⟨fun hh hp => ?_, fun h => ?_⟩, fun die s hd => ⟨?_, ?_, ?_, ?_, ?_, ?_, ?_⟩,
    fun core s hh => ⟨fun h => ?_, fun h => ?_⟩, fun core s hc => ⟨?_, ?_⟩, fun store pa s => ⟨?_, fun hst => ⟨?_, ?_⟩, fun h4 h5 => ?_⟩, fun s => ?_⟩
  · intro s1 slow
    rw [exec_powerAverage, execPowerAverage_die hd]
    refine ⟨fun hw => by rw [if_pos hw], fun hw hs => ?_, fun hw hs => ?_⟩
    · rw [if_neg (Nat.not_le.2 hw), if_pos hs]
    · rw [if_neg (Nat.not_le.2 hw), if_neg hs]
  · rw [exec_holdEnd]
    exact execHoldEnd_held hh hp
  · rw [exec_holdEnd]
    exact execHoldEnd_other h
  · rw [exec_railCurrentAlert]
    exact execRailCurrentAlert_die hd s
  · intro h
    rw [exec_railHoldFailure]
    exact if_neg (Nat.not_lt.2 h)
  · intro h
    rw [exec_railHoldFailure]
    exact if_pos h
  · rw [exec_junction120c, execJunction120c]
  · rw [exec_junction110cTimeout, execJunction110cTimeout]
  · rw [exec_dieInternalError, execDieInternalError]
  · rw [exec_junction100c]
    exact execJunction100c_die hd s
  · rw [core_holdDie]
    exact holdAgain_due hh h
  · rw [core_holdDie]
    exact holdAgain_early hh h
  · rw [exec_coreSelfTest, execCoreSelfTest_pass]
  · rw [exec_coreSelfTest, execCoreSelfTest_fail hc]
  · rw [exec_backgroundScrub, execBackgroundScrub_good]
  · intro hb
    rw [exec_backgroundScrub, execBackgroundScrub_memory pa s hst, if_pos hb]
  · intro hb
    rw [exec_backgroundScrub, execBackgroundScrub_memory pa s hst, hb]
    rfl
  · rw [exec_backgroundScrub, execBackgroundScrub_other pa s h4 h5]
  · obtain ⟨s1, h⟩ := execHdieOvertemp_loses s
    refine ⟨_, (exec_hdieOvertemp s).trans h, rfl, rfl, fun d hd => ?_⟩
    have := fenced_foldl_loseDie (List.range 4) s1 d
    rw [decide_eq_true (List.mem_range.2 hd), Bool.true_or] at this
    exact this

end Sys2Proof.Machine
end

section
/-! PROOF. Every step answers a next state: first each shape that instructions share, then the 326 rows of the table by shape, then the step. -/

namespace Sys2Proof.Machine

/-- The machine goes on from this outcome: it is neither a fault nor a refusal. -/
def Answers (o : Host.Outcome State Fault Refusal) : Prop := ∃ s', o = .next s'

theorem answers_next (s : State) : Answers (.next s) := ⟨s, rfl⟩

/-! ### The shapes that instruction words share -/

theorem answers_runPacket (i : Instr) (u : Bool) (act : State → Nat → Given → LaneOut) (s : State) : Answers (runPacket i u act s) := by
  simp only [runPacket]
  split <;> exact answers_next _

theorem answers_crossThread (i : Instr) (u : Bool) (f : List Party → Party → XtResult) (s : State) : Answers (crossThread i u f s) := by
  simp only [crossThread]
  repeat' split
  all_goals exact answers_next _

theorem answers_compute (i : Instr) (u : Bool) (f : Given → Nat × Flags) (s : State) : Answers (compute i u f s) := answers_runPacket ..
theorem answers_int32 (i : Instr) (u : Bool) (f : Word → Word → Word) (s : State) : Answers (int32 i u f s) := answers_compute ..
theorem answers_int32u (i : Instr) (u : Bool) (f : Word → Word) (s : State) : Answers (int32u i u f s) := answers_compute ..
theorem answers_int64 (i : Instr) (u : Bool) (f : Dword → Dword → Dword) (s : State) : Answers (int64 i u f s) := answers_compute ..
theorem answers_int64u (i : Instr) (u : Bool) (f : Dword → Dword) (s : State) : Answers (int64u i u f s) := answers_compute ..
theorem answers_shift64 (i : Instr) (u : Bool) (f : Dword → Nat → Dword) (s : State) : Answers (shift64 i u f s) := answers_compute ..
theorem answers_int32d (i : Instr) (u : Bool) (f : Word → Word → Word → Word) (s : State) : Answers (int32d i u f s) := answers_compute ..
theorem answers_set32 (i : Instr) (u : Bool) (f : Word → Word → Bool) (s : State) : Answers (set32 i u f s) := answers_compute ..
theorem answers_set64 (i : Instr) (u : Bool) (f : Dword → Dword → Bool) (s : State) : Answers (set64 i u f s) := answers_compute ..
theorem answers_fp2 (i : Instr) (u : Bool) (f : Rm → Nat → Nat → Nat × Flags) (s : State) : Answers (fp2 i u f s) := answers_compute ..
theorem answers_fp3 (i : Instr) (u : Bool) (f : Rm → Nat → Nat → Nat → Nat × Flags) (s : State) : Answers (fp3 i u f s) := answers_compute ..
theorem answers_fp1 (i : Instr) (u : Bool) (f : Rm → Nat → Nat × Flags) (s : State) : Answers (fp1 i u f s) := answers_compute ..
theorem answers_pkbx (i : Instr) (u : Bool) (k : Nat) (s : State) : Answers (pkbx i u k s) := answers_compute ..
theorem answers_upbx (i : Instr) (u : Bool) (k : Nat) (s : State) : Answers (upbx i u k s) := answers_compute ..
theorem answers_pkmx (i : Instr) (u : Bool) (f : MxFmt) (s : State) : Answers (pkmx i u f s) := answers_compute ..
theorem answers_upmx (i : Instr) (u : Bool) (f : MxFmt) (s : State) : Answers (upmx i u f s) := answers_compute ..

/-! ### A sampler's batch -/

/-- MARCH_BATCH: what its march comes to is generalised, so that nothing evaluates the march. -/
theorem answers_execMarchBatch (op : Nat) (s : State) : Answers (execMarchBatch op s) := by
  unfold execMarchBatch
  split
  · exact answers_next _
  · split
    · exact answers_next _
    · split
      · exact answers_next _
      · generalize State.beginMarch _ _ = begun
        obtain ⟨s, o⟩ := begun
        dsimp only
        generalize State.marchOn _ _ _ = marched
        obtain ⟨r, whole⟩ := marched
        dsimp only
        repeat' split
        all_goals exact answers_next _

/-! ### The rows of the table -/

/-- Every row: words by the shape of their meaning, events by the branches of theirs, each of which ends in a next state. -/
theorem answers_exec (i : Instr) (s : State) : Answers (exec i s) := by
  cases i with
  | add | sub | minI32 | minN32 | maxI32 | maxN32 | and | or | xor | andn | shl | shr | sar | prmb | mul | mulhI32 | mulhN32 =>
    simp only [exec_add, exec_sub, exec_minI32, exec_minN32, exec_maxI32, exec_maxN32, exec_and, exec_or, exec_xor, exec_andn, exec_shl, exec_shr,
      exec_sar, exec_prmb, exec_mul, exec_mulhI32, exec_mulhN32]
    exact answers_int32 ..
  | abs | neg | popc | clz | ctz | brev | addi | andi | ori | xori | shli | shri | sari | bfx =>
    simp only [exec_abs, exec_neg, exec_popc, exec_clz, exec_ctz, exec_brev, exec_addi, exec_andi, exec_ori, exec_xori, exec_shli, exec_shri,
      exec_sari, exec_bfx]
    exact answers_int32u ..
  | addI64 | subI64 | minI64 | minN64 | maxI64 | maxN64 | andI64 | orI64 | xorI64 | andnI64 | mulI64 =>
    simp only [exec_addI64, exec_subI64, exec_minI64, exec_minN64, exec_maxI64, exec_maxN64, exec_andI64, exec_orI64, exec_xorI64, exec_andnI64,
      exec_mulI64]
    exact answers_int64 ..
  | absI64 | negI64 =>
    simp only [exec_absI64, exec_negI64]
    exact answers_int64u ..
  | shlI64 | shrI64 | sarI64 =>
    simp only [exec_shlI64, exec_shrI64, exec_sarI64]
    exact answers_shift64 ..
  | fshl | fshr | mad | sel =>
    simp only [exec_fshl, exec_fshr, exec_mad, exec_sel]
    exact answers_int32d ..
  | seteq | setne | setltI | setleI | setgtI | setgeI | setltN | setleN | setgtN | setgeN =>
    simp only [exec_seteq, exec_setne, exec_setltI, exec_setleI, exec_setgtI, exec_setgeI, exec_setltN, exec_setleN, exec_setgtN, exec_setgeN]
    exact answers_set32 ..
  | seteq64 | setne64 | setltI64 | setleI64 | setgtI64 | setgeI64 | setltN64 | setleN64 | setgtN64 | setgeN64 =>
    simp only [exec_seteq64, exec_setne64, exec_setltI64, exec_setleI64, exec_setgtI64, exec_setgeI64, exec_setltN64, exec_setleN64, exec_setgtN64,
      exec_setgeN64]
    exact answers_set64 ..
  | fadd | fsub | fmul | fmin | fmax | faddRm | fsubRm | fmulRm | fseteq | fsetne | fsetlt | fsetle | fsetgt | fsetge | fsetun | fsetor | hadd2F16 |
  hmul2F16 | hadd2Bf16 | hmul2Bf16 | dadd | dsub | dmul | dmin | dmax | daddRm | dsubRm | dmulRm | dseteq | dsetne | dsetlt | dsetle | dsetgt | dsetge
  | dsetun | dsetor =>
    simp only [exec_fadd, exec_fsub, exec_fmul, exec_fmin, exec_fmax, exec_faddRm, exec_fsubRm, exec_fmulRm, exec_fseteq, exec_fsetne, exec_fsetlt,
      exec_fsetle, exec_fsetgt, exec_fsetge, exec_fsetun, exec_fsetor, exec_hadd2F16, exec_hmul2F16, exec_hadd2Bf16, exec_hmul2Bf16, exec_dadd,
      exec_dsub, exec_dmul, exec_dmin, exec_dmax, exec_daddRm, exec_dsubRm, exec_dmulRm, exec_dseteq, exec_dsetne, exec_dsetlt, exec_dsetle,
      exec_dsetgt, exec_dsetge, exec_dsetun, exec_dsetor]
    exact answers_fp2 ..
  | fma | fmaRm | hfma2F16 | hfma2Bf16 | dfma | dfmaRm =>
    simp only [exec_fma, exec_fmaRm, exec_hfma2F16, exec_hfma2Bf16, exec_dfma, exec_dfmaRm]
    exact answers_fp3 ..
  | rcpF32 | rsqF32 | sqrtF32 | exp2 | log2 | sin | cos | rcpF64 | rsqF64 | sqrtF64 =>
    simp only [exec_rcpF32, exec_rsqF32, exec_sqrtF32, exec_exp2, exec_log2, exec_sin, exec_cos, exec_rcpF64, exec_rsqF64, exec_sqrtF64]
    exact answers_fp1 ..
  | pkbxBx2 | pkbxBx4 | pkbxBx7 =>
    simp only [exec_pkbxBx2, exec_pkbxBx4, exec_pkbxBx7]
    exact answers_pkbx ..
  | upbxBx2 | upbxBx4 | upbxBx7 =>
    simp only [exec_upbxBx2, exec_upbxBx4, exec_upbxBx7]
    exact answers_upbx ..
  | pkmxMxi8 | pkmxMxf8e4 | pkmxMxf8e5 =>
    simp only [exec_pkmxMxi8, exec_pkmxMxf8e4, exec_pkmxMxf8e5]
    exact answers_pkmx ..
  | upmxMxi8 | upmxMxf8e4 | upmxMxf8e5 =>
    simp only [exec_upmxMxi8, exec_upmxMxf8e4, exec_upmxMxf8e5]
    exact answers_upmx ..
  | bfi | limm | lhi | lea | leai | idivI32 | idivN32 | iremI32 | iremN32 | cvt | cvtd | rngk =>
    simp only [exec_bfi, exec_limm, exec_lhi, exec_lea, exec_leai, exec_idivI32, exec_idivN32, exec_iremI32, exec_iremN32, exec_cvt, exec_cvtd,
      exec_rngk]
    exact answers_compute ..
  | mova | ld | lds | st | pref | cinvCore | cinvClu | cinvDie | cinvDev | cinvSys | atom32 | atom64 | red32 | red64 | bredF32 | bredF64 | binfin |
  appendB32 | appendB64 | appendB128 | appendB256 | sealPage | waita | wake | twany | twall | tffr | fenceAcq | fenceRel | fenceAr | phreg | phdrop |
  phsig | phwt | pharv | phregDev | phdropDev | phsigDev | phwtDev | pharvDev | waitc | wopen | wshut | spmap | spunmap | tres | trel | mxop | mxswap
  | bload | copy | gath | scat | trace | tdecCont | tdecAcc | tdecTerm | march | emit | launch | gwait | qsig | br | jmp | call | brx | callx | ret |
  wbase | yield | exit | nop | eret | mfs | mts =>
    simp only [exec_mova, exec_ld, exec_lds, exec_st, exec_pref, exec_cinvCore, exec_cinvClu, exec_cinvDie, exec_cinvDev, exec_cinvSys, exec_atom32,
      exec_atom64, exec_red32, exec_red64, exec_bredF32, exec_bredF64, exec_binfin, exec_appendB32, exec_appendB64, exec_appendB128, exec_appendB256,
      exec_sealPage, exec_waita, exec_wake, exec_twany, exec_twall, exec_tffr, exec_fenceAcq, exec_fenceRel, exec_fenceAr, exec_phreg, exec_phdrop,
      exec_phsig, exec_phwt, exec_pharv, exec_phregDev, exec_phdropDev, exec_phsigDev, exec_phwtDev, exec_pharvDev, exec_waitc, exec_wopen,
      exec_wshut, exec_spmap, exec_spunmap, exec_tres, exec_trel, exec_mxop, exec_mxswap, exec_bload, exec_copy, exec_gath, exec_scat, exec_trace,
      exec_tdecCont, exec_tdecAcc, exec_tdecTerm, exec_march, exec_emit, exec_launch, exec_gwait, exec_qsig, exec_br, exec_jmp, exec_call, exec_brx,
      exec_callx, exec_ret, exec_wbase, exec_yield, exec_exit, exec_nop, exec_eret, exec_mfs, exec_mts]
    exact answers_runPacket ..
  | shflIdx | shflUp | shflDown | shflXor | voteAll | voteAny | voteEq | ballot | wredAddI32 | wredMinI32 | wredMaxI32 | wredAddF32 | wredAnd | wredOr
  | wredXor =>
    simp only [exec_shflIdx, exec_shflUp, exec_shflDown, exec_shflXor, exec_voteAll, exec_voteAny, exec_voteEq, exec_ballot, exec_wredAddI32,
      exec_wredMinI32, exec_wredMaxI32, exec_wredAddF32, exec_wredAnd, exec_wredOr, exec_wredXor]
    exact answers_crossThread ..
  | l1Drop | ageSaturation | crewPlace | tresRetry | invalidatePage | invalidateContext | invalidateAll | reclaim | dropBounds | hsAcknowledge |
  hsRequestPage | scLockWrite | mxCadenceWrite | demandAnnounce | tokenReturn | junction110cTimeout | junction120c | dieInternalError | powerLoss |
  hdieOvertemp =>
    simp only [exec_l1Drop, exec_ageSaturation, exec_crewPlace, exec_tresRetry, exec_invalidatePage, exec_invalidateContext, exec_invalidateAll,
      exec_reclaim, exec_dropBounds, exec_hsAcknowledge, exec_hsRequestPage, exec_scLockWrite, exec_mxCadenceWrite, exec_demandAnnounce,
      exec_tokenReturn, exec_junction110cTimeout, exec_junction120c, exec_dieInternalError, exec_powerLoss, exec_hdieOvertemp]
    exact answers_next _
  | l1WriteBack | issueCycle | registerWrite | queueGo | attestationGo | hostRead | hostSnoop | configRequest | remoteRequest | linkTrainingLoss |
  tokenGrant | powerAverage | railCurrentAlert | railHoldFailure | junction100c | coreSelfTest | firmwareUpdate | contextCreation | queueCoreCycle |
  loadDataReturn | storePerformed | joinHoldTimeout | crewEnd | preemptLacewing | preemptSave | crewResume | preemptSaveTimeout | trelRelease |
  spmapComplete | matrixStart | mxopComplete | bankSave | copyComplete | rayCandidate | rayComplete | streamClose | popEntryPush | reductionDrain |
  slewGroupRelease | atomicQuietExpiry | comparatorMatch | dualUnmatchedTimeout | sampledDigestCompare | crewWatchdog | migrationTimeout |
  attestationDone | remoteResponse | remoteTimeout | leaseEnd | grantReturnTimeout | illegalInstruction | instructionFetchFault | trap | clockGate |
  launchDispatch | crewSteal | preemptDispatcher | spunmapComplete | mxswapEffect | convWatchdog | invalidationComplete | hostWrite | flitCrcFailure |
  linkRetrainEnd | tokenExchangeTick | holdEnd | backgroundScrub | powerOnReset =>
    simp only [exec_l1WriteBack, execL1WriteBack, exec_issueCycle, execIssueCycle, exec_registerWrite, execRegisterWrite, exec_queueGo, execQueueGo,
      exec_attestationGo, execAttestationGo, exec_hostRead, execHostRead, exec_hostSnoop, execHostSnoop, exec_configRequest, execConfigRequest,
      exec_remoteRequest, execRemoteRequest, exec_linkTrainingLoss, execLinkTrainingLoss, exec_tokenGrant, execTokenGrant, exec_powerAverage,
      execPowerAverage, exec_railCurrentAlert, execRailCurrentAlert, exec_railHoldFailure, execRailHoldFailure, exec_junction100c, execJunction100c,
      exec_coreSelfTest, execCoreSelfTest, exec_firmwareUpdate, execFirmwareUpdate, exec_contextCreation, execContextCreation, exec_queueCoreCycle,
      execQueueCoreCycle, exec_loadDataReturn, execLoadDataReturn, exec_storePerformed, execStorePerformed, exec_joinHoldTimeout, execJoinHoldTimeout,
      exec_crewEnd, execCrewEnd, exec_preemptLacewing, execPreemptLacewing, exec_preemptSave, execPreemptSave, exec_crewResume, execCrewResume,
      exec_preemptSaveTimeout, execPreemptSaveTimeout, exec_trelRelease, execTrelRelease, exec_spmapComplete, execSpmapComplete, exec_matrixStart,
      execMatrixStart, exec_mxopComplete, execMxopComplete, exec_bankSave, execBankSave, exec_copyComplete, execCopyComplete, exec_rayCandidate,
      execRayCandidate, exec_rayComplete, execRayComplete, exec_streamClose, execStreamClose, exec_popEntryPush, execPopEntryPush,
      exec_reductionDrain, execReductionDrain, exec_slewGroupRelease, execSlewGroupRelease, exec_atomicQuietExpiry, execAtomicQuietExpiry,
      exec_comparatorMatch, execComparatorMatch, exec_dualUnmatchedTimeout, execDualUnmatchedTimeout, exec_sampledDigestCompare,
      execSampledDigestCompare, exec_crewWatchdog, execCrewWatchdog, exec_migrationTimeout, execMigrationTimeout, exec_attestationDone,
      execAttestationDone, exec_remoteResponse, execRemoteResponse, exec_remoteTimeout, execRemoteTimeout, exec_leaseEnd, execLeaseEnd,
      exec_grantReturnTimeout, execGrantReturnTimeout, exec_illegalInstruction, execIllegalInstruction, exec_instructionFetchFault,
      execInstructionFetchFault, exec_trap, execTrap, exec_clockGate, execClockGate, exec_launchDispatch, execLaunchDispatch, exec_crewSteal,
      execCrewSteal, exec_preemptDispatcher, execPreemptDispatcher, exec_spunmapComplete, execSpunmapComplete, exec_mxswapEffect, execMxswapEffect,
      exec_convWatchdog, execConvWatchdog, exec_invalidationComplete, execInvalidationComplete, exec_hostWrite, execHostWrite, exec_flitCrcFailure,
      execFlitCrcFailure, exec_linkRetrainEnd, execLinkRetrainEnd, exec_tokenExchangeTick, execTokenExchangeTick, exec_holdEnd, execHoldEnd,
      exec_backgroundScrub, execBackgroundScrub, exec_powerOnReset, execPowerOnReset]
    repeat' split
    all_goals exact answers_next _
  | marchBatch => rw [exec_marchBatch]; exact answers_execMarchBatch ..

/-! ### The step (log 2) -/

theorem answers_charged {o : Host.Outcome State Fault Refusal} (s : State) (h : Answers o) : Answers (s.charged o) := by
  obtain ⟨s', rfl⟩ := h
  exact answers_next _

theorem answers_stepPacket (s : State) : Answers (stepPacket s) := by
  simp only [stepPacket]
  split
  · exact answers_next _
  · split
    · rw [← exec_instructionFetchFault]
      exact answers_exec ..
    · exact answers_next _
    · split
      · exact answers_charged _ (answers_exec ..)
      · rw [← exec_illegalInstruction]
        exact answers_charged _ (answers_exec ..)

theorem answers_nextCycle (s : State) : Answers s.nextCycle := by
  simp only [State.nextCycle]
  split
  · exact answers_next _
  · split
    · rw [← exec_issueCycle]
      exact answers_exec ..
    · rw [← exec_queueCoreCycle]
      exact answers_exec ..

theorem answers_idle (s : State) : Answers s.idle := by
  simp only [State.idle]
  split
  · exact answers_next _
  · split
    · exact answers_next _
    · exact answers_nextCycle s

theorem answers_step (s : State) : Answers (step s) := by
  simp only [step]
  split
  · exact answers_exec ..
  · split
    · exact answers_stepPacket _
    · exact answers_idle s

/-- Settles O57, by the rows of the table and the three ways a step goes. -/
theorem everyStepAnswersNext : Obligations.EveryStepAnswersNext := ⟨answers_step, answers_exec⟩

end Sys2Proof.Machine
end

section
/-! PROOF. Words and bytes that a result comes to, written and read back (R2, R51, R58, R68). -/

namespace Sys2Proof

/-! ### The bytes of a number (R2) -/

@[simp] theorem length_leBytes (n v : Nat) : (leBytes n v).length = n := by
  induction n generalizing v with
  | zero => rfl
  | succ n ih => simp only [leBytes, List.length_cons, ih]

/-- Byte `j` of a number, lowest first. -/
theorem getD_leBytes {n j : Nat} (v : Nat) (h : j < n) : (leBytes n v).getD j 0 = BitVec.ofNat 8 (v / 256 ^ j) := by
  induction n generalizing v j with
  | zero => omega
  | succ n ih =>
    cases j with
    | zero => simp [leBytes]
    | succ j =>
      rw [leBytes, List.getD_cons_succ, ih _ (by omega), Nat.div_div_eq_div_mul, Nat.pow_succ']

/-! ### Entries of a map that a test on keys keeps -/

theorem FMap.look_filter_key {α : Type} (keep : Nat → Bool) (m : FMap α) (x : Nat) :
    look (m.filter fun a => keep a.1) x = if keep x then look m x else none := by
  induction m with
  | nil => simp
  | cons a r ih =>
    obtain ⟨k, v⟩ := a
    simp only [List.filter_cons]
    by_cases hx : k = x
    · subst hx
      cases hk : keep k <;> simp [look, ih, hk]
    · cases keep k <;> simp [look, ih, hx]

end Sys2Proof

namespace Sys2Proof.Machine

/-! ### Words into registers (R58) -/

@[simp] theorem length_words (n v : Nat) : (words n v).length = n := by
  induction n generalizing v with
  | zero => rfl
  | succ n ih => simp only [words, List.length_cons, ih]

/-- Word `j` of a number, lowest first. -/
theorem getElem?_words {n j : Nat} (v : Nat) (h : j < n) : (words n v)[j]? = some (BitVec.ofNat 32 (v / 2 ^ (32 * j))) := by
  induction n generalizing v j with
  | zero => omega
  | succ n ih =>
    cases j with
    | zero => simp [words]
    | succ j =>
      rw [words, List.getElem?_cons_succ, ih _ (by omega), Nat.div_div_eq_div_mul, ← Nat.pow_add, Nat.mul_succ, Nat.add_comm]

/-- Words written to consecutive positions change no part of the thread but its registers and their errors. -/
theorem setWords_frame (x : Thread) (p : Nat) (l : List RVal) :
    x.setWords p l = { x with regs := (x.setWords p l).regs, latent := (x.setWords p l).latent } := by
  induction l generalizing x p with
  | nil => rfl
  | cons v r ih => exact ih (x.setPos p v) (p + 1)

theorem regs_setWords_of_lt (x : Thread) {p q : Nat} (l : List RVal) (h : q < p) : (x.setWords p l).regs.lookD q {} = x.regs.lookD q {} := by
  induction l generalizing x p with
  | nil => rfl
  | cons v r ih =>
    rw [Thread.setWords, ih _ (by omega)]
    exact FMap.lookD_put_ne _ _ _ (by omega)

/-- A stack position after words have been written from `p`. -/
theorem regs_setWords (x : Thread) (p q : Nat) (l : List RVal) :
    (x.setWords p l).regs.lookD q {} = if p ≤ q ∧ q < p + l.length then l.getD (q - p) {} else x.regs.lookD q {} := by
  induction l generalizing x p with
  | nil =>
    rw [if_neg (by simp only [List.length_nil]; omega)]
    rfl
  | cons v r ih =>
    simp only [List.length_cons]
    rcases Nat.lt_trichotomy q p with h | rfl | h
    · rw [regs_setWords_of_lt x _ h, if_neg (by omega)]
    · rw [Thread.setWords, regs_setWords_of_lt _ _ (Nat.lt_succ_self q), if_pos (by omega), Nat.sub_self, List.getD_cons_zero]
      exact FMap.lookD_put_self ..
    · rw [Thread.setWords, ih]
      obtain ⟨k, rfl⟩ : ∃ k, q = p + 1 + k := ⟨q - (p + 1), by omega⟩
      have hp : (x.setPos p v).regs.lookD (p + 1 + k) {} = x.regs.lookD (p + 1 + k) {} := FMap.lookD_put_ne _ _ _ (by omega)
      rw [hp, show p + 1 + k - (p + 1) = k by omega, show p + 1 + k - p = k + 1 by omega, List.getD_cons_succ]
      by_cases hk : k < r.length
      · rw [if_pos (by omega), if_pos (by omega)]
      · rw [if_neg (by omega), if_neg (by omega)]

/-! ### A result at its destination (R68) -/

theorem thread_writeDest_reg (s : State) (t p n v : Nat) (psn : Bool) :
    (s.writeDest t (.reg p n) v psn).thread t = (s.thread t).setWords p ((words n v).map fun w => ⟨w, psn⟩) :=
  thread_setThread_self ..

/-- A result of `n` registers, lowest word first. -/
theorem regs_writeDest_reg (s : State) (t p n v q : Nat) (psn : Bool) :
    ((s.writeDest t (.reg p n) v psn).thread t).regs.lookD q {}
      = if p ≤ q ∧ q < p + n then ⟨BitVec.ofNat 32 (v / 2 ^ (32 * (q - p))), psn⟩ else (s.thread t).regs.lookD q {} := by
  rw [thread_writeDest_reg, regs_setWords, List.length_map, length_words]
  split
  · next h => rw [List.getD_eq_getElem?_getD, List.getElem?_map, getElem?_words v (by omega)]; rfl
  · rfl

/-- A result of `n` bytes, lowest first. -/
theorem byte_writeDest_scratch (s : State) (t b n v a : Nat) (psn : Bool) :
    (s.writeDest t (.scratch b n) v psn).scratch.byte a
      = if b ≤ a ∧ a < b + n then BitVec.ofNat 8 (v / 256 ^ (a - b)) else s.scratch.byte a := by
  have hl : ((leBytes n v).map fun x => (x, psn)).map (·.1) = leBytes n v := by
    rw [List.map_map]
    exact List.map_id _
  simp only [State.writeDest, State.scratchWrite, PMem.byte_writeM, hl, List.length_map, length_leBytes]
  split
  · next h => exact getD_leBytes v (by omega)
  · rfl

end Sys2Proof.Machine
end

section
/-! PROOF. Constants and register pairs as operands (R57, R58, R63, R64). -/

namespace Sys2Proof

/-- A register code in a 64-bit position starts a pair at an even register (R58, R382). -/
theorem fault_wide_register {p : Pos} (q : Bool) (hk : p.kind.wide = true) (hc : p.code < 64) :
    p.fault q = if p.code % 2 = 1 then some ⟨6, p.mask, p.code⟩ else none := by
  obtain ⟨f, c, sh, k, r⟩ := p
  simp only at hk hc ⊢
  have odd : (c % 2 ≠ 0) = (c % 2 = 1) := propext (by omega)
  have low : ¬ 64 ≤ c := by omega
  cases k with
  | i64 | f64 => simp [Pos.fault, Kind.wide, hc]
  | ptr => simp [Pos.fault, hc, low]
  | i32 | f32 | pkf16 | pkbf16 | h16 | b16 | grp | mask | off | cond | queue => cases hk

/-- A position whose code breaks a rule of CODE 0x0006 fails the instruction's word checks. -/
theorem check_ne_none_of_fault {i : Instr} {q : Bool} {p : Pos} {f : WordFault} (hp : p ∈ i.positions) (hf : p.fault q = some f) (h6 : f.code = 6) :
    i.check q ≠ none := by
  have hmem : f ∈ (i.positions.filterMap (Pos.fault q)).filter (·.code = 6) :=
    List.mem_filter.2 ⟨List.mem_filterMap.2 ⟨p, hp, hf⟩, decide_eq_true h6⟩
  have hall : f ∈ i.faults q := List.mem_append_left _ (List.mem_append_right _ hmem)
  intro hn
  rw [Instr.check, List.head?_eq_none_iff] at hn
  rw [hn] at hall
  cases hall

end Sys2Proof

namespace Sys2Proof.Machine

/-- A source position with a constant code reads the constant of its kind. -/
theorem source_constant (s : State) (t : Nat) (p : Pos) (h : 112 ≤ p.code) : s.source t p none = ⟨constOf p.kind p.code, false⟩ := by
  simp only [State.source]
  rw [if_neg (by omega), if_neg (by omega), if_neg (by omega)]

/-- A source position with a register code reads as many registers as its kind has. -/
theorem source_register (s : State) (t : Nat) (p : Pos) (h : p.code < 64) : s.source t p none = (s.thread t).group p.code p.regs := by
  simp only [State.source]
  rw [if_pos h]

theorem source_scratch (s : State) (t b : Nat) (p : Pos) : (s.source t p (some b)).val = leNat ((s.scratch.read 4 b p.size).map (·.1)) := rfl

/-- A pair's value has its first register low, and its poison is that of either. -/
theorem group_pair (x : Thread) (c : Nat) :
    x.group c 2 = ⟨(x.reg c).val.toNat + 2 ^ 32 * (x.reg (c + 1)).val.toNat, (x.reg c).psn || (x.reg (c + 1)).psn⟩ := by
  simp [Thread.group]

/-- In a 64-bit position that is not a floating one, a constant is the 32-bit one zero-extended, but for -1 (R64). -/
theorem constOf_wide {k : Kind} (c : Nat) (hw : k.wide = true) (hf : k ≠ .f64) : constOf k c = if c = 120 then 2 ^ 64 - 1 else constOf .i32 c := by
  cases k with
  | i64 | ptr => rfl
  | f64 => exact absurd rfl hf
  | i32 | f32 | pkf16 | pkbf16 | h16 | b16 | grp | mask | off | cond | queue => cases hw

/-- Settles O46: each row of R64's table is computed, and a source position with a constant code reads the table. -/
theorem constantCodes : Obligations.ConstantCodes :=
  ⟨by decide, by decide, by decide, by decide, by decide, by decide, by decide, by decide, source_constant⟩

/-- Settles O50, by the form of the operand in the position: register pair, scratchpad operand, special register, constant. -/
theorem pairPositions : Obligations.PairPositions := by
  refine ⟨fun q f c sh r k hk hc => ?_, fun i q p hp hw hc hodd => ?_, fun s t b f c sh r k hk => ?_, fun s t b v => ?_,
    fun s t f c sh r k hk => ⟨fun h h' => ?_, fun h _ hf => ?_⟩⟩
  · intro p
    have hw : p.kind.wide = true ∧ p.regs = 2 := by
      have hlow : ¬ 64 ≤ c := by omega
      simp only [List.mem_cons, List.not_mem_nil, or_false] at hk
      rcases hk with rfl | rfl
      · exact ⟨rfl, if_neg hlow⟩
      · exact ⟨rfl, if_neg hlow⟩
    obtain ⟨hwide, hregs⟩ := hw
    refine ⟨fun h => ?_, fun h => ?_, fun s t => ?_⟩
    · rw [fault_wide_register q hwide hc, if_pos h]; rfl
    · rw [fault_wide_register q hwide hc, if_neg (show ¬ c % 2 = 1 by omega)]
    · rw [source_register s t p hc, hregs, group_pair]
  · have hf := fault_wide_register q hw hc
    rw [if_pos hodd] at hf
    exact check_ne_none_of_fault hp hf rfl
  · have hsize : (⟨f, c, sh, k, r⟩ : Pos).size = 8 := if_pos hk
    refine ⟨?_, ?_⟩
    · rw [source_scratch, hsize]
    · rw [Thread.dest, hsize]
  · refine List.map_congr_left fun j hj => ?_
    have hj : j < 8 := List.mem_range.1 hj
    rw [byte_writeDest_scratch, if_pos (by omega), Nat.add_sub_cancel_left]
  · rw [source_special s t _ h h', if_pos hk]
  · rw [source_constant s t _ h, constOf_wide c hk hf]

end Sys2Proof.Machine
end

section
/-! PROOF. A result's frame: what taking the operands, writing the result, setting flags and going on leave as it was (R59, R61, R68, R174, R176). -/

namespace Sys2Proof.Machine

/-! ### What taking operands leaves as it was -/

/-- A thread but for its views and the results it may not read yet. -/
def Thread.lasting (x : Thread) : Thread := { x with mxs := [], trh := [], sms := [], gdn := [], recent := [] }

/-- A state but for its threads, its scratchpads and what its engines know of popped entries. -/
def State.outer (s : State) : State := { s with threads := [], scratch := {}, ops := [] }

/-- `s'` differs from `s` at most in views and recent results of thread `t` and in what engines know of popped entries. -/
structure Taken (t : Nat) (s s' : State) : Prop where
  outer : s'.outer = s.outer
  scratch : s'.scratch = s.scratch
  others : ∀ u, u ≠ t → s'.thread u = s.thread u
  own : (s'.thread t).lasting = (s.thread t).lasting

theorem Taken.refl (t : Nat) (s : State) : Taken t s s := ⟨rfl, rfl, fun _ _ => rfl, rfl⟩

theorem Taken.trans {t : Nat} {s s' s'' : State} (h : Taken t s s') (h' : Taken t s' s'') : Taken t s s'' :=
  ⟨h'.outer.trans h.outer, h'.scratch.trans h.scratch, fun u hu => (h'.others u hu).trans (h.others u hu), h'.own.trans h.own⟩

theorem taken_setThread {t : Nat} {s : State} {x : Thread} (h : x.lasting = (s.thread t).lasting) : Taken t s (s.setThread t x) :=
  ⟨rfl, rfl, fun _ hu => thread_setThread_ne s x hu, by rw [thread_setThread_self]; exact h⟩

theorem lasting_pop (x : Thread) (c : Nat) : (x.pop c).lasting = x.lasting := by
  simp only [Thread.pop]
  repeat' split
  all_goals rfl

theorem taken_notePop (s : State) (t : Nat) (e : PopEntry) : Taken t s (s.notePop e) := ⟨rfl, rfl, fun _ _ => rfl, rfl⟩

theorem taken_noteRecent (s : State) (t p n : Nat) : Taken t s (s.noteRecent t p n) := by
  simp only [State.noteRecent]
  split
  · exact .refl t s
  · exact taken_setThread rfl

theorem taken_popAll (t : Nat) (ps : List Pos) (s : State) : Taken t s (s.popAll t ps) := by
  induction ps generalizing s with
  | nil => exact .refl t s
  | cons p r ih =>
    simp only [State.popAll]
    split
    · refine .trans ?_ (ih _)
      repeat' split
      · exact (taken_notePop s t _).trans (taken_setThread (lasting_pop ..))
      · exact taken_setThread (lasting_pop ..)
      · exact taken_setThread (lasting_pop ..)
    · exact ih s

theorem taken_noteBumps (s : State) (t : Nat) (i : Instr) : Taken t s (s.noteBumps t i) := by
  have fold (l : List Nat) (s : State) : Taken t s (l.foldl (fun s k => s.noteRecent t (4096 + k) 1) s) := by
    induction l generalizing s with
    | nil => exact .refl t s
    | cons k r ih => exact (taken_noteRecent s t _ _).trans (ih _)
  simp only [State.noteBumps]
  split
  · exact fold _ s
  · exact .refl t s

/-- The operands of an instruction are taken from thread `t`, moved on to `x'` (R59, R61). -/
theorem taken_took (s : State) (i : Instr) (t : Nat) (x' : Thread) : Taken t (s.setThread t x') (s.took i t x') :=
  (taken_popAll t i.positions _).trans (taken_noteBumps _ t i)

theorem lasting_took (s : State) (i : Instr) (t : Nat) (x' : Thread) : ((s.took i t x').thread t).lasting = x'.lasting := by
  rw [(taken_took s i t x').own, thread_setThread_self]

theorem thread_took_ne (s : State) (i : Instr) {t u : Nat} (x' : Thread) (h : u ≠ t) : (s.took i t x').thread u = s.thread u := by
  rw [(taken_took s i t x').others u h, thread_setThread_ne s x' h]

theorem regs_took (s : State) (i : Instr) (t : Nat) (x' : Thread) : ((s.took i t x').thread t).regs = x'.regs :=
  (congrArg Thread.regs (lasting_took s i t x') :)

theorem scratch_took (s : State) (i : Instr) (t : Nat) (x' : Thread) : (s.took i t x').scratch = s.scratch := (taken_took s i t x').scratch

/-- A sound instruction's operands move no part of the thread but address registers. -/
theorem Solo.moved_frame {i : Instr} {s : State} {t : Nat} {x' : Thread} {vs : List (Pos × OpVal)} {d : Dest} (h : Solo i s t x' vs d) :
    x' = { s.thread t with areg := x'.areg } := by
  obtain ⟨l, hl⟩ := h.resolves
  exact resolveScratch_frame hl fun p hp hs => h.areg_sound hp hs

/-! ### A result written changes its destination alone -/

theorem outer_writeDest (s : State) (t : Nat) (d : Dest) (v : Nat) (psn : Bool) : (s.writeDest t d v psn).outer = s.outer := by
  cases d <;> rfl

theorem thread_writeDest_ne (s : State) {t u : Nat} (d : Dest) (v : Nat) (psn : Bool) (h : u ≠ t) : (s.writeDest t d v psn).thread u = s.thread u := by
  cases d with
  | reg p n => exact thread_setThread_ne s _ h
  | scratch b n => rfl
  | none => rfl

/-- Of the thread itself a result changes registers and their errors alone. -/
theorem thread_writeDest_self (s : State) (t : Nat) (d : Dest) (v : Nat) (psn : Bool) :
    (s.writeDest t d v psn).thread t =
      { s.thread t with regs := ((s.writeDest t d v psn).thread t).regs, latent := ((s.writeDest t d v psn).thread t).latent } := by
  cases d with
  | reg p n => rw [thread_writeDest_reg]; exact setWords_frame ..
  | scratch b n => rfl
  | none => rfl

/-- Beside the destination a result counts as recent. -/
theorem taken_writeResult (s : State) (t : Nat) (d : Dest) (v : Nat) : Taken t (s.writeDest t d v false) (s.writeResult t d v) := by
  cases d with
  | reg p n => exact taken_noteRecent ..
  | scratch b n => exact .refl t _
  | none => exact .refl t _

/-! ### The state after an instruction -/

/-- The state with the operands taken and the result at its destination. -/
def State.resulted (s : State) (i : Instr) (t : Nat) (x' : Thread) (d : Dest) (v : Nat) : State := (s.took i t x').writeDest t d v false

theorem thread_settled_ne (s : State) (i : Instr) {t u : Nat} (x' : Thread) (d : Dest) (r : Nat × Flags) (h : u ≠ t) :
    (s.settled i t x' d r).thread u = s.thread u := by
  rw [State.settled, State.advance, thread_setThread_ne _ _ h, State.setFlags, thread_setThread_ne _ _ h,
    (taken_writeResult ..).others u h, thread_writeDest_ne _ _ _ _ h, thread_took_ne s i x' h]

theorem outer_settled (s : State) (i : Instr) (t : Nat) (x' : Thread) (d : Dest) (r : Nat × Flags) : (s.settled i t x' d r).outer = s.outer :=
  calc (s.settled i t x' d r).outer = ((s.took i t x').writeResult t d r.1).outer := rfl
    _ = (s.took i t x').outer := by rw [(taken_writeResult ..).outer, outer_writeDest]
    _ = s.outer := (taken_took s i t x').outer

theorem scratch_settled (s : State) (i : Instr) (t : Nat) (x' : Thread) (d : Dest) (r : Nat × Flags) :
    (s.settled i t x' d r).scratch = (s.resulted i t x' d r.1).scratch := (taken_writeResult (s.took i t x') t d r.1).scratch

/-- An instruction that goes on sets its flags in MODE and moves the PC by 4. -/
theorem thread_setFlags_advance (s : State) (t : Nat) (f : Flags) :
    ((s.setFlags t f).advance t).thread t
      = { s.thread t with mode := (s.thread t).mode ||| f.bits, pc := pcAdd (s.thread t).pc 4, joined := false } := by
  rw [State.advance, thread_setThread_self, State.setFlags, thread_setThread_self]

/-- The thread itself: its registers are as the result leaves them, MODE has the flags, the PC moves on by 4. -/
theorem lasting_settled (s : State) (i : Instr) (t : Nat) (x' : Thread) (d : Dest) (r : Nat × Flags) :
    let y := (s.resulted i t x' d r.1).thread t
    ((s.settled i t x' d r).thread t).lasting =
      { x'.lasting with regs := y.regs, latent := y.latent, joined := false, mode := x'.mode ||| r.2.bits, pc := pcAdd x'.pc 4 } := by
  intro y
  have hresult : (((s.took i t x').writeResult t d r.1).thread t).lasting = { x'.lasting with regs := y.regs, latent := y.latent } := by
    rw [(taken_writeResult ..).own, thread_writeDest_self, ← lasting_took s i t x']
    rfl
  rw [State.settled, thread_setFlags_advance]
  generalize ((s.took i t x').writeResult t d r.1).thread t = w at hresult ⊢
  calc ({ w with mode := w.mode ||| r.2.bits, pc := pcAdd w.pc 4, joined := false } : Thread).lasting
      = { w.lasting with mode := w.lasting.mode ||| r.2.bits, pc := pcAdd w.lasting.pc 4, joined := false } := rfl
    _ = _ := by rw [hresult]; rfl

/-- What of the thread a result and its operands leave as it was. -/
theorem thread_settled_kept {i : Instr} {s : State} {t : Nat} {x' : Thread} {vs : List (Pos × OpVal)} {d : Dest} (r : Nat × Flags)
    (h : Solo i s t x' vs d) :
    let y := (s.resulted i t x' d r.1).thread t
    let x := s.thread t
    ((s.settled i t x' d r).thread t).lasting =
      { x.lasting with areg := x'.areg, regs := y.regs, latent := y.latent, joined := false, mode := x.mode ||| r.2.bits, pc := pcAdd x.pc 4 } := by
  intro y x
  obtain ⟨areg, rfl⟩ : ∃ areg, x' = { s.thread t with areg := areg } := ⟨_, h.moved_frame⟩
  exact lasting_settled ..

/-- Settles O48: what lies outside the thread, the thread's own parts, and the destination by its kind. -/
theorem resultFrame : Obligations.ResultFrame := by
  intro i s t x' vs d v f h s' x y
  have houter : s'.outer = s.outer := outer_settled ..
  have hy := thread_settled_kept (v, f) h
  have hregs : y.regs = ((s.resulted i t x' d v).thread t).regs := (congrArg Thread.regs hy :)
  have hscratch : s'.scratch = (s.resulted i t x' d v).scratch := scratch_settled ..
  have kept : ((s.took i t x').thread t).regs = x.regs := (regs_took ..).trans (congrArg Thread.regs h.moved_frame :)
  refine ⟨fun u hu => thread_settled_ne s i x' d (v, f) hu, (congrArg State.phys houter :), (congrArg State.l1 houter :),
    (congrArg State.tile houter :), (congrArg State.banks houter :), (congrArg State.cores houter :), (congrArg State.crews houter :),
    (congrArg State.contexts houter :), (congrArg State.queues houter :), (congrArg State.regs houter :), (congrArg State.pend houter :),
    (congrArg Thread.pc hy :), (congrArg Thread.mode hy :), (congrArg Thread.wb hy :), (congrArg Thread.rb hy :), (congrArg Thread.run hy :),
    (congrArg Thread.trap hy :), (congrArg Thread.phas hy :), (congrArg Thread.loads hy :), (congrArg Thread.stores hy :),
    (congrArg Thread.copies hy :), (congrArg Thread.tiles hy :), (congrArg Thread.slb hy :), (congrArg Thread.areg hy :), ?_, ?_, ?_⟩
  · rintro p n rfl
    refine ⟨hscratch.trans (scratch_took ..), fun q hq => ?_, fun j hj => ?_⟩
    · rw [hregs, State.resulted, regs_writeDest_reg, if_neg (by omega), kept]
    · rw [hregs, State.resulted, regs_writeDest_reg, if_pos (by omega), Nat.add_sub_cancel_left]
  · rintro b n rfl
    refine ⟨hregs.trans kept, fun a ha => ?_, fun j hj => ?_⟩
    · rw [hscratch, State.resulted, byte_writeDest_scratch, if_neg (by omega), scratch_took]
    · rw [hscratch, State.resulted, byte_writeDest_scratch, if_pos (by omega), Nat.add_sub_cancel_left]
  · rintro rfl
    exact ⟨hregs.trans kept, hscratch.trans (scratch_took ..)⟩

end Sys2Proof.Machine
end

section
/-! PROOF. Moves of a window within its stack (R51, R53, R54, R285, R386). -/

namespace Sys2Proof.Machine

/-- A register after the positions from `lo` up to `hi` have been dropped. -/
theorem lookD_dropPositions (r : FMap RVal) (lo hi p : Nat) :
    (dropPositions r lo hi).lookD p {} = if lo ≤ p ∧ p < hi then {} else r.lookD p {} := by
  have h : dropPositions r lo hi = r.filter fun a => !(decide (lo ≤ a.1) && decide (a.1 < hi)) := rfl
  rw [h, FMap.lookD, FMap.look_filter_key fun k => !(decide (lo ≤ k) && decide (k < hi))]
  by_cases hp : lo ≤ p ∧ p < hi
  · simp [hp]
  · rw [if_neg hp, if_pos (by simp only [Bool.not_eq_true', Bool.and_eq_false_iff, decide_eq_false_iff_not]; omega)]
    rfl

/-- A queue program's window does not move outside 0 to 192 (R285, R386). -/
theorem moveWindow_queue_range {s : State} {t insn : Nat} {b : Int} (hq : isQueueTid t = true) (hb : b < 0 ∨ 192 < b) :
    s.moveWindow t b insn = .error { group := 1, code := 0xa, d0 := trunc b 64, d1 := (s.thread t).wb } := by
  simp [State.moveWindow, hq, hb]

/-- A move within the resident range spills and fills nothing (R54). -/
theorem moved_none {x : Thread} {d wb : Nat} (hrb : x.rb ≤ wb) (hd : wb + 64 ≤ x.rb + d) : x.moved d wb = ([], []) := by
  simp only [Thread.moved, spillBlocks_none d wb x.rb 130 hd, List.length_nil, Nat.mul_zero, Nat.add_zero, fillBlocks_none wb x.rb 130 hrb]

/-- It moves the base, drops the positions above the window, and counts no block as spilling or filling. -/
theorem moveWindow_resident {s : State} {t insn wb : Nat} (hq : isQueueTid t = false) (hb : wb ≤ 4032) (hrb : (s.thread t).rb ≤ wb)
    (hd : wb + 64 ≤ (s.thread t).rb + ((s.gridOf t).map (·.depth)).getD 64) :
    s.moveWindow t wb insn =
      .ok ((s.setThread t { s.thread t with wb := wb, regs := dropPositions (s.thread t).regs (wb + 64) 4096 }).setCore (coreOf t) (s.core (coreOf t))) := by
  have h1 : ¬ ((wb : Int) < 0) := by omega
  have h2 : ¬ (4032 < (wb : Int)) := by omega
  simp [State.moveWindow, hq, h1, h2, moved_none hrb hd, State.translateBlocks]

/-- The registers of a thread whose window has moved to `wb`: those that it or a lower window names are kept, those above dropped. -/
theorem regs_kept_and_dropped (r : FMap RVal) (wb : Nat) :
    (∀ p, p < wb + 64 → (dropPositions r (wb + 64) 4096).lookD p {} = r.lookD p {})
      ∧ ∀ p, wb + 64 ≤ p → p < 4096 → (dropPositions r (wb + 64) 4096).lookD p {} = {} := by
  refine ⟨fun p hp => ?_, fun p hp hp' => ?_⟩
  · rw [lookD_dropPositions, if_neg (by omega)]
  · rw [lookD_dropPositions, if_pos ⟨hp, hp'⟩]

/-- Settles O13, by the kind of thread and the range. -/
theorem windowMoves : Obligations.WindowMoves := by
  refine ⟨fun s t insn wb hq hb => moveWindow_range hq hb, fun s t insn wb hq hb => moveWindow_queue_range hq hb,
    fun s t insn wb hq hb => ⟨_, moveWindow_queue hq hb, ?_⟩, fun s t insn wb hq hb hrb hd => ⟨_, moveWindow_resident hq hb hrb hd, ?_⟩⟩
  · obtain ⟨kept, dropped⟩ := regs_kept_and_dropped (s.thread t).regs wb
    rw [thread_setThread_self]
    exact ⟨rfl, kept, dropped, fun u hu => thread_setThread_ne s _ hu⟩
  · obtain ⟨kept, dropped⟩ := regs_kept_and_dropped (s.thread t).regs wb
    rw [thread_setCore, thread_setThread_self]
    exact ⟨rfl, rfl, kept, dropped, fun u hu => thread_setThread_ne s _ hu, rfl, rfl⟩

end Sys2Proof.Machine
end

section
/-! PROOF. What the events of the copy engine, the traversal unit, the sampler and the rasteriser come to, and the views that engines push to (R62, R243, R244, R264, R269, R273, R276, R279). -/

namespace Sys2Proof.Machine

/-! ### COPY_COMPLETE (R244, R264, R269) -/

section
variable {op : Nat} {o : EngOp} {s : State} (ho : s.findEng op = some o) (ht : s.copyTurn o = true)
include ho ht

/-- A command whose accesses have been performed completes. -/
theorem execCopyComplete_performed (h1 : o.step = 1) : execCopyComplete op s = .next (s.finishCopy o) := by
  simp only [execCopyComplete, ho, ht, h1, Bool.not_true, Bool.false_eq_true, if_false, if_true]

/-- One whose destination overlaps an earlier command's writes its record and performs nothing. -/
theorem execCopyComplete_overlapping (h1 : o.step ≠ 1) (hv : o.overlap ≠ none) :
    execCopyComplete op s = .next (((s.overlapRec o).setEng { o with step := 1 }).finishCopy { o with step := 1 }) := by
  have hv' : o.overlap.isSome = true := Option.isSome_iff_ne_none.2 hv
  simp only [execCopyComplete, ho, ht, h1, hv', Bool.not_true, Bool.false_eq_true, if_false, if_true]

/-- Any other performs its accesses and completes, or waits for what one of them finds. -/
theorem execCopyComplete_performs (h1 : o.step ≠ 1) (hv : o.overlap = none) :
    let r := (s.engRun o).perform
    (r.stop = none → execCopyComplete op s = .next ((r.logFaults.setEng { r.kept with step := 1 }).finishCopy { r.kept with step := 1 }))
      ∧ ∀ w, r.stop = some w → execCopyComplete op s = .next (s.engWait o w) := by
  refine ⟨fun hs => ?_, fun w hs => ?_⟩
  all_goals simp only [execCopyComplete, ho, ht, h1, hv, hs, Option.isSome_none, Bool.not_true, Bool.false_eq_true, if_false]

end

/-! ### RAY_CANDIDATE and RAY_COMPLETE (R273) -/

theorem execRayCandidate_suspends {op kind : Nat} {o : EngOp} {h : RayHit} {r : EngRun} {s : State} (ho : s.findEng op = some o) (hg : s.rayGoes o = true)
    (hr : s.rayRun o = (r, .candidate kind h)) (hs : r.stop = none) :
    execRayCandidate op s = .next ((r.logFaults.setEng { r.kept with ray := { r.o.ray with cand := some (kind, h) } }).pushPop o.tid 7
      { val := BitVec.ofNat 64 o.hitPtr, src := o.id }) := by
  simp only [execRayCandidate, ho, hg, hr, hs, Bool.not_true, Bool.false_eq_true, if_false]

theorem execRayComplete_done {op : Nat} {o : EngOp} {s : State} (ho : s.findEng op = some o) (hk : o.kind = .trace) (hd : o.ray.done = true) :
    execRayComplete op s = .next (s.finishRay o) := by
  simp only [execRayComplete, ho, hk, hd, decide_true, Bool.and_self, if_true]

/-- A spilled ray of an aborted crew refills (R423). -/
theorem execRayComplete_refills {op : Nat} {o : EngOp} {bs : List Byte} {c : Crew} {s : State} (ho : s.findEng op = some o) (hd : o.ray.done = false)
    (hb : o.ray.spill = some bs) (hc : s.crews.look o.crew = some c) (ha : c.run = .aborted) : execRayComplete op s = .next (s.refillRay o) := by
  simp only [execRayComplete, ho, hd, hb, hc, ha, Bool.and_false, Bool.false_eq_true, if_false, Option.isSome_some, Option.any_some, decide_true,
    Bool.and_self, if_true]

/-- A ray that goes on has neither ended nor spilled. -/
theorem rayGoes_live {o : EngOp} {s : State} (hg : s.rayGoes o = true) : o.ray.done = false ∧ o.ray.spill = none := by
  simp only [State.rayGoes, Bool.and_eq_true, Bool.not_eq_true', Option.isNone_iff_eq_none] at hg
  obtain ⟨⟨⟨⟨-, hspill⟩, hdone⟩, -⟩, -⟩ := hg
  exact ⟨hdone, hspill⟩

/-- A ray whose run ends, or that is lost, has its results written and completes. -/
theorem execRayComplete_ends {op : Nat} {o : EngOp} {r : EngRun} {stop : RayStop} {s : State} (ho : s.findEng op = some o) (hg : s.rayGoes o = true)
    (hr : s.rayRun o = (r, stop)) (hs : r.stop = none) (he : stop = .ended ∨ ∃ c d0 d1, stop = .lost c d0 d1) :
    let o' := { r.kept with ray := { r.o.ray with done := true } }
    execRayComplete op s = .next ((r.logFaults.setEng o').finishRay o') := by
  obtain ⟨hdone, hspill⟩ := rayGoes_live hg
  intro o'
  rcases he with rfl | ⟨c, d0, d1, rfl⟩
  all_goals
    simp only [execRayComplete, ho, hg, hr, hs, hdone, hspill, Bool.and_false, Option.isSome_none, Bool.false_and, Bool.not_true, Bool.false_eq_true, if_false]
    rfl

/-! ### MARCH_BATCH (R276) -/

theorem execMarchBatch_done {op : Nat} {o : EngOp} {s : State} (ho : s.findEng op = some o) (hk : o.kind = .march) (hd : o.march.done = true) :
    execMarchBatch op s = .next (s.finishMarch o) := by
  unfold execMarchBatch
  split
  · next hn => rw [ho] at hn; cases hn
  · next o' hf =>
    cases ho.symm.trans hf
    exact if_pos (by rw [hk, hd]; rfl)

/-- What a march that has come as far as `r`, the end of a batch where `whole`, leaves of the command `o`: it goes on, completes with its last batch, or pushes a batch's status. -/
def EngRun.marched (r : EngRun) (whole : Bool) (o : EngOp) : State :=
  let m := r.o.march
  let last : EngOp := { r.kept with march := { m with done := true } }
  if !whole then r.logFaults.setEng r.kept
  else if (parseMarch o.cmd).nrays ≤ m.ray then (r.logFaults.setEng last).finishMarch last
  else (r.logFaults.setEng { r.kept with march := { m with batch := m.batch + 1, rows := 0 } }).pushPop o.tid 9
    { val := BitVec.ofNat 64 (batchStatus false m.batch m.rows), src := o.id }

theorem marched_midway {r : EngRun} {whole : Bool} (o : EngOp) (h : whole = false) : r.marched whole o = r.logFaults.setEng r.kept := by
  rw [EngRun.marched, h]
  rfl

theorem marched_last {r : EngRun} {whole : Bool} {o : EngOp} (h : whole = true) (hn : (parseMarch o.cmd).nrays ≤ r.o.march.ray) :
    let last : EngOp := { r.kept with march := { r.o.march with done := true } }
    r.marched whole o = (r.logFaults.setEng last).finishMarch last := by
  rw [EngRun.marched, h]
  exact if_pos hn

theorem marched_batch {r : EngRun} {whole : Bool} {o : EngOp} (h : whole = true) (hn : r.o.march.ray < (parseMarch o.cmd).nrays) :
    let m := r.o.march
    r.marched whole o = (r.logFaults.setEng { r.kept with march := { m with batch := m.batch + 1, rows := 0 } }).pushPop o.tid 9
      { val := BitVec.ofNat 64 (m.batch % 2 * 2 ^ 30 + m.rows), src := o.id } := by
  have status (n k : Nat) : batchStatus false n k = n % 2 * 2 ^ 30 + k := by simp [batchStatus]
  rw [EngRun.marched, h, status]
  exact if_neg (Nat.not_le.2 hn)

/-- The march itself is generalised, so that nothing evaluates it. -/
theorem execMarchBatch_goes {op : Nat} {o : EngOp} {s : State} (ho : s.findEng op = some o) (hd : o.march.done = false) (ht : s.marchTurn o = true)
    (hs : ((s.beginMarch o).1.marchOn (s.beginMarch o).2).1.stop = none) :
    execMarchBatch op s =
      .next (((s.beginMarch o).1.marchOn (s.beginMarch o).2).1.marched ((s.beginMarch o).1.marchOn (s.beginMarch o).2).2 (s.beginMarch o).2) := by
  unfold execMarchBatch
  split
  · next hn => rw [ho] at hn; cases hn
  next o' hf =>
  cases ho.symm.trans hf
  rw [if_neg (by rw [hd, Bool.and_false]; exact Bool.false_ne_true), if_neg (by rw [ht]; exact Bool.false_ne_true)]
  generalize s.beginMarch o = begun at hs ⊢
  obtain ⟨s', o'⟩ := begun
  dsimp only at hs ⊢
  generalize State.marchOn s' o' none = marched at hs ⊢
  obtain ⟨r, whole⟩ := marched
  dsimp only at hs ⊢
  simp only [hs, EngRun.marched]
  repeat' split
  all_goals rfl

/-! ### STREAM_CLOSE (R279, R298, R299) -/

theorem execStreamClose_takes {t : Nat} {o : EngOp} {s : State} (h : (s.recordsOf t).head?.filter s.takesRecord = some o) :
    execStreamClose t s = .next (s.takeRecord o) := by
  simp only [execStreamClose, h]

section
variable {t : Nat} {x : Stream} {s : State} (hr : (s.recordsOf t).head?.filter s.takesRecord = none) (hx : s.streams.look t = some x)
include hr hx

theorem execStreamClose_finishes {o : EngOp} (h : s.ops.find? (fun o => o.kind = .emit && o.tid = t && o.step = 1) = some o) :
    execStreamClose t s = .next (s.finishRecord o x) := by
  simp only [execStreamClose, hr, hx, h]

/-- A stream of which all has been taken and performed is dropped by a shadow, compared by a checked crew's copies, closed by any other. -/
theorem execStreamClose_done (hd : s.streamDone t x = true) :
    execStreamClose t s = .next (if s.shadowOf t then s.dropStream t else if s.dualOf t then s.closeChecked t x else s.closeStream t x) := by
  have hnone : s.ops.find? (fun o => o.kind = .emit && o.tid = t && o.step = 1) = none := by
    simp only [State.streamDone, Bool.and_eq_true, Bool.not_eq_true'] at hd
    obtain ⟨-, hops⟩ := hd
    rw [List.find?_eq_none]
    exact List.any_eq_false.1 hops
  simp only [execStreamClose, hr, hx, hnone, hd, Bool.not_true, Bool.false_eq_true, if_false]
  repeat' split
  all_goals rfl

end

/-! ### POP_ENTRY_PUSH and the views (R62, R243) -/

theorem execPopEntryPush_enters {n : Nat} {h : HeldPop} {s : State} (hf : s.heldPops.find? (·.id = n) = some h)
    (ho : (s.heldPops.find? fun x => x.tid = h.tid && x.q = h.q) = some h) (hr : s.viewRoom h.tid h.q = true) :
    execPopEntryPush n s =
      .next ({ s with heldPops := s.heldPops.filter fun x => x.id ≠ n }.setThread h.tid ((s.thread h.tid).pushView h.q h.ent)) := by
  simp only [execPopEntryPush, hf, ho, hr, Option.map_some, ne_eq, not_true, decide_false, Bool.not_true, Bool.or_self, Bool.false_eq_true, if_false]

/-- An entry enters its view as the newest. -/
theorem view_pushView (x : Thread) (e : PopEntry) {q : Nat} (hq : q ∈ [1, 7, 9, 12]) : (x.pushView q e).view (80 + q) = x.view (80 + q) ++ [e] := by
  simp only [List.mem_cons, List.not_mem_nil, or_false] at hq
  rcases hq with rfl | rfl | rfl | rfl <;> rfl

/-- A view with space and no older entry held takes the entry. -/
theorem pushPop_enters {s : State} {t q : Nat} (e : PopEntry) (hl : (s.thread t).run ≠ .exited) (hr : s.viewRoom t q = true)
    (hh : ∀ h ∈ s.heldPops, h.tid = t → h.q ≠ q) : s.pushPop t q e = s.setThread t ((s.thread t).pushView q e) := by
  have hany : (s.heldPops.any fun h => h.tid = t && h.q = q) = false := by
    rw [List.any_eq_false]
    intro h hm
    simpa using hh h hm
  simp only [State.pushPop, hl, hr, hany, decide_false, Bool.false_and, Bool.not_false, Bool.and_self, Bool.false_eq_true, if_false, if_true]

/-- For a view without space the engine holds the entry. -/
theorem pushPop_holds {s : State} {t q : Nat} (e : PopEntry) (hl : (s.thread t).run ≠ .exited) (hr : s.viewRoom t q = false) :
    s.pushPop t q e = { s with heldPops := s.heldPops ++ [{ id := s.uid, tid := t, q := q, ent := e }], uid := s.uid + 1 } := by
  simp only [State.pushPop, hl, hr, decide_false, Bool.false_and, Bool.false_eq_true, if_false]

theorem viewRoom_length {s : State} {t q : Nat} (h : s.viewRoom t q = true) : ((s.thread t).view (80 + q)).length < 4 := by
  simp only [State.viewRoom, Bool.and_eq_true, decide_eq_true_eq] at h
  obtain ⟨hlen, -⟩ := h
  exact hlen

/-- Settles O37, one event at a time. -/
theorem engineEvents : Obligations.EngineEvents := by
  refine ⟨⟨fun op o s ho ht => ?_, fun op kind o h r s ho hg hr hs => ?_, fun op o s ho hk => ?_, fun op o s ho hk => ?_, fun t s => ?_,
    fun n h s hf ho hr => ?_⟩, fun s t q e hq hl => ⟨fun hr hh => ?_, fun hr => ?_, viewRoom_length⟩⟩
  · rw [exec_copyComplete]
    exact ⟨execCopyComplete_performed ho ht, execCopyComplete_overlapping ho ht, execCopyComplete_performs ho ht⟩
  · rw [exec_rayCandidate]
    exact execRayCandidate_suspends ho hg hr hs
  · rw [exec_rayComplete]
    exact ⟨execRayComplete_done ho hk, fun bs c hd hb hc ha => execRayComplete_refills ho hd hb hc ha,
      fun r stop hg hr hs he => execRayComplete_ends ho hg hr hs he⟩
  · rw [exec_marchBatch]
    refine ⟨execMarchBatch_done ho hk, fun hd ht => ?_⟩
    intro x r m hs
    rw [execMarchBatch_goes ho hd ht hs]
    exact ⟨fun hw => congrArg _ (marched_midway _ hw), fun hw hn => congrArg _ (marched_last hw hn), fun hw hn => congrArg _ (marched_batch hw hn)⟩
  · rw [exec_streamClose]
    refine ⟨fun o h => execStreamClose_takes h, fun x hr hx => ⟨fun o h => execStreamClose_finishes hr hx h, fun hd => ?_⟩⟩
    rw [execStreamClose_done hr hx hd]
    refine ⟨fun hs => by rw [if_pos hs], fun hs hu => ?_, fun hs hu => ?_⟩
    · rw [if_neg (by rw [hs]; exact Bool.false_ne_true), if_pos hu]
    · rw [if_neg (by rw [hs]; exact Bool.false_ne_true), if_neg (by rw [hu]; exact Bool.false_ne_true)]
  · rw [exec_popEntryPush]
    exact execPopEntryPush_enters hf ho hr
  · rw [pushPop_enters e hl hr hh, thread_setThread_self]
    exact ⟨view_pushView _ e hq, rfl, fun u hu => thread_setThread_ne s _ hu⟩
  · rw [pushPop_holds e hl hr]
    exact ⟨rfl, rfl⟩

end Sys2Proof.Machine
end

section
/-! PROOF. Elements of integer matrix products (R81). -/

namespace Sys2Proof.Machine

/-- A byte's two's complement reading is its signed value (R11). -/
theorem signExtend_byte (b : Byte) : signExtend b.toNat 8 = b.toInt := by
  have := b.isLt
  simp only [signExtend, BitVec.toInt_eq_toNat_cond]
  split <;> split <;> omega

theorem foldl_add_eq_add_foldr (g : Nat → Int) (l : List Nat) (a : Int) :
    l.foldl (fun a k => a + g k) a = a + (l.map g).foldr (· + ·) 0 := by
  induction l generalizing a with
  | nil => exact (Int.add_zero a).symm
  | cons x l ih => rw [List.foldl_cons, ih, List.map_cons, List.foldr_cons, Int.add_assoc]

theorem trunc_cast (x : Int) (n : Nat) : (trunc x n : Int) = x % 2 ^ n :=
  Int.toNat_of_nonneg (Int.emod_nonneg _ (Int.pow_ne_zero (by decide)))

theorem trunc_lt (x : Int) (n : Nat) : trunc x n < 2 ^ n := by
  have h : (trunc x n : Int) < 2 ^ n := trunc_cast x n ▸ Int.emod_lt_of_pos _ (Int.pow_pos (by decide))
  exact_mod_cast h

/-- The products that an integer element adds up are those of the signed bytes (R81). -/
theorem intOut_cast (k : Nat) (ra rb : List Byte) (acc : Nat) :
    (intOut k ra rb acc : Int) =
      ((acc : Int) + ((List.range k).map fun i => (ra.getD i 0).toInt * (rb.getD i 0).toInt).foldr (· + ·) 0) % 2 ^ 32 := by
  rw [intOut, trunc_cast, foldl_add_eq_add_foldr]
  simp only [byteAt, signExtend_byte]

theorem intOut_comm (k : Nat) (ra rb : List Byte) (acc : Nat) : intOut k ra rb acc = intOut k rb ra acc := by
  simp only [intOut, Int.mul_comm]

/-- Settles O36: an element is the truncated sum, and its products commute. -/
theorem integerMatrixElement : Obligations.IntegerMatrixElement :=
  ⟨intOut_cast, fun _ _ _ _ => trunc_lt _ _, intOut_comm⟩

end Sys2Proof.Machine
end

section
/-! PROOF. Patterns of a format: sign and magnitude, what each decodes to, NaN operands and negation (R70, R72). -/

namespace Sys2Proof.Machine

namespace Fmt

/-- A pattern's two fields hold at least one bit each, as in every format of R70. -/
structure Proper (f : Fmt) : Prop where
  e_pos : 0 < f.e
  m_pos : 0 < f.m

theorem proper_of_mem {f : Fmt} (h : f ∈ [f16, bf16, f32, f64]) : f.Proper := by
  simp only [List.mem_cons, List.not_mem_nil, or_false] at h
  rcases h with rfl | rfl | rfl | rfl <;> exact ⟨by decide, by decide⟩

variable {f : Fmt}

/-! ### Sign and magnitude -/

theorem signBit_eq (f : Fmt) : f.signBit = 2 ^ f.e * 2 ^ f.m := Nat.pow_add ..

theorem infBits_add (f : Fmt) : f.infBits + 2 ^ f.m = f.signBit := by
  rw [signBit_eq, infBits, ← Nat.succ_mul, Nat.succ_eq_add_one, Nat.sub_add_cancel Nat.one_le_two_pow]

theorem infBits_lt (f : Fmt) : f.infBits < f.signBit := by
  have := infBits_add f
  have : 0 < 2 ^ f.m := Nat.two_pow_pos _
  omega

theorem signBit_pos (f : Fmt) : 0 < f.signBit := Nat.two_pow_pos _

theorem infBits_pos (hf : f.Proper) : 0 < f.infBits := by
  have : 1 < 2 ^ f.e := Nat.one_lt_two_pow (Nat.ne_of_gt hf.e_pos)
  exact Nat.mul_pos (by omega) (Nat.two_pow_pos _)

@[simp] theorem withSign_false (b : Nat) : f.withSign false b = b := Nat.zero_add b
@[simp] theorem withSign_true (b : Nat) : f.withSign true b = f.signBit + b := rfl

theorem withSign_lt (n : Bool) {b : Nat} (hb : b < f.signBit) : f.withSign n b < 2 * f.signBit := by
  cases n <;> simp <;> omega

@[simp] theorem neg_withSign (n : Bool) {b : Nat} (hb : b < f.signBit) : f.neg (f.withSign n b) = n := by
  cases n <;> simp [neg, Nat.div_eq_of_lt hb, Nat.add_div_left _ f.signBit_pos]

@[simp] theorem mag_withSign (n : Bool) {b : Nat} (hb : b < f.signBit) : f.mag (f.withSign n b) = b := by
  cases n <;> simp [mag, Nat.mod_eq_of_lt hb]

theorem withSign_mod (n : Bool) (b : Nat) : f.withSign n b % 2 ^ f.m = b % 2 ^ f.m := by
  cases n
  · rw [withSign_false]
  · rw [withSign_true, signBit_eq, Nat.mul_add_mod_self_right]

/-- Every pattern of the format's width is a sign and a magnitude. -/
theorem eq_withSign {x : Nat} (hx : x < 2 * f.signBit) : x = f.withSign (f.neg x) (f.mag x) := by
  have h := Nat.div_add_mod x f.signBit
  have hq : x / f.signBit < 2 := Nat.div_lt_of_lt_mul (by omega)
  rcases Nat.le_one_iff_eq_zero_or_eq_one.1 (Nat.le_of_lt_succ hq) with hd | hd <;> rw [hd] at h <;> simp [neg, mag, hd] <;> omega

theorem mag_lt (f : Fmt) (x : Nat) : f.mag x < f.signBit := Nat.mod_lt _ f.signBit_pos

/-! ### Decoding -/

/-- The significand of a finite magnitude. -/
def finMan (f : Fmt) (b : Nat) : Nat := if b / 2 ^ f.m = 0 then b % 2 ^ f.m else 2 ^ f.m + b % 2 ^ f.m
/-- The exponent of a finite magnitude. -/
def finExp (f : Fmt) (b : Nat) : Int := f.eulp + (b / 2 ^ f.m - 1 : Nat)

theorem decode_withSign_fin (n : Bool) {b : Nat} (hb : b < f.infBits) : f.decode (f.withSign n b) = .fin n (f.finMan b) (f.finExp b) := by
  have hs := Nat.lt_trans hb f.infBits_lt
  have hex : b / 2 ^ f.m < 2 ^ f.e - 1 := Nat.div_lt_of_lt_mul (by rwa [Nat.mul_comm])
  simp only [decode, Nat.mod_eq_of_lt (withSign_lt n hs), neg_withSign n hs, mag_withSign n hs, withSign_mod, if_neg (Nat.ne_of_lt hex), finMan, finExp]
  split
  next h => simp [h]
  next h =>
    rw [FVal.fin.injEq]
    refine ⟨rfl, rfl, ?_⟩
    generalize b / 2 ^ f.m = ex at h ⊢
    omega

theorem decode_withSign_inf (n : Bool) : f.decode (f.withSign n f.infBits) = .inf n := by
  have hs := f.infBits_lt
  have hex : f.infBits / 2 ^ f.m = 2 ^ f.e - 1 := Nat.mul_div_cancel _ (Nat.two_pow_pos _)
  have hfr : f.infBits % 2 ^ f.m = 0 := Nat.mul_mod_left ..
  simp only [decode, Nat.mod_eq_of_lt (withSign_lt n hs), neg_withSign n hs, mag_withSign n hs, withSign_mod, hex, hfr, if_true]

theorem quietBit_mul (hf : f.Proper) : f.quietBit * 2 = 2 ^ f.m := Nat.two_pow_pred_mul_two hf.m_pos

theorem isNaN_withSign (n : Bool) {b : Nat} (hb : b < f.signBit) : f.isNaN (f.withSign n b) = decide (f.infBits < b) := by
  rw [isNaN, mag_withSign n hb]

theorem isSNaN_of_not_isNaN {x : Nat} (h : f.isNaN x = false) : f.isSNaN x = false := by
  rw [isSNaN, h, Bool.false_and]

/-- A NaN decodes to a NaN, signalling where its quiet bit is 0. -/
theorem decode_nan (hf : f.Proper) {x : Nat} (hx : x < 2 * f.signBit) (h : f.isNaN x = true) : f.decode x = .nan (f.isSNaN x) := by
  have hlt : f.infBits < f.mag x := of_decide_eq_true h
  have hadd := f.infBits_add
  have hs := f.mag_lt x
  have hex : f.mag x / 2 ^ f.m = 2 ^ f.e - 1 :=
    Nat.div_eq_of_lt_le (Nat.le_of_lt hlt) (by rw [Nat.succ_mul]; exact hadd ▸ hs)
  have hfr : x % 2 ^ f.m ≠ 0 := by
    have hd := Nat.div_add_mod (f.mag x) (2 ^ f.m)
    have hm : f.mag x % 2 ^ f.m = x % 2 ^ f.m := Nat.mod_mod_of_dvd _ (f.signBit_eq ▸ Nat.dvd_mul_left ..)
    rw [hex, Nat.mul_comm, hm] at hd
    change f.infBits + _ = _ at hd
    omega
  have hq : x % 2 ^ f.m / f.quietBit % 2 = x / f.quietBit % 2 := by
    rw [← quietBit_mul hf, Nat.mod_mul_right_div_self, Nat.mod_mod]
  simp only [decode, Nat.mod_eq_of_lt hx, hex, if_true, if_neg hfr, hq, isSNaN, h, Bool.true_and]

/-- What decodes to a finite value is a sign and a magnitude below infinity's. -/
theorem of_decode_fin (hf : f.Proper) {x man : Nat} {n : Bool} {exp : Int} (hx : x < 2 * f.signBit) (h : f.decode x = .fin n man exp) :
    ∃ b < f.infBits, x = f.withSign n b ∧ man = f.finMan b ∧ exp = f.finExp b := by
  have hw := eq_withSign hx
  rcases Nat.lt_trichotomy (f.mag x) f.infBits with hb | hb | hb
  · rw [hw, decode_withSign_fin _ hb, FVal.fin.injEq] at h
    obtain ⟨hn, hm, he⟩ := h
    exact ⟨f.mag x, hb, hn ▸ hw, hm.symm, he.symm⟩
  · rw [hw, hb, decode_withSign_inf] at h
    cases h
  · rw [decode_nan hf hx (decide_eq_true hb)] at h
    cases h

theorem isNaN_of_decode_fin (hf : f.Proper) {x man : Nat} {n : Bool} {exp : Int} (hx : x < 2 * f.signBit) (h : f.decode x = .fin n man exp) :
    f.isNaN x = false := by
  obtain ⟨b, hb, rfl, -, -⟩ := of_decode_fin hf hx h
  rw [isNaN_withSign n (Nat.lt_trans hb f.infBits_lt)]
  exact decide_eq_false (Nat.lt_asymm hb)

theorem neg_of_decode_fin (hf : f.Proper) {x man : Nat} {n : Bool} {exp : Int} (hx : x < 2 * f.signBit) (h : f.decode x = .fin n man exp) :
    f.neg x = n := by
  obtain ⟨b, hb, rfl, -, -⟩ := of_decode_fin hf hx h
  exact neg_withSign n (Nat.lt_trans hb f.infBits_lt)

/-! ### Negation (R72, R186) -/

theorem negate_of_isNaN {x : Nat} (h : f.isNaN x = true) : f.negate x = x := if_pos h

theorem mag_negate (x : Nat) : f.mag (f.negate x) = f.mag x := by
  rw [negate]
  split
  · rfl
  split
  next hs =>
    have hle : f.signBit ≤ x := Nat.le_of_not_lt fun hlt => by simp [neg, Nat.div_eq_of_lt hlt] at hs
    exact (Nat.mod_eq_sub_mod hle).symm
  next => exact Nat.add_mod_right ..

theorem isNaN_negate (x : Nat) : f.isNaN (f.negate x) = f.isNaN x := by rw [isNaN, mag_negate, isNaN]

theorem isSNaN_negate (x : Nat) : f.isSNaN (f.negate x) = f.isSNaN x := by
  cases h : f.isNaN x with
  | true => rw [negate_of_isNaN h]
  | false => rw [isSNaN_of_not_isNaN h, isSNaN_of_not_isNaN ((isNaN_negate x).trans h)]

theorem negate_withSign (n : Bool) {b : Nat} (hb : b ≤ f.infBits) : f.negate (f.withSign n b) = f.withSign (!n) b := by
  have hs := Nat.lt_of_le_of_lt hb f.infBits_lt
  rw [negate, isNaN_withSign n hs, decide_eq_false (Nat.not_lt_of_le hb), neg_withSign n hs]
  cases n <;> simp [Nat.add_comm]

theorem decode_negate (hf : f.Proper) {x man : Nat} {n : Bool} {exp : Int} (hx : x < 2 * f.signBit) (h : f.decode x = .fin n man exp) :
    f.decode (f.negate x) = .fin (!n) man exp := by
  obtain ⟨b, hb, rfl, rfl, rfl⟩ := of_decode_fin hf hx h
  rw [negate_withSign n (Nat.le_of_lt hb), decode_withSign_fin _ hb]

/-! ### The first NaN operand (R72) -/

theorem firstNaN_cons_of_isNaN {x : Nat} (l : List Nat) (h : f.isNaN x = true) : f.firstNaN (x :: l) = some (f.quiet x) := if_pos h
theorem firstNaN_cons_of_not_isNaN {x : Nat} (l : List Nat) (h : f.isNaN x = false) : f.firstNaN (x :: l) = f.firstNaN l :=
  if_neg (by rw [h]; exact Bool.false_ne_true)

theorem anySNaN_pair (a b : Nat) : f.anySNaN [a, b] = (f.isSNaN a || f.isSNaN b) := by simp [anySNaN]

theorem firstNaN_negate (a b : Nat) : f.firstNaN [a, f.negate b] = f.firstNaN [a, b] := by
  cases h : f.isNaN b with
  | true => rw [negate_of_isNaN h]
  | false => simp [firstNaN, isNaN_negate, h]

end Fmt

end Sys2Proof.Machine
end

section
/-! PROOF. What NaN operands and the special operands of the approximated functions give (R72, R96, R187). -/

namespace Sys2Proof.Machine

namespace Fmt

variable {f : Fmt}

theorem quiet_cases (x : Nat) : f.quiet x = x ∨ f.quiet x = x + f.quietBit := by
  unfold quiet
  split
  · exact .inr rfl
  · exact .inl rfl

/-! ### Operations on a NaN (R72, R187) -/

theorem add_of_firstNaN {a b y : Nat} (rm : Rm) (h : f.firstNaN [a, b] = some y) : f.add rm a b = (y, { nv := f.isSNaN a || f.isSNaN b }) := by
  rw [← anySNaN_pair, add, h]

theorem sub_of_firstNaN {a b y : Nat} (rm : Rm) (h : f.firstNaN [a, b] = some y) : f.sub rm a b = (y, { nv := f.isSNaN a || f.isSNaN b }) := by
  rw [sub, add_of_firstNaN rm ((firstNaN_negate a b).trans h), isSNaN_negate]

theorem mul_of_firstNaN {a b y : Nat} (rm : Rm) (h : f.firstNaN [a, b] = some y) : f.mul rm a b = (y, { nv := f.isSNaN a || f.isSNaN b }) := by
  rw [← anySNaN_pair, mul, h]

theorem fma_of_firstNaN {a b c y : Nat} (rm : Rm) (h : f.firstNaN [a, b, c] = some y) : (f.fma rm a b c).1 = y := by
  rw [fma, h]

theorem minMax_of_isNaN_left {a b : Nat} (isMax : Bool) (ha : f.isNaN a = true) (hb : f.isNaN b = false) : (f.minMax isMax a b).1 = b := by
  simp [minMax, ha, hb]

theorem minMax_of_isNaN_right {a b : Nat} (isMax : Bool) (ha : f.isNaN a = false) (hb : f.isNaN b = true) : (f.minMax isMax a b).1 = a := by
  simp [minMax, ha, hb]

theorem minMax_flags (isMax : Bool) (a b : Nat) : (f.minMax isMax a b).2 = { nv := f.isSNaN a || f.isSNaN b } := by
  rw [← anySNaN_pair]
  cases ha : f.isNaN a with
  | true => cases hb : f.isNaN b <;> simp [minMax, ha, hb]
  | false =>
    cases hb : f.isNaN b with
    | true => simp [minMax, ha, hb]
    | false =>
      have hnv : f.anySNaN [a, b] = false := by rw [anySNaN_pair, isSNaN_of_not_isNaN ha, isSNaN_of_not_isNaN hb]; rfl
      simp only [minMax, ha, hb, hnv, Bool.false_and, Bool.false_eq_true, if_false]
      split <;> rfl

/-! ### Invalid operations on infinities (R72) -/

theorem isNaN_withSign_infBits (n : Bool) : f.isNaN (f.withSign n f.infBits) = false := by
  rw [isNaN_withSign n f.infBits_lt, decide_eq_false (Nat.lt_irrefl _)]

theorem isNaN_zero : f.isNaN 0 = false := by simp [isNaN, mag]

theorem decode_zero (hf : f.Proper) (n : Bool) : f.decode (f.withSign n 0) = .fin n 0 f.eulp := by
  rw [decode_withSign_fin n (infBits_pos hf)]
  simp [finMan, finExp]

theorem add_opposite_infinities (rm : Rm) : f.add rm (f.withSign false f.infBits) (f.withSign true f.infBits) = (f.defaultNaN, { nv := true }) := by
  simp only [add, firstNaN, isNaN_withSign_infBits, decode_withSign_inf, Bool.false_eq_true, if_false]

theorem mul_zero_infinity (hf : f.Proper) (rm : Rm) : f.mul rm (f.withSign false 0) (f.withSign false f.infBits) = (f.defaultNaN, { nv := true }) := by
  have h0 : f.isNaN (f.withSign false 0) = false := by rw [withSign_false, isNaN_zero]
  simp only [mul, firstNaN, h0, isNaN_withSign_infBits, decode_zero hf, decode_withSign_inf, Bool.false_eq_true, if_false, if_true]

/-! ### Special operands of the reciprocal and the square roots (R96) -/

theorem rcp_zero (hf : f.Proper) (fn : Nat) (n : Bool) : f.rcp fn (f.withSign n 0) = (f.withSign n f.infBits, { dz := true }) := by
  simp only [rcp, decode_zero hf, if_true]

theorem rcp_infinity (fn : Nat) (n : Bool) : f.rcp fn (f.withSign n f.infBits) = (f.withSign n 0, {}) := by
  simp only [rcp, decode_withSign_inf]

theorem rsq_zero (hf : f.Proper) (fn : Nat) (n : Bool) : f.rsq fn (f.withSign n 0) = (f.withSign n f.infBits, { dz := true }) := by
  simp only [rsq, decode_zero hf, if_true]

theorem rsq_infinity (fn : Nat) : f.rsq fn (f.withSign false f.infBits) = (0, {}) := by
  simp only [rsq, decode_withSign_inf, Bool.false_eq_true, if_false]

theorem sqrt_zero (hf : f.Proper) (rm : Rm) (n : Bool) : f.sqrt rm (f.withSign n 0) = (f.withSign n 0, {}) := by
  simp only [sqrt, decode_zero hf, if_true]

theorem sqrt_infinity (rm : Rm) : f.sqrt rm (f.withSign false f.infBits) = (f.withSign false f.infBits, {}) := by
  simp only [sqrt, decode_withSign_inf, Bool.false_eq_true, if_false]

theorem finMan_pos {b : Nat} (hb : 0 < b) : 0 < f.finMan b := by
  unfold finMan
  split
  next h => rwa [Nat.mod_eq_of_lt ((Nat.div_eq_zero_iff_lt (Nat.two_pow_pos _)).1 h)]
  next => exact Nat.add_pos_left (Nat.two_pow_pos _) _

/-- A negative operand below 0 is a nonzero finite value or the infinity. -/
theorem decode_negative {x : Nat} (hn : f.neg x = true) (h0 : 0 < f.mag x) (h1 : f.mag x ≤ f.infBits) (hx : x < 2 * f.signBit) :
    f.decode x = .inf true ∨ ∃ m e, m ≠ 0 ∧ f.decode x = .fin true m e := by
  rw [eq_withSign hx, hn]
  rcases Nat.eq_or_lt_of_le h1 with h | h
  · exact .inl (h ▸ decode_withSign_inf true)
  · exact .inr ⟨_, _, Nat.ne_of_gt (finMan_pos h0), decode_withSign_fin true h⟩

section Negative
variable {x : Nat} (h : f.decode x = .inf true ∨ ∃ m e, m ≠ 0 ∧ f.decode x = .fin true m e)
include h

theorem rsq_negative (fn : Nat) : f.rsq fn x = (f.defaultNaN, { nv := true }) := by
  obtain h | ⟨m, e, hm, h⟩ := h
  · simp only [rsq, h, if_true]
  · simp only [rsq, h, if_neg hm, if_true]

theorem sqrt_negative (rm : Rm) : f.sqrt rm x = (f.defaultNaN, { nv := true }) := by
  obtain h | ⟨m, e, hm, h⟩ := h
  · simp only [sqrt, h, if_true]
  · simp only [sqrt, h, if_neg hm, if_true]

end Negative

theorem rcp_nan {x : Nat} {sg : Bool} (fn : Nat) (h : f.decode x = .nan sg) : f.rcp fn x = (f.quiet x, { nv := sg }) := by simp only [rcp, h]
theorem rsq_nan {x : Nat} {sg : Bool} (fn : Nat) (h : f.decode x = .nan sg) : f.rsq fn x = (f.quiet x, { nv := sg }) := by simp only [rsq, h]
theorem sqrt_nan {x : Nat} {sg : Bool} (rm : Rm) (h : f.decode x = .nan sg) : f.sqrt rm x = (f.quiet x, { nv := sg }) := by simp only [sqrt, h]

end Fmt

/-! ### Special operands of the binary32 functions (R96) -/

theorem f32_proper : f32.Proper := ⟨by decide, by decide⟩

section Binary32
variable {x : Nat} {n : Bool}

theorem exp2F32_nan (h : f32.decode x = .nan n) : exp2F32 x = (f32.quiet x, { nv := n }) := by simp only [exp2F32, h]
theorem log2F32_nan (h : f32.decode x = .nan n) : log2F32 x = (f32.quiet x, { nv := n }) := by simp only [log2F32, h]
theorem trigF32_nan (c : Bool) (h : f32.decode x = .nan n) : trigF32 c x = (f32.quiet x, { nv := n }) := by simp only [trigF32, h]

theorem exp2F32_infinity (h : f32.decode x = .inf n) : exp2F32 x = (if n then 0 else f32.infBits, {}) := by simp only [exp2F32, h]
theorem trigF32_infinity (c : Bool) (h : f32.decode x = .inf n) : trigF32 c x = (f32.defaultNaN, { nv := true }) := by simp only [trigF32, h]
theorem log2F32_infinity (h : f32.decode x = .inf false) : log2F32 x = (f32.infBits, {}) := by
  simp only [log2F32, h, Bool.false_eq_true, if_false]

theorem log2F32_zero {e : Int} (h : f32.decode x = .fin n 0 e) : log2F32 x = (f32.withSign true f32.infBits, { dz := true }) := by
  simp only [log2F32, h, if_true]
theorem sin_zero {e : Int} (h : f32.decode x = .fin n 0 e) : trigF32 false x = (x, {}) := by
  simp only [trigF32, h, if_true, Bool.false_eq_true, if_false]
theorem cos_zero {e : Int} (h : f32.decode x = .fin n 0 e) : trigF32 true x = (0x3f800000, {}) := by
  simp only [trigF32, h, if_true]

theorem log2F32_negative (h : f32.decode x = .inf true ∨ ∃ m e, m ≠ 0 ∧ f32.decode x = .fin true m e) :
    log2F32 x = (f32.defaultNaN, { nv := true }) := by
  obtain h | ⟨m, e, hm, h⟩ := h
  · simp only [log2F32, h, if_true]
  · simp only [log2F32, h, if_neg hm, if_true]

/-- The logarithm of a power of 2 is its exponent, exactly. -/
theorem log2F32_powerOfTwo {k : Nat} {e : Int} (h : f32.decode x = .fin false (2 ^ k) e) : log2F32 x = f32.roundInt .rne (e + k) 0 false := by
  simp only [log2F32, h, Nat.ne_of_gt (Nat.two_pow_pos k), Nat.log2_two_pow, Bool.false_eq_true, if_false, if_true]

end Binary32

/-- Settles O9: the first NaN operand decides, and each special operand decodes to the case that its function names. -/
theorem nanAndApproximationResults : Obligations.NanAndApproximationResults := by
  refine ⟨fun f hf rm a b c => ?_, fun f hf rm n => ?_, ?_⟩
  · have hp := Fmt.proper_of_mem hf
    refine ⟨Fmt.quiet_cases a, fun ha => ?_, fun ha hb => ?_, fun ha hb hc => ?_,
      fun m => ⟨Fmt.minMax_of_isNaN_left m, Fmt.minMax_of_isNaN_right m, Fmt.minMax_flags m a b⟩,
      by simpa using Fmt.add_opposite_infinities (f := f) rm, by simpa using Fmt.mul_zero_infinity hp rm⟩
    · have h l := Fmt.firstNaN_cons_of_isNaN l ha
      exact ⟨Fmt.add_of_firstNaN rm (h _), Fmt.sub_of_firstNaN rm (h _), Fmt.mul_of_firstNaN rm (h _), Fmt.fma_of_firstNaN rm (h _)⟩
    · have h l := (Fmt.firstNaN_cons_of_not_isNaN (b :: l) ha).trans (Fmt.firstNaN_cons_of_isNaN l hb)
      have hs : (f.isSNaN a || f.isSNaN b) = f.isSNaN b := by rw [Fmt.isSNaN_of_not_isNaN ha, Bool.false_or]
      rw [← hs]
      exact ⟨Fmt.add_of_firstNaN rm (h _), Fmt.sub_of_firstNaN rm (h _), Fmt.mul_of_firstNaN rm (h _), Fmt.fma_of_firstNaN rm (h _)⟩
    · refine Fmt.fma_of_firstNaN rm ?_
      rw [Fmt.firstNaN_cons_of_not_isNaN _ ha, Fmt.firstNaN_cons_of_not_isNaN _ hb, Fmt.firstNaN_cons_of_isNaN _ hc]
  · have hp : f.Proper := Fmt.proper_of_mem (List.mem_cons_of_mem _ (List.mem_cons_of_mem _ hf))
    have rcp0 := Fmt.rcp_zero hp n
    have rcpInf := Fmt.rcp_infinity (f := f) n
    have rsq0 := Fmt.rsq_zero hp n
    have sqrt0 := Fmt.sqrt_zero hp rm
    exact ⟨by simpa using rcp0 false, by simpa using rcp0 true, by simpa using rcpInf false, by simpa using rcpInf true,
      by simpa using rsq0 false, by simpa using rsq0 true, by simpa using Fmt.rsq_infinity (f := f) n,
      by simpa using sqrt0 false, by simpa using sqrt0 true, by simpa using Fmt.sqrt_infinity (f := f) rm, fun x hn h0 h1 hx =>
      have h := Fmt.decode_negative hn h0 h1 hx
      ⟨Fmt.rsq_negative h n, Fmt.sqrt_negative h rm⟩⟩
  · have inf n : f32.decode (f32.withSign n f32.infBits) = .inf n := Fmt.decode_withSign_inf n
    have zero n : f32.decode (f32.withSign n 0) = .fin n 0 f32.eulp := Fmt.decode_zero f32_proper n
    exact ⟨exp2F32_infinity (inf true), exp2F32_infinity (inf false), log2F32_zero (zero false), log2F32_zero (zero true), log2F32_infinity (inf false),
      log2F32_powerOfTwo (k := 23) (e := -23) (by decide), fun x hn h0 h1 hx => log2F32_negative (Fmt.decode_negative hn h0 h1 hx),
      sin_zero (zero false), sin_zero (zero true), cos_zero (zero false), cos_zero (zero true),
      fun c => ⟨trigF32_infinity c (inf false), trigF32_infinity c (inf true)⟩, fun rm n x hx hlt =>
      have h := Fmt.decode_nan f32_proper hlt hx
      ⟨Fmt.rcp_nan n h, Fmt.rsq_nan n h, Fmt.sqrt_nan rm h, exp2F32_nan h, log2F32_nan h, trigF32_nan false h, trigF32_nan true h⟩⟩

end Sys2Proof.Machine
end

section
/-! PROOF. Rounding: the multiple taken, overflow, what a rounded result decodes to, and sums and products rounded once (R73, R186). -/

namespace Sys2Proof.Machine

/-! ### The multiple taken (R73) -/

theorem roundAt_of_le {exp q : Int} (rm : Rm) (neg : Bool) (man : Nat) (h : q ≤ exp) :
    roundAt rm neg man exp q = (man * 2 ^ (exp - q).toNat, false) := if_pos h

theorem roundAt_of_lt {exp q : Int} (rm : Rm) (neg : Bool) (man : Nat) (h : exp < q) :
    roundAt rm neg man exp q =
      (man / 2 ^ (q - exp).toNat + (roundsUp rm neg (man / 2 ^ (q - exp).toNat % 2 = 1) (man % 2 ^ (q - exp).toNat) (2 ^ ((q - exp).toNat - 1))).toNat,
        decide (man % 2 ^ (q - exp).toNat ≠ 0)) := by
  rw [roundAt, if_neg (Int.not_le.2 h)]
  simp only [Prod.mk.injEq, and_true]
  split
  next hup => rw [hup]; rfl
  next hup => rw [eq_false_of_ne_true hup]; rfl

theorem roundsUp_rne_iff {neg odd : Bool} {r half : Nat} : roundsUp .rne neg odd r half = true ↔ half < r ∨ r = half ∧ r ≠ 0 ∧ odd = true := by
  simp [roundsUp, and_assoc]

/-- Nothing is added where nothing is lost. -/
theorem roundsUp_zero (rm : Rm) (neg odd : Bool) (half : Nat) : roundsUp rm neg odd 0 half = false := by
  cases rm <;> simp [roundsUp]

theorem roundsUp_toward {rm : Rm} {neg : Bool} (odd : Bool) (r half : Nat) (h : rm = .rtz ∨ (rm = .rup ∧ neg = true) ∨ (rm = .rdn ∧ neg = false)) :
    roundsUp rm neg odd r half = false := by
  obtain rfl | ⟨rfl, rfl⟩ | ⟨rfl, rfl⟩ := h <;> rfl

theorem roundsUp_away {rm : Rm} {neg : Bool} (odd : Bool) (r half : Nat) (h : (rm = .rup ∧ neg = false) ∨ (rm = .rdn ∧ neg = true)) :
    roundsUp rm neg odd r half = decide (r ≠ 0) := by
  obtain ⟨rfl, rfl⟩ | ⟨rfl, rfl⟩ := h <;> rfl

section Taken
variable {rm : Rm} {neg : Bool} {man unit half k r c : Nat} (hr : r < unit) (hman : man = k * unit + r)
  (hc : c = (roundsUp rm neg (k % 2 = 1) r half).toNat)
include hr hman hc

theorem taken_exact_iff : (k + c) * unit = man ↔ r = 0 := by
  rw [Nat.add_mul, hman, Nat.add_left_cancel_iff]
  cases hup : roundsUp rm neg (k % 2 = 1) r half with
  | false =>
    rw [hc, hup, Bool.toNat_false, Nat.zero_mul]
    exact eq_comm
  | true =>
    have hr0 : r ≠ 0 := by
      rintro rfl
      rw [roundsUp_zero] at hup
      exact Bool.false_ne_true hup
    rw [hc, hup, Bool.toNat_true, Nat.one_mul]
    exact iff_of_false (Nat.ne_of_gt hr) hr0

theorem taken_nearest (hu : unit = 2 * half) (hrm : rm = .rne) :
    2 * ((k + c) * unit) ≤ 2 * man + unit ∧ 2 * man ≤ 2 * ((k + c) * unit) + unit
    ∧ (2 * ((k + c) * unit) = 2 * man + unit ∨ 2 * man = 2 * ((k + c) * unit) + unit → (k + c) % 2 = 0) := by
  subst hrm
  have hup := roundsUp_rne_iff (neg := neg) (odd := k % 2 = 1) (r := r) (half := half)
  rw [decide_eq_true_eq] at hup
  rw [Nat.add_mul, hman]
  generalize k * unit = p
  by_cases h : half < r ∨ r = half ∧ r ≠ 0 ∧ k % 2 = 1
  · rw [hc, hup.2 h, Bool.toNat_true]
    omega
  · rw [hc, eq_false_of_ne_true (mt hup.1 h), Bool.toNat_false]
    omega

theorem taken_toward (hrm : rm = .rtz ∨ (rm = .rup ∧ neg = true) ∨ (rm = .rdn ∧ neg = false)) :
    (k + c) * unit ≤ man ∧ man < (k + c) * unit + unit := by
  rw [hc, roundsUp_toward _ _ _ hrm, hman]
  simpa using hr

theorem taken_away (hrm : (rm = .rup ∧ neg = false) ∨ (rm = .rdn ∧ neg = true)) : man ≤ (k + c) * unit ∧ (k + c) * unit < man + unit := by
  rw [hc, roundsUp_away _ _ _ hrm, hman, Nat.add_mul]
  by_cases h : r = 0
  · simp [h]; omega
  · simp [h]; omega

end Taken

/-! ### The size of the multiple taken -/

theorem le_roundAt {man j : Nat} {exp q : Int} (rm : Rm) (neg : Bool) (hman : 0 < man) (h : q + j ≤ exp + Nat.log2 man) :
    2 ^ j ≤ (roundAt rm neg man exp q).1 := by
  have hlog : 2 ^ Nat.log2 man ≤ man := Nat.log2_self_le (Nat.ne_of_gt hman)
  rcases (by omega : q ≤ exp ∨ exp < q) with hle | hlt
  · rw [roundAt_of_le _ _ _ hle]
    calc 2 ^ j ≤ 2 ^ (Nat.log2 man + (exp - q).toNat) := Nat.pow_le_pow_right (by decide) (by omega)
      _ = 2 ^ Nat.log2 man * 2 ^ (exp - q).toNat := Nat.pow_add ..
      _ ≤ man * 2 ^ (exp - q).toNat := Nat.mul_le_mul_right _ hlog
  · rw [roundAt_of_lt _ _ _ hlt]
    refine Nat.le_trans ((Nat.le_div_iff_mul_le (Nat.two_pow_pos _)).2 ?_) (Nat.le_add_right ..)
    calc 2 ^ j * 2 ^ (q - exp).toNat = 2 ^ (j + (q - exp).toNat) := (Nat.pow_add ..).symm
      _ ≤ 2 ^ Nat.log2 man := Nat.pow_le_pow_right (by decide) (by omega)
      _ ≤ man := hlog

theorem roundAt_le {man j : Nat} {exp q : Int} (rm : Rm) (neg : Bool) (h : exp + Nat.log2 man < q + j) :
    (roundAt rm neg man exp q).1 ≤ 2 ^ j := by
  have hlog : man < 2 ^ (Nat.log2 man + 1) := Nat.lt_log2_self
  rcases (by omega : q ≤ exp ∨ exp < q) with hle | hlt
  · rw [roundAt_of_le _ _ _ hle]
    calc man * 2 ^ (exp - q).toNat ≤ 2 ^ (Nat.log2 man + 1) * 2 ^ (exp - q).toNat := Nat.mul_le_mul_right _ (Nat.le_of_lt hlog)
      _ = 2 ^ (Nat.log2 man + 1 + (exp - q).toNat) := (Nat.pow_add ..).symm
      _ ≤ 2 ^ j := Nat.pow_le_pow_right (by decide) (by omega)
  · rw [roundAt_of_lt _ _ _ hlt]
    refine Nat.le_trans (Nat.add_le_add_left (Bool.toNat_le _) _) ((Nat.div_lt_iff_lt_mul (Nat.two_pow_pos _)).2 ?_)
    calc man < 2 ^ (Nat.log2 man + 1) := hlog
      _ ≤ 2 ^ (j + (q - exp).toNat) := Nat.pow_le_pow_right (by decide) (by omega)
      _ = 2 ^ j * 2 ^ (q - exp).toNat := Nat.pow_add ..

namespace Fmt

variable {f : Fmt}

/-! ### The pattern of a rounded magnitude (R73) -/

/-- The exponent of the last place that a value is rounded to. -/
def lastPlace (f : Fmt) (man : Nat) (exp : Int) : Int := max (exp + Nat.log2 man - f.m) f.eulp
/-- The pattern of the rounded magnitude, an overflow from infinity's on. -/
def roundMag (f : Fmt) (rm : Rm) (neg : Bool) (man : Nat) (exp : Int) : Nat :=
  (f.lastPlace man exp - f.eulp).toNat * 2 ^ f.m + (roundAt rm neg man exp (f.lastPlace man exp)).1

theorem round_zero (rm : Rm) (neg : Bool) (exp : Int) : f.round rm neg 0 exp = (f.withSign neg 0, {}) := if_pos rfl

theorem round_overflow {rm : Rm} {neg : Bool} {man : Nat} {exp : Int} (hman : 0 < man) (h : f.infBits ≤ f.roundMag rm neg man exp) :
    f.round rm neg man exp = (f.overflow rm neg, { ovf := true, nx := true }) := by
  rw [round, if_neg (Nat.ne_of_gt hman)]
  exact if_pos h

theorem round_in_range {rm : Rm} {neg : Bool} {man : Nat} {exp : Int} (hman : 0 < man) (h : f.roundMag rm neg man exp < f.infBits) :
    ∃ unf, f.round rm neg man exp = (f.withSign neg (f.roundMag rm neg man exp),
      { unf := unf, nx := (roundAt rm neg man exp (f.lastPlace man exp)).2 }) := by
  rw [round, if_neg (Nat.ne_of_gt hman)]
  exact ⟨_, if_neg (Nat.not_le_of_lt h)⟩

theorem overflow_eq (rm : Rm) (neg : Bool) : f.overflow rm neg = (if neg then f.signBit else 0) +
    (if rm = .rne ∨ (rm = .rup ∧ neg = false) ∨ (rm = .rdn ∧ neg = true) then f.infBits else f.infBits - 1) := by
  cases rm <;> cases neg <;> rfl

theorem infBits_le_roundMag (hf : f.Proper) {man : Nat} {exp : Int} (rm : Rm) (neg : Bool) (hman : 0 < man) (h : 2 ^ (f.e - 1) ≤ exp + Nat.log2 man) :
    f.infBits ≤ f.roundMag rm neg man exp := by
  have he : 2 ^ f.e = 2 * 2 ^ (f.e - 1) := by rw [Nat.mul_comm, Nat.two_pow_pred_mul_two hf.e_pos]
  have hpos : 0 < 2 ^ (f.e - 1) := Nat.two_pow_pos _
  have hemin : f.emin = 2 - (2 ^ (f.e - 1) : Nat) := by rw [emin]; push_cast; rfl
  replace h : ((2 ^ (f.e - 1) : Nat) : Int) ≤ exp + Nat.log2 man := by exact_mod_cast h
  have hq : f.lastPlace man exp = exp + Nat.log2 man - f.m := by rw [lastPlace, eulp, hemin]; omega
  have hd : 2 ^ f.e - 2 ≤ (f.lastPlace man exp - f.eulp).toNat := by rw [hq, eulp, hemin]; omega
  have hk : 2 ^ f.m ≤ (roundAt rm neg man exp (f.lastPlace man exp)).1 := le_roundAt rm neg hman (by omega)
  calc f.infBits = (2 ^ f.e - 2) * 2 ^ f.m + 2 ^ f.m := by rw [infBits, ← Nat.succ_mul]; congr 1; omega
    _ ≤ f.roundMag rm neg man exp := Nat.add_le_add (Nat.mul_le_mul_right _ hd) hk

/-- A magnitude's pattern stands for the multiple that it was built from, whether or not rounding carried into the exponent. -/
theorem finMan_mul (f : Fmt) {d k : Nat} (hk : k ≤ 2 ^ (f.m + 1)) (hd : 0 < d → 2 ^ f.m ≤ k) :
    f.finMan (d * 2 ^ f.m + k) * 2 ^ ((d * 2 ^ f.m + k) / 2 ^ f.m - 1) = k * 2 ^ d := by
  have hp : 0 < 2 ^ f.m := Nat.two_pow_pos _
  rw [finMan, Nat.mul_add_mod_self_right, Nat.add_comm, Nat.add_mul_div_right _ _ hp]
  rcases Nat.lt_or_ge k (2 ^ f.m) with hlt | hge
  · have hd0 : d = 0 := Nat.eq_zero_of_not_pos fun h => Nat.not_lt_of_le (hd h) hlt
    simp [hd0, Nat.div_eq_of_lt hlt, Nat.mod_eq_of_lt hlt]
  rw [Nat.pow_succ] at hk
  rcases Nat.lt_or_eq_of_le hk with hlt | heq
  · have h1 : k / 2 ^ f.m = 1 := Nat.div_eq_of_lt_le (by omega) (by omega)
    have h2 : k % 2 ^ f.m = k - 2 ^ f.m := by rw [Nat.mod_eq_sub_mod hge, Nat.mod_eq_of_lt (by omega)]
    simp [h1, h2, hge]
  · have h1 : k / 2 ^ f.m = 2 := by rw [heq]; exact Nat.mul_div_cancel_left 2 hp
    have h2 : k % 2 ^ f.m = 0 := by rw [heq]; exact Nat.mul_mod_right ..
    rw [h1, h2, heq, if_neg (by omega), Nat.add_zero, show 2 + d - 1 = 1 + d by omega, Nat.pow_add, Nat.pow_one, Nat.mul_assoc]

/-- What is in range decodes to exactly the multiple taken. -/
theorem decode_roundMag {rm : Rm} {neg : Bool} {man : Nat} {exp : Int} (hman : 0 < man) (h : f.roundMag rm neg man exp < f.infBits) :
    ∃ m' e', f.decode (f.withSign neg (f.roundMag rm neg man exp)) = .fin neg m' e' ∧ f.eulp ≤ e'
      ∧ m' * 2 ^ (e' - f.eulp).toNat = (roundAt rm neg man exp (f.lastPlace man exp)).1 * 2 ^ (f.lastPlace man exp - f.eulp).toNat := by
  refine ⟨_, _, decode_withSign_fin neg h, by rw [finExp]; omega, ?_⟩
  have htop : exp + Nat.log2 man < f.lastPlace man exp + (f.m + 1 : Nat) := by rw [lastPlace]; omega
  have hsub : (f.finExp (f.roundMag rm neg man exp) - f.eulp).toNat = f.roundMag rm neg man exp / 2 ^ f.m - 1 := by rw [finExp]; omega
  rw [hsub]
  exact finMan_mul f (roundAt_le rm neg htop) fun hd => le_roundAt rm neg hman (by rw [lastPlace] at hd ⊢; omega)

/-! ### Sums and products (R186) -/

theorem decide_ne_eq_bne (a b : Bool) : decide (a ≠ b) = (a != b) := by cases a <;> cases b <;> rfl

theorem scaled_eq (n : Bool) (m : Nat) (e low : Int) : scaled n m e low = (if n then -1 else 1) * (m * 2 ^ (e - low).toNat) := by
  cases n <;> simp [scaled]

theorem scaled_not (n : Bool) (m : Nat) (e low : Int) : scaled (!n) m e low = -scaled n m e low := by
  cases n <;> simp [scaled]

theorem roundInt_of_ne {v : Int} (rm : Rm) (exp : Int) (z : Bool) (h : v ≠ 0) : f.roundInt rm v exp z = f.round rm (decide (v < 0)) v.natAbs exp :=
  if_neg h

section Finite
variable {a b : Nat} {n1 n2 : Bool} {m1 m2 : Nat} {e1 e2 : Int} (ha : f.decode a = .fin n1 m1 e1) (hb : f.decode b = .fin n2 m2 e2)
  (na : f.isNaN a = false) (nb : f.isNaN b = false)
include ha hb na nb

theorem add_fin (rm : Rm) : f.add rm a b =
    f.roundInt rm (scaled n1 m1 e1 (min e1 e2) + scaled n2 m2 e2 (min e1 e2)) (min e1 e2) (zeroSign rm n1 n2) := by
  simp only [add, firstNaN, na, nb, ha, hb, Bool.false_eq_true, if_false]
  rfl

theorem sub_fin (hf : f.Proper) (hb2 : b < 2 * f.signBit) (rm : Rm) : f.sub rm a b =
    f.roundInt rm (scaled n1 m1 e1 (min e1 e2) - scaled n2 m2 e2 (min e1 e2)) (min e1 e2) (zeroSign rm n1 !n2) := by
  rw [sub, add_fin ha (decode_negate hf hb2 hb) na ((isNaN_negate b).trans nb), scaled_not, ← Int.sub_eq_add_neg]

theorem mul_fin (rm : Rm) (sa : f.neg a = n1) (sb : f.neg b = n2) : f.mul rm a b = f.round rm (n1 != n2) (m1 * m2) (e1 + e2) := by
  simp only [mul, firstNaN, na, nb, ha, hb, sa, sb, Bool.false_eq_true, if_false]
  rw [decide_ne_eq_bne]
  split
  next h => rw [h, round_zero]
  next => rfl

theorem fma_fin {c : Nat} {n3 : Bool} {m3 : Nat} {e3 : Int} (rm : Rm) (sa : f.neg a = n1) (sb : f.neg b = n2)
    (hc : f.decode c = .fin n3 m3 e3) (nc : f.isNaN c = false) : f.fma rm a b c =
    f.roundInt rm (scaled (n1 != n2) (m1 * m2) (e1 + e2) (min (e1 + e2) e3) + scaled n3 m3 e3 (min (e1 + e2) e3)) (min (e1 + e2) e3)
      (zeroSign rm (n1 != n2) n3) := by
  simp only [fma, firstNaN, na, nb, nc, ha, hb, hc, sa, sb, Bool.false_eq_true, if_false]
  rw [decide_ne_eq_bne]
  rfl

end Finite

/-- The exact zero of a − a is negative only where rounding goes down (R73). -/
theorem sub_self_fin (hf : f.Proper) (rm : Rm) {a : Nat} (ha : a < 2 * f.signBit) (hm : f.mag a < f.infBits) :
    f.sub rm a a = (if rm = .rdn then f.signBit else 0, {}) := by
  have hd : f.decode a = .fin (f.neg a) (f.finMan (f.mag a)) (f.finExp (f.mag a)) := by
    have h := decode_withSign_fin (f.neg a) hm
    rwa [← eq_withSign ha] at h
  have hn := isNaN_of_decode_fin hf ha hd
  rw [sub_fin hd hd hn hn hf ha, Int.sub_self, roundInt, if_pos rfl, zeroSign, if_neg (by simp)]
  by_cases h : rm = .rdn <;> simp [h]

end Fmt

/-- Settles O8: each clause from the multiple taken, the magnitude's pattern that it gives, or the equation of the operation on finite operands. -/
theorem roundingModes : Obligations.RoundingModes := by
  refine ⟨fun rm neg man exp q h => roundAt_of_le rm neg man h, fun rm neg man exp q h => ?_, fun f hf rm neg man exp hman h => ?_,
    fun f hf rm a ha hm => ?_, fun f hf rm neg man exp hman h => ?_, fun f hf rm a b c n1 n2 n3 m1 m2 m3 e1 e2 e3 ha hb hc da db dc => ?_⟩
  · have hu : 2 ^ (q - exp).toNat = 2 * 2 ^ ((q - exp).toNat - 1) := by rw [Nat.mul_comm 2, Nat.two_pow_pred_mul_two (by omega)]
    have hr := Nat.mod_lt man (Nat.two_pow_pos (q - exp).toNat)
    have hman := (Nat.div_add_mod' man (2 ^ (q - exp).toNat)).symm
    rw [roundAt_of_lt rm neg man h]
    exact ⟨decide_eq_true_iff.trans (not_congr (taken_exact_iff hr hman rfl)).symm, taken_nearest hr hman rfl hu, taken_toward hr hman rfl,
      taken_away hr hman rfl⟩
  · rw [Fmt.round_overflow hman (Fmt.infBits_le_roundMag (Fmt.proper_of_mem hf) rm neg hman h), Fmt.overflow_eq]
  · exact Fmt.sub_self_fin (Fmt.proper_of_mem hf) rm ha hm
  · intro q k
    rcases Nat.lt_or_ge (f.roundMag rm neg man exp) f.infBits with hlt | hge
    · obtain ⟨unf, hround⟩ := Fmt.round_in_range hman hlt
      rw [hround]
      exact ⟨rfl, Fmt.decode_roundMag hman hlt⟩
    · rw [Fmt.round_overflow hman hge] at h
      cases h
  · have hp := Fmt.proper_of_mem hf
    have na := Fmt.isNaN_of_decode_fin hp ha da
    have nb := Fmt.isNaN_of_decode_fin hp hb db
    have sa := Fmt.neg_of_decode_fin hp ha da
    have sb := Fmt.neg_of_decode_fin hp hb db
    intro at' rounded low low3 sum dif acc
    refine ⟨Fmt.mul_fin da db na nb rm sa sb, fun h => ?_, fun h => ?_, fun h => ?_⟩
    · rw [Fmt.add_fin da db na nb, Fmt.scaled_eq, Fmt.scaled_eq, Fmt.roundInt_of_ne rm _ _ h]
    · rw [Fmt.sub_fin da db na nb hp hb, Fmt.scaled_eq, Fmt.scaled_eq, Fmt.roundInt_of_ne rm _ _ h]
    · rw [Fmt.fma_fin da db na nb rm sa sb dc (Fmt.isNaN_of_decode_fin hp hc dc), Fmt.scaled_eq, Fmt.scaled_eq, Fmt.roundInt_of_ne rm _ _ h]

end Sys2Proof.Machine
end
